-- ==== Sys2Proof/Word.lean ====
section
/-! DEFINITION. The word types of the Tredon and their plainest arithmetic (R3, R4: little-endian, bit 0 least significant). -/
namespace Sys2Proof

/-- A 32-bit register or instruction word. -/
abbrev Word := BitVec 32
/-- A 64-bit value: a register pair, a virtual address, a device register. -/
abbrev DWord := BitVec 64
/-- One byte of any memory. -/
abbrev Byte := BitVec 8

/-- The register pair ga:gb, low half in the even register (R4). -/
def pairOf (lo hi : Word) : DWord := hi ++ lo
/-- Bits [31:0] of a pair. -/
def loWord (v : DWord) : Word := v.truncate 32
/-- Bits [63:32] of a pair. -/
def hiWord (v : DWord) : Word := (v >>> 32).truncate 32
/-- One bit as a `Bool` becomes one bit of a word. -/
def bitWord (b : Bool) : Word := if b then 1 else 0

end Sys2Proof
end

