-- ==== Sys2Proof/Machine/Table.lean ====
section
/-! DEFINITION. Sparse tables by key: a list of (key, value) pairs in ONE canonical form, keys strictly rising. Registers,
memories, metadata words and every table of the package are such lists. -/
namespace Sys2Proof.Machine

/-- A sparse table; `Tbl (BitVec 8)` is a memory of `Host.Cell`s. -/
abbrev Tbl (β : Type) := List (Nat × β)

namespace Tbl
variable {β : Type}

/-- The entry at key `k`, if one is listed. -/
def find? : Tbl β → Nat → Option β
  | [], _ => none
  | (a, v) :: r, k => if a = k then some v else find? r k

/-- List `v` at key `k`, in rising order, in place of what stood there. -/
def put : Tbl β → Nat → β → Tbl β
  | [], k, v => [(k, v)]
  | (a, w) :: r, k, v =>
    if k < a then (k, v) :: (a, w) :: r
    else if a = k then (k, v) :: r
    else (a, w) :: put r k v

/-- Take the entry at key `k` out. -/
def erase : Tbl β → Nat → Tbl β
  | [], _ => []
  | (a, w) :: r, k => if a = k then erase r k else (a, w) :: erase r k

/-- What key `k` reads as: an unlisted key reads as `d`. -/
def get (d : β) (m : Tbl β) (k : Nat) : β := (find? m k).getD d

/-- Write `v` at key `k`; writing what an unlisted key reads as removes the entry. -/
def set [DecidableEq β] (d : β) (m : Tbl β) (k : Nat) (v : β) : Tbl β :=
  if v = d then erase m k else put m k v

/-- Change the entry at key `k`, if one is listed. -/
def modify (m : Tbl β) (k : Nat) (f : β → β) : Tbl β :=
  match find? m k with
  | some v => put m k (f v)
  | none => m

/-- Every key from here on is above `lo`. -/
def above : Option Nat → Tbl β → Bool
  | _, [] => true
  | none, (a, _) :: r => above (some a) r
  | some lo, (a, _) :: r => decide (lo < a) && above (some a) r

/-- The canonical form: keys strictly rising and no entry equal to what an unlisted key reads as. -/
def wf [DecidableEq β] (d : β) (m : Tbl β) : Bool :=
  above none m && m.all (fun e => decide (e.2 ≠ d))

end Tbl
end Sys2Proof.Machine
end

