-- ==== Sys2Proof/Machine/Bits.lean ====
section
/-! DEFINITION. Bytes, words and bit fields: little-endian order (R3) and the byte reads and writes of a memory, said once. -/
namespace Sys2Proof.Machine

/-- A word from four bytes, lowest address first (R3); bytes beyond the list are zero. -/
def wordOfBytes (l : List Byte) : Word :=
  l.getD 3 0 ++ l.getD 2 0 ++ l.getD 1 0 ++ l.getD 0 0
/-- The four bytes of a word, lowest address first. -/
def bytesOfWord (w : Word) : List Byte :=
  [w.extractLsb' 0 8, w.extractLsb' 8 8, w.extractLsb' 16 8, w.extractLsb' 24 8]
/-- The number that bytes stand for, lowest first. -/
def natOfBytes : List Byte → Nat
  | [] => 0
  | b :: r => b.toNat + 256 * natOfBytes r
/-- The `n` bytes of a number, lowest first. -/
def bytesOfNat : Nat → Nat → List Byte
  | 0, _ => []
  | n + 1, v => BitVec.ofNat 8 v :: bytesOfNat n (v / 256)
/-- Bits [hi:lo] of a number. -/
def fld (v hi lo : Nat) : Nat := v / 2 ^ lo % 2 ^ (hi + 1 - lo)
/-- Bit `n` of a number. -/
def bitOf (v n : Nat) : Bool := decide (v / 2 ^ n % 2 = 1)
/-- A Bool as a number. -/
def b2n (b : Bool) : Nat := if b then 1 else 0
/-- The list split into runs of `n` (as many as `k`). -/
def chunksOf {α : Type} (n : Nat) : Nat → List α → List (List α)
  | 0, _ => []
  | k + 1, l => l.take n :: chunksOf n k (l.drop n)
/-- Words of some bytes. -/
def wordsOfBytes (l : List Byte) : List Word := (chunksOf 4 ((l.length + 3) / 4) l).map wordOfBytes
/-- Set or clear bit `n`. -/
def putBit {w : Nat} (x : BitVec w) (n : Nat) (b : Bool) : BitVec w :=
  if b then x ||| (1#w <<< n) else x &&& ~~~(1#w <<< n)
/-- Bytes selected by a mask come from `new`, the others from `old`. -/
def mergeBytes (mask : BitVec 4) (new old : Word) : Word :=
  wordOfBytes ((List.range 4).map (fun i =>
    (if mask.getLsbD i then new else old).extractLsb' (8 * i) 8))
/-- Bits of a vector that are set, ascending. -/
def bitsSet {w : Nat} (x : BitVec w) : List Nat := (List.range w).filter x.getLsbD
/-- The parity of a number's bits below `n`. -/
def parity (n v : Nat) : Bool := (List.range n).foldl (fun p i => p != bitOf v i) false

namespace Memory

/-- One byte; an unlisted byte is zero. -/
def byte (m : Tbl Byte) (a : Nat) : Byte := Tbl.get 0 m a
/-- The `n` bytes at `a`. -/
def bytes (m : Tbl Byte) (a n : Nat) : List Byte := (List.range n).map (fun i => byte m (a + i))
/-- The bytes at `a` replaced. -/
def write (m : Tbl Byte) (a : Nat) : List Byte → Tbl Byte
  | [] => m
  | b :: r => write (Tbl.set 0 m a b) (a + 1) r
/-- The 4-byte word at `a`. -/
def word (m : Tbl Byte) (a : Nat) : Word := wordOfBytes (bytes m a 4)

end Memory
end Sys2Proof.Machine
end

