-- ==== Sys2Proof/Syntax.lean ====
section
/-! DEFINITION. The syntax: one constructor of `Instr` for each row of spec/opcode_table.json, over the manual's twelve
word formats (R235), the sepal word formats (R434) and the arguments that name an event (95_what_each_step_holds). -/
namespace Sys2Proof

/-- A thread of a task: the task's key (its 64-bit age, R101) and the thread number TID. -/
structure ThreadRef where
  task : Nat
  tid : Nat
  deriving DecidableEq, Repr

/-- Format of NOP: only C and W are free (R243). -/
structure FmtN where
  c : Bool
  w : Bool
  deriving DecidableEq, Repr
/-- Format R (R235). -/
structure FmtR where
  c : Bool
  w : Bool
  d : BitVec 6
  a : BitVec 6
  b : BitVec 6
  la : Bool
  lb : Bool
  deriving DecidableEq, Repr
/-- Format I (R235). -/
structure FmtI where
  c : Bool
  w : Bool
  d : BitVec 6
  a : BitVec 6
  la : Bool
  imm : BitVec 11
  deriving DecidableEq, Repr
/-- Format I as major 0x15 divides it (R257). -/
structure FmtSh where
  c : Bool
  w : Bool
  d : BitVec 6
  a : BitVec 6
  la : Bool
  wd : Bool
  z : BitVec 2
  n : BitVec 6
  deriving DecidableEq, Repr
/-- Format L (R235). -/
structure FmtL where
  c : Bool
  w : Bool
  d : BitVec 6
  imm : BitVec 16
  deriving DecidableEq, Repr
/-- Format F (R235). -/
structure FmtF where
  c : Bool
  w : Bool
  fd : BitVec 3
  cc : BitVec 3
  a : BitVec 6
  b : BitVec 6
  la : Bool
  lb : Bool
  ty : BitVec 4
  deriving DecidableEq, Repr
/-- Format X (R235). -/
structure FmtX where
  c : Bool
  w : Bool
  d : BitVec 6
  a : BitVec 6
  b : BitVec 6
  xr : BitVec 2
  xc : BitVec 2
  deriving DecidableEq, Repr
/-- Format M (R235). -/
structure FmtM where
  c : Bool
  w : Bool
  d : BitVec 6
  a : BitVec 6
  la : Bool
  sz : BitVec 3
  ord : BitVec 2
  off : BitVec 6
  deriving DecidableEq, Repr
/-- Format A (R235) with OP as the selector. -/
structure FmtA where
  c : Bool
  w : Bool
  d : BitVec 6
  a : BitVec 6
  b : BitVec 6
  ord : BitVec 2
  deriving DecidableEq, Repr
/-- Format A with ORD as the selector and OP a mask number (R295). -/
structure FmtAK where
  c : Bool
  w : Bool
  d : BitVec 6
  a : BitVec 6
  b : BitVec 6
  k : BitVec 4
  deriving DecidableEq, Repr
/-- Format K (R235). -/
structure FmtK where
  c : Bool
  w : Bool
  kd : BitVec 4
  ka : BitVec 4
  g : BitVec 6
  kb : BitVec 4
  deriving DecidableEq, Repr
/-- Format J (R235) with L as the selector. -/
structure FmtJ where
  c : Bool
  w : Bool
  n : Bool
  f : BitVec 3
  off : BitVec 19
  deriving DecidableEq, Repr
/-- Format T (R235) with OPX as the selector. -/
structure FmtT where
  c : Bool
  w : Bool
  h : BitVec 6
  a : BitVec 6
  bo : BitVec 6
  deriving DecidableEq, Repr
/-- Format T as major 0x30 divides OPX (R305). -/
structure FmtTL where
  c : Bool
  w : Bool
  h : BitVec 6
  a : BitVec 6
  bo : BitVec 6
  mode : BitVec 3
  level : BitVec 2
  deriving DecidableEq, Repr
/-- Format C (R235). -/
structure FmtC where
  c : Bool
  w : Bool
  d : BitVec 6
  a : BitVec 6
  la : Bool
  to_ : BitVec 4
  from_ : BitVec 4
  rm : BitVec 3
  deriving DecidableEq, Repr
/-- Format S (R235): `arg` is SEL[11:4] in major 0x20 and SEL[7:0] in major 0x3F. -/
structure FmtS where
  c : Bool
  w : Bool
  d : BitVec 6
  a : BitVec 6
  arg : BitVec 8
  deriving DecidableEq, Repr
/-- Format S where ARG[0] is the selector too (RTE, LAUNCH): `z` is ARG[7:1]. -/
structure FmtSA where
  c : Bool
  w : Bool
  d : BitVec 6
  a : BitVec 6
  z : BitVec 7
  deriving DecidableEq, Repr
/-- Format S as major 0x25 divides SEL (R286). -/
structure FmtQ where
  c : Bool
  w : Bool
  d : BitVec 6
  a : BitVec 6
  ch : BitVec 6
  n : BitVec 4
  deriving DecidableEq, Repr

/-- The operators of the atomic and reducing instructions (R288), `faddBf2` for RED alone (R291). -/
inductive AtOp
  | add | minS | minN | maxS | maxN | and | or | xor | exch | cas | faddF32 | faddF64 | faddBf2
  deriving DecidableEq, Repr

/-- A reduction as the home sees it: operator and width (R291). -/
structure RedOp where
  op : AtOp
  wide : Bool
  deriving DecidableEq, Repr

/-- What a fabric packet asks of its target (R39, R403, R404, R417; `remap`, R166). -/
inductive PacketKind
  | get | put | send | coll | remap | atom (op : AtOp) (ord : BitVec 2)
  deriving DecidableEq, Repr

/-- A request or a piece of one as it arrives at this device (R39 step 2, R432). -/
structure Packet where
  kind : PacketKind
  src : Nat
  dst : Nat
  cls : Nat
  /-- The virtual channel it travels in (R399, R400). -/
  vc : Nat
  /-- The initiator's number of the operation, returned with the response. -/
  op : Nat
  /-- The piece's number within the operation, and the number of pieces. -/
  piece : Nat
  pieces : Nat
  target : Nat
  len : Nat
  key : BitVec 32
  jobkey : BitVec 32
  payload : List Byte
  operand : DWord
  swap : DWord
  dcnt : Nat
  cntv : Bool
  incmode : Bool
  last : Bool
  collid : Nat
  cstep : Nat
  /-- Slot of the group descriptor when SEPV = 1 (R429). -/
  slot : Option Nat
  /-- A sepal kernel forwarded or mirrored it (R433). -/
  marked : Bool
  /-- A mirror copy: its outcome is reported to no one (R433). -/
  mirror : Bool
  deriving DecidableEq, Repr

/-- A response, data or acknowledgement of one piece (R40, R403): `reason` 0 is success. -/
structure Response where
  /-- The initiator's peer id. -/
  dst : Nat
  op : Nat
  piece : Nat
  /-- The virtual channel of its request (R399). -/
  vc : Nat
  reason : Nat
  data : List Byte
  deriving DecidableEq, Repr

/-- The two register spaces of R444. -/
inductive Page
  | global
  | function (f : Nat)
  deriving DecidableEq, Repr

/-- The ring registers of R447. -/
inductive RingReg
  | invq (f : Nat) | fq (f : Nat) | pfq (f : Nat) | framepool (h : Nat) | frameret (h : Nat)
  deriving DecidableEq, Repr

/-- The area registers of R447. -/
inductive AreaReg
  | spill (h : Nat) | lkovf (h : Nat) | savepool | collpool
  deriving DecidableEq, Repr

/-- A unit that R453 can fence. -/
inductive FenceUnit
  | core (p : Nat) | l2 (die slice : Nat) | rdc (die slice : Nat) | port (j : Nat)
  deriving DecidableEq, Repr

/-- Where an error arises and whether ECC or a spare repairs it (R80, R453). -/
inductive ErrorSite
  | corrected (u : FenceUnit)
  | uncorrectable (pa : Nat)
  | spared (core : Nat)
  deriving DecidableEq, Repr

/-- The steps of the Tredon: instruction words of the cores, words of the sepals, and the events of the package. -/
inductive Instr
  /-- NOP: Does nothing; may be chained with any word (R243) -/
  | nop (f : FmtN)
  /-- ADD_B32: Adds two 32-bit registers modulo 2^32 (R254) -/
  | addB32 (f : FmtR)
  /-- SUB_B32: Subtracts two 32-bit registers modulo 2^32 (R254) -/
  | subB32 (f : FmtR)
  /-- MUL_B32: Low 32 bits of the product (R254) -/
  | mulB32 (f : FmtR)
  /-- MULH_S32: High 32 bits of the signed product (R254) -/
  | mulhS32 (f : FmtR)
  /-- MULH_N32: High 32 bits of the unsigned product (R254) -/
  | mulhN32 (f : FmtR)
  /-- MIN_S32: Signed 32-bit minimum (R254) -/
  | minS32 (f : FmtR)
  /-- MIN_N32: Unsigned 32-bit minimum (R254) -/
  | minN32 (f : FmtR)
  /-- MAX_S32: Signed 32-bit maximum (R254) -/
  | maxS32 (f : FmtR)
  /-- MAX_N32: Unsigned 32-bit maximum (R254) -/
  | maxN32 (f : FmtR)
  /-- ABS_S32: Absolute value, wrapping (R254) -/
  | absS32 (f : FmtR)
  /-- NEG_S32: Negation, wrapping (R254) -/
  | negS32 (f : FmtR)
  /-- MAD_B32: d plus a times b modulo 2^32 (R254) -/
  | madB32 (f : FmtR)
  /-- IDP4_S8: Adds four signed byte products to d (R254) -/
  | idp4S8 (f : FmtR)
  /-- IDP4_N8: Adds four unsigned byte products to d (R254) -/
  | idp4N8 (f : FmtR)
  /-- ADD_B64: 64-bit add on pairs (R254) -/
  | addB64 (f : FmtR)
  /-- SUB_B64: 64-bit subtract on pairs (R254) -/
  | subB64 (f : FmtR)
  /-- MUL_B64: Low 64 bits of the product (R254) -/
  | mulB64 (f : FmtR)
  /-- MULH_S64: High 64 bits of the signed product (R254) -/
  | mulhS64 (f : FmtR)
  /-- MULH_N64: High 64 bits of the unsigned product (R254) -/
  | mulhN64 (f : FmtR)
  /-- MIN_S64: Signed 64-bit minimum (R254) -/
  | minS64 (f : FmtR)
  /-- MIN_N64: Unsigned 64-bit minimum (R254) -/
  | minN64 (f : FmtR)
  /-- MAX_S64: Signed 64-bit maximum (R254) -/
  | maxS64 (f : FmtR)
  /-- MAX_N64: Unsigned 64-bit maximum (R254) -/
  | maxN64 (f : FmtR)
  /-- ABS_S64: 64-bit absolute value, wrapping (R254) -/
  | absS64 (f : FmtR)
  /-- NEG_S64: 64-bit negation, wrapping (R254) -/
  | negS64 (f : FmtR)
  /-- MAD_B64: 64-bit multiply-add into d (R254) -/
  | madB64 (f : FmtR)
  /-- AND_B32: Bitwise AND (R256) -/
  | andB32 (f : FmtR)
  /-- OR_B32: Bitwise OR (R256) -/
  | orB32 (f : FmtR)
  /-- XOR_B32: Bitwise XOR (R256) -/
  | xorB32 (f : FmtR)
  /-- ANDN_B32: a AND NOT b (R256) -/
  | andnB32 (f : FmtR)
  /-- SHL_B32: Shift left by register amount (R256) -/
  | shlB32 (f : FmtR)
  /-- SHR_B32: Logical shift right by register amount (R256) -/
  | shrB32 (f : FmtR)
  /-- SAR_B32: Arithmetic shift right by register amount (R256) -/
  | sarB32 (f : FmtR)
  /-- ROL_B32: Rotate left by register amount (R256) -/
  | rolB32 (f : FmtR)
  /-- AND_B64: 64-bit AND on pairs (R256) -/
  | andB64 (f : FmtR)
  /-- OR_B64: 64-bit OR on pairs (R256) -/
  | orB64 (f : FmtR)
  /-- XOR_B64: 64-bit XOR on pairs (R256) -/
  | xorB64 (f : FmtR)
  /-- ANDN_B64: 64-bit a AND NOT b (R256) -/
  | andnB64 (f : FmtR)
  /-- SHL_B64: 64-bit shift left (R256) -/
  | shlB64 (f : FmtR)
  /-- SHR_B64: 64-bit logical shift right (R256) -/
  | shrB64 (f : FmtR)
  /-- SAR_B64: 64-bit arithmetic shift right (R256) -/
  | sarB64 (f : FmtR)
  /-- ROL_B64: 64-bit rotate left (R256) -/
  | rolB64 (f : FmtR)
  /-- SHLI: Shift left by immediate, 32 or 64 bits (R257) -/
  | shli (f : FmtSh)
  /-- SHRI: Logical shift right by immediate (R257) -/
  | shri (f : FmtSh)
  /-- SARI: Arithmetic shift right by immediate (R257) -/
  | sari (f : FmtSh)
  /-- ROLI: Rotate left by immediate (R257) -/
  | roli (f : FmtSh)
  /-- POPC_B32: Counts 1 bits (R258) -/
  | popcB32 (f : FmtR)
  /-- CLZ_B32: Counts leading zeros (R258) -/
  | clzB32 (f : FmtR)
  /-- CTZ_B32: Counts trailing zeros (R258) -/
  | ctzB32 (f : FmtR)
  /-- BREV_B32: Reverses bits (R258) -/
  | brevB32 (f : FmtR)
  /-- POPC_B64: Counts 1 bits of a pair (R258) -/
  | popcB64 (f : FmtR)
  /-- CLZ_B64: Leading zeros of a pair (R258) -/
  | clzB64 (f : FmtR)
  /-- CTZ_B64: Trailing zeros of a pair (R258) -/
  | ctzB64 (f : FmtR)
  /-- BREV_B64: Reverses the bits of a pair (R258) -/
  | brevB64 (f : FmtR)
  /-- BFX_N32: Extracts an unsigned bit field (R259) -/
  | bfxN32 (f : FmtR)
  /-- BFX_S32: Extracts a signed bit field (R259) -/
  | bfxS32 (f : FmtR)
  /-- BFI_B32: Inserts a bit field into d (R259) -/
  | bfiB32 (f : FmtR)
  /-- BPRM_B32: Permutes bytes of a and d (R259) -/
  | bprmB32 (f : FmtR)
  /-- MOV_B32: Copies a register (R260) -/
  | movB32 (f : FmtR)
  /-- MOV_B64: Copies a register pair (R260) -/
  | movB64 (f : FmtR)
  /-- XLOC: Computes an element's location from its index through the current matrix (R261) -/
  | xloc (f : FmtR)
  /-- XIDX: Computes an index from a location through the inverse matrix (R261) -/
  | xidx (f : FmtR)
  /-- SEL_B32: Selects a or b by a flag (R260) -/
  | selB32 (f : FmtR) (e : BitVec 3)
  /-- CMP: Compares two integers into a flag (R262) -/
  | cmp (f : FmtF)
  /-- FCMP: Compares two floating-point values into a flag (R321) -/
  | fcmp (f : FmtF)
  /-- FAND: AND of two flags (R264) -/
  | fAnd (f : FmtR)
  /-- FOR: OR of two flags (R264) -/
  | fOr (f : FmtR)
  /-- FXOR: XOR of two flags (R264) -/
  | fXor (f : FmtR)
  /-- FNOT: Inverts a flag (R264) -/
  | fNot (f : FmtR)
  /-- FSET: Sets a flag from a register being non-zero (R264) -/
  | fSet (f : FmtR)
  /-- FGET: Writes a flag value to a register (R264) -/
  | fGet (f : FmtR)
  /-- ADDI_B32: Adds a signed immediate (R265) -/
  | addiB32 (f : FmtI)
  /-- ADDI_B64: Adds a signed immediate to a pair (R265) -/
  | addiB64 (f : FmtI)
  /-- ANDI: AND with a zero-extended immediate (R265) -/
  | andi (f : FmtI)
  /-- ORI: OR with a zero-extended immediate (R265) -/
  | ori (f : FmtI)
  /-- XORI: XOR with a zero-extended immediate (R265) -/
  | xori (f : FmtI)
  /-- CMPI: Compares a register with an immediate into a flag (R263) -/
  | cmpi (f : FmtI)
  /-- MOVI_N: Loads a zero-extended 16-bit constant (R266) -/
  | moviN (f : FmtL)
  /-- MOVI_S: Loads a sign-extended 16-bit constant (R266) -/
  | moviS (f : FmtL)
  /-- MOVH: Writes the upper 16 bits of a register (R266) -/
  | movh (f : FmtL)
  /-- ADDH: Adds imm times 2^16 (R266) -/
  | addh (f : FmtL)
  /-- MAND: AND of two masks (R267) -/
  | mand (f : FmtK)
  /-- MOR: OR of two masks (R267) -/
  | mor (f : FmtK)
  /-- MXOR: XOR of two masks (R267) -/
  | mxor (f : FmtK)
  /-- MANDN: ka AND NOT kb (R267) -/
  | mandn (f : FmtK)
  /-- MMOV: Copies a mask (R267) -/
  | mmov (f : FmtK)
  /-- MSETG: Sets a mask from a register (R267) -/
  | msetg (f : FmtK)
  /-- MGETG: Reads a mask into a register (R267) -/
  | mgetg (f : FmtK)
  /-- MSELF: Sets the issuer's own bit in a mask (R267) -/
  | mself (f : FmtK)
  /-- MCLR: Clears a mask (R267) -/
  | mclr (f : FmtK)
  /-- MALL: Sets the bits of every live thread of the posy (R267) -/
  | mall (f : FmtK)
  /-- BALLOT: Lane collective returning the mask of arrived members whose flag is set (R270) -/
  | ballot (f : FmtK)
  /-- POPCM: Lane collective counting set flags (R270) -/
  | popcm (f : FmtK)
  /-- RANKM: Lane collective counting set flags below the receiver (R270) -/
  | rankm (f : FmtK)
  /-- JOIN: Arrives at a mask phase and parks until it completes (R206) -/
  | join (f : FmtK)
  /-- LEAVE: Removes the issuer from a mask, possibly completing a phase (R206) -/
  | leave (f : FmtK)
  /-- WAITK: Parks a non-member until the mask is zero (R206) -/
  | waitk (f : FmtK)
  /-- SHFL: Lane collective reading another lane's value (R271) -/
  | shfl (f : FmtR) (k : BitVec 4)
  /-- SHFLX: Lane collective reading the XOR-partner lane's value (R271) -/
  | shflx (f : FmtR) (k : BitVec 4)
  /-- REDM: Lane collective sum over arrived members (R271) -/
  | redm (f : FmtR) (k : BitVec 4)
  /-- SCANM: Lane collective inclusive prefix sum (R271) -/
  | scanm (f : FmtR) (k : BitVec 4)
  /-- MRGRK: Lane collective giving each member its stable-merge rank (R272) -/
  | mrgrk (f : FmtR) (k : BitVec 4)
  /-- BRA: Conditional or unconditional branch by packets (R273) -/
  | bra (f : FmtJ)
  /-- CALL: Writes the return packet to g60:g61 and branches; a commit point (R273) -/
  | call (f : FmtJ)
  /-- JMPR: Jumps to an address in a register pair (R274) -/
  | jmpr (f : FmtS)
  /-- CALLR: Calls an address in a register pair, writing the link (R274) -/
  | callr (f : FmtS)
  /-- RET: Returns to an address in a register pair (R274) -/
  | ret (f : FmtS)
  /-- REGION: Commit point opening a new region (R275) -/
  | region (f : FmtS)
  /-- TAIL: Ends the thread at once, draining stores through the retirement tracker (R210) -/
  | tail (f : FmtS)
  /-- EXIT: Ends the thread once its results and stores are complete (R210) -/
  | exit (f : FmtS)
  /-- XSUCC: Ends the task in favour of a successor task record (R212) -/
  | xsucc (f : FmtS)
  /-- TRIG: Marks the thread triggered (R216) -/
  | trig (f : FmtS)
  /-- YIELD: Withdraws the thread from issue for 16 cycles (R277) -/
  | yield (f : FmtS)
  /-- YIELD_EXPIRE: The 16-cycle withdrawal ends and the thread is ready again (R277) -/
  | yieldExpire (t : ThreadRef)
  /-- LD: Loads from global memory, plain or acquire (R282) -/
  | ld (f : FmtM)
  /-- ST: Stores to global memory, plain or release (R282) -/
  | st (f : FmtM)
  /-- LDS: Loads from the task's SPM (R282) -/
  | lds (f : FmtM)
  /-- STS: Stores to the task's SPM (R282) -/
  | sts (f : FmtM)
  /-- PREF: Prefetches a line into L1 without architectural effect (R285) -/
  | pref (f : FmtM)
  /-- LDQ: Pops one stage-channel entry into registers, parking while empty (R286) -/
  | ldq (f : FmtQ)
  /-- STQ: Pushes registers as one stage-channel entry, parking while full (R286) -/
  | stq (f : FmtQ)
  /-- WPRD: Reads a copy channel's write pointer as an acquire (R287) -/
  | wprd (f : FmtQ)
  /-- CHANNEL_OVERFLOW: A channel full for T0 starts sending entries to its overflow area (R225) -/
  | channelOverflow (lseq : Nat) (ch : Nat)
  /-- ATOM_ADD_B32: 32-bit atomic add returning the old value (R288) -/
  | atomAddB32 (f : FmtA)
  /-- ATOM_MIN_S32: 32-bit atomic signed minimum (R288) -/
  | atomMinS32 (f : FmtA)
  /-- ATOM_MIN_N32: 32-bit atomic unsigned minimum (R288) -/
  | atomMinN32 (f : FmtA)
  /-- ATOM_MAX_S32: 32-bit atomic signed maximum (R288) -/
  | atomMaxS32 (f : FmtA)
  /-- ATOM_MAX_N32: 32-bit atomic unsigned maximum (R288) -/
  | atomMaxN32 (f : FmtA)
  /-- ATOM_AND_B32: 32-bit atomic AND (R288) -/
  | atomAndB32 (f : FmtA)
  /-- ATOM_OR_B32: 32-bit atomic OR (R288) -/
  | atomOrB32 (f : FmtA)
  /-- ATOM_XOR_B32: 32-bit atomic XOR (R288) -/
  | atomXorB32 (f : FmtA)
  /-- ATOM_EXCH_B32: 32-bit atomic exchange (R288) -/
  | atomExchB32 (f : FmtA)
  /-- ATOM_CAS_B32: 32-bit atomic compare-and-swap (R288) -/
  | atomCasB32 (f : FmtA)
  /-- ATOM_FADD_F32: Atomic f32 add under R77 (R288) -/
  | atomFaddF32 (f : FmtA)
  /-- ATOM_ADD_B64: 64-bit atomic add (R288) -/
  | atomAddB64 (f : FmtA)
  /-- ATOM_MIN_S64: 64-bit atomic signed minimum (R288) -/
  | atomMinS64 (f : FmtA)
  /-- ATOM_MIN_N64: 64-bit atomic unsigned minimum (R288) -/
  | atomMinN64 (f : FmtA)
  /-- ATOM_MAX_S64: 64-bit atomic signed maximum (R288) -/
  | atomMaxS64 (f : FmtA)
  /-- ATOM_MAX_N64: 64-bit atomic unsigned maximum (R288) -/
  | atomMaxN64 (f : FmtA)
  /-- ATOM_AND_B64: 64-bit atomic AND (R288) -/
  | atomAndB64 (f : FmtA)
  /-- ATOM_OR_B64: 64-bit atomic OR (R288) -/
  | atomOrB64 (f : FmtA)
  /-- ATOM_XOR_B64: 64-bit atomic XOR (R288) -/
  | atomXorB64 (f : FmtA)
  /-- ATOM_EXCH_B64: 64-bit atomic exchange (R288) -/
  | atomExchB64 (f : FmtA)
  /-- ATOM_CAS_B64: 64-bit atomic compare-and-swap (R288) -/
  | atomCasB64 (f : FmtA)
  /-- ATOM_FADD_F64: Atomic f64 add under R77 (R288) -/
  | atomFaddF64 (f : FmtA)
  /-- ATOMS_ADD_B32: SPM atomic add (R290) -/
  | atomsAddB32 (f : FmtA)
  /-- ATOMS_MIN_S32: SPM atomic signed minimum (R290) -/
  | atomsMinS32 (f : FmtA)
  /-- ATOMS_MIN_N32: SPM atomic unsigned minimum (R290) -/
  | atomsMinN32 (f : FmtA)
  /-- ATOMS_MAX_S32: SPM atomic signed maximum (R290) -/
  | atomsMaxS32 (f : FmtA)
  /-- ATOMS_MAX_N32: SPM atomic unsigned maximum (R290) -/
  | atomsMaxN32 (f : FmtA)
  /-- ATOMS_AND_B32: SPM atomic AND (R290) -/
  | atomsAndB32 (f : FmtA)
  /-- ATOMS_OR_B32: SPM atomic OR (R290) -/
  | atomsOrB32 (f : FmtA)
  /-- ATOMS_XOR_B32: SPM atomic XOR (R290) -/
  | atomsXorB32 (f : FmtA)
  /-- ATOMS_EXCH_B32: SPM atomic exchange (R290) -/
  | atomsExchB32 (f : FmtA)
  /-- ATOMS_CAS_B32: SPM atomic compare-and-swap (R290) -/
  | atomsCasB32 (f : FmtA)
  /-- ATOMS_FADD_F32: SPM atomic f32 add (R290) -/
  | atomsFaddF32 (f : FmtA)
  /-- RED_ADD: Reducing integer add, entering U as a partial or applied as RedF (R291) -/
  | redAdd (f : FmtA)
  /-- RED_MIN_S: Signed minimum applied at the home as RedF (R291) -/
  | redMinS (f : FmtA)
  /-- RED_MIN_N: Unsigned minimum applied as RedF (R291) -/
  | redMinN (f : FmtA)
  /-- RED_MAX_S: Signed maximum applied as RedF (R291) -/
  | redMaxS (f : FmtA)
  /-- RED_MAX_N: Unsigned maximum applied as RedF (R291) -/
  | redMaxN (f : FmtA)
  /-- RED_AND: AND applied as RedF (R291) -/
  | redAnd (f : FmtA)
  /-- RED_OR: OR applied as RedF (R291) -/
  | redOr (f : FmtA)
  /-- RED_XOR: XOR applied as RedF (R291) -/
  | redXor (f : FmtA)
  /-- RED_FADD_F32: Reducing f32 add (R291) -/
  | redFaddF32 (f : FmtA)
  /-- RED_FADD_F64: Reducing f64 add (R291) -/
  | redFaddF64 (f : FmtA)
  /-- RED_FADD_BF2: Reducing add of two BF16 halves (R291) -/
  | redFaddBf2 (f : FmtA)
  /-- REDS_ADD_B32: SPM reducing add at the bank (R292) -/
  | redsAddB32 (f : FmtA)
  /-- REDS_MIN_S32: SPM reducing signed minimum (R292) -/
  | redsMinS32 (f : FmtA)
  /-- REDS_MIN_N32: SPM reducing unsigned minimum (R292) -/
  | redsMinN32 (f : FmtA)
  /-- REDS_MAX_S32: SPM reducing signed maximum (R292) -/
  | redsMaxS32 (f : FmtA)
  /-- REDS_MAX_N32: SPM reducing unsigned maximum (R292) -/
  | redsMaxN32 (f : FmtA)
  /-- REDS_AND_B32: SPM reducing AND (R292) -/
  | redsAndB32 (f : FmtA)
  /-- REDS_OR_B32: SPM reducing OR (R292) -/
  | redsOrB32 (f : FmtA)
  /-- REDS_XOR_B32: SPM reducing XOR (R292) -/
  | redsXorB32 (f : FmtA)
  /-- REDS_FADD_F32: SPM reducing f32 add (R292) -/
  | redsFaddF32 (f : FmtA)
  /-- REDS_FADD_BF2: SPM reducing BF16-pair add (R292) -/
  | redsFaddBf2 (f : FmtA)
  /-- MWAIT_EQ: Parks while a 64-bit word equals a value; completes with an acquire read (R293) -/
  | mwaitEq (f : FmtA)
  /-- MWAIT_NE: Parks while a 64-bit word differs from a value (R293) -/
  | mwaitNe (f : FmtA)
  /-- MWAIT_RECHECK: A parked MWAIT re-reads its word after a write to its line or every 4,096 cycles (R293) -/
  | mwaitRecheck (t : ThreadRef)
  /-- STCMP: Lane collective storing selected members' values to consecutive words (R295) -/
  | stcmp (f : FmtAK)
  /-- LDEXP: Lane collective handing consecutive words to selected members (R295) -/
  | ldexp (f : FmtAK)
  /-- LDT_B16: Loads a 16-bit tensor element by handle and index (R298) -/
  | ldtB16 (f : FmtT)
  /-- LDT_B32: Loads a 32-bit tensor element (R298) -/
  | ldtB32 (f : FmtT)
  /-- LDT_B64: Loads a 64-bit tensor element (R298) -/
  | ldtB64 (f : FmtT)
  /-- STT_B16: Stores a 16-bit tensor element (R298) -/
  | sttB16 (f : FmtT)
  /-- STT_B32: Stores a 32-bit tensor element (R298) -/
  | sttB32 (f : FmtT)
  /-- STT_B64: Stores a 64-bit tensor element (R298) -/
  | sttB64 (f : FmtT)
  /-- BINIT: Initialises a barrier object and releases its BWAIT waiters (R300) -/
  | binit (f : FmtT)
  /-- BARR: Counts one arrival at a barrier object as a release (R301) -/
  | barr (f : FmtT)
  /-- BDROP: Counts an arrival and lowers NEXTEXP (R301) -/
  | bdrop (f : FmtT)
  /-- BWAIT: Parks while the barrier phase is unchanged; returns as an acquire (R304) -/
  | bwait (f : FmtT)
  /-- BEXP: Adds expected engine bytes to PENDB (R302) -/
  | bexp (f : FmtT)
  /-- BTEST: Reports barrier phase and ERROR without parking (R304) -/
  | btest (f : FmtT)
  /-- LKACQ: Requests a lock in a mode at a level, granting, parking or wounding (R305) -/
  | lkacq (f : FmtTL)
  /-- LKUPG: Upgrades a held lock mode (R305) -/
  | lkupg (f : FmtTL)
  /-- LKREL: Releases a held lock and rechecks its waiters (R306) -/
  | lkrel (f : FmtT) (lv : BitVec 2)
  /-- LKRALL: Releases and withdraws every lock and request of the task (R306) -/
  | lkrall (f : FmtT)
  /-- LKCHK: Returns the task's WOUNDED flag (R306) -/
  | lkchk (f : FmtT)
  /-- LKRALL_COMPLETE: LKRALL finishes at every home agent, clears WOUNDED and resumes withdrawn threads (R107) -/
  | lkrallComplete (task : Nat)
  /-- GRACE_EXPIRED: A wounded task's grace timer expires and all its locks are revoked (R106) -/
  | graceExpired (task : Nat)
  /-- RROT: Issues a bed ring rotation counted on a barrier object (R307) -/
  | rrot (f : FmtT)
  /-- RROT_START: A rotation starts once all eight paired RROTs of the bed have issued (R308) -/
  | rrotStart (lseq : Nat) (bed : Nat)
  /-- RROT_ARRIVE: The predecessor's tile is written into the destination and subtracted from PENDB (R308) -/
  | rrotArrive (op : Nat)
  /-- FADD_F32: f32 add under FCR.RM (R314) -/
  | faddF32 (f : FmtR)
  /-- FSUB_F32: f32 subtract (R314) -/
  | fsubF32 (f : FmtR)
  /-- FMUL_F32: f32 multiply (R314) -/
  | fmulF32 (f : FmtR)
  /-- FFMA_F32: f32 fused multiply-add into d (R314) -/
  | ffmaF32 (f : FmtR)
  /-- FMIN_F32: f32 minimumNumber (R315) -/
  | fminF32 (f : FmtR)
  /-- FMAX_F32: f32 maximumNumber (R315) -/
  | fmaxF32 (f : FmtR)
  /-- FABS_F32: Clears the sign of an f32 (R315) -/
  | fabsF32 (f : FmtR)
  /-- FNEG_F32: Inverts the sign of an f32 (R315) -/
  | fnegF32 (f : FmtR)
  /-- FRND_F32_RN: Rounds an f32 to integral, nearest (R315) -/
  | frndF32Rn (f : FmtR)
  /-- FRND_F32_RZ: Rounds an f32 to integral toward zero (R315) -/
  | frndF32Rz (f : FmtR)
  /-- FRND_F32_RU: Rounds an f32 to integral upward (R315) -/
  | frndF32Ru (f : FmtR)
  /-- FRND_F32_RD: Rounds an f32 to integral downward (R315) -/
  | frndF32Rd (f : FmtR)
  /-- FADD_F64: f64 add on pairs (R314) -/
  | faddF64 (f : FmtR)
  /-- FSUB_F64: f64 subtract (R314) -/
  | fsubF64 (f : FmtR)
  /-- FMUL_F64: f64 multiply (R314) -/
  | fmulF64 (f : FmtR)
  /-- FFMA_F64: f64 fused multiply-add (R314) -/
  | ffmaF64 (f : FmtR)
  /-- FMIN_F64: f64 minimumNumber (R315) -/
  | fminF64 (f : FmtR)
  /-- FMAX_F64: f64 maximumNumber (R315) -/
  | fmaxF64 (f : FmtR)
  /-- FABS_F64: Clears the sign of an f64 (R315) -/
  | fabsF64 (f : FmtR)
  /-- FNEG_F64: Inverts the sign of an f64 (R315) -/
  | fnegF64 (f : FmtR)
  /-- FRND_F64_RN: Rounds an f64 to integral, nearest (R315) -/
  | frndF64Rn (f : FmtR)
  /-- FRND_F64_RZ: Rounds an f64 toward zero (R315) -/
  | frndF64Rz (f : FmtR)
  /-- FRND_F64_RU: Rounds an f64 upward (R315) -/
  | frndF64Ru (f : FmtR)
  /-- FRND_F64_RD: Rounds an f64 downward (R315) -/
  | frndF64Rd (f : FmtR)
  /-- HADD2_H: Packed binary16 add (R316) -/
  | hadd2H (f : FmtR)
  /-- HSUB2_H: Packed binary16 subtract (R316) -/
  | hsub2H (f : FmtR)
  /-- HMUL2_H: Packed binary16 multiply (R316) -/
  | hmul2H (f : FmtR)
  /-- HFMA2_H: Packed binary16 fused multiply-add (R316) -/
  | hfma2H (f : FmtR)
  /-- HMIN2_H: Packed binary16 minimum (R316) -/
  | hmin2H (f : FmtR)
  /-- HMAX2_H: Packed binary16 maximum (R316) -/
  | hmax2H (f : FmtR)
  /-- HADD2_BF: Packed BF16 add (R316) -/
  | hadd2Bf (f : FmtR)
  /-- HSUB2_BF: Packed BF16 subtract (R316) -/
  | hsub2Bf (f : FmtR)
  /-- HMUL2_BF: Packed BF16 multiply (R316) -/
  | hmul2Bf (f : FmtR)
  /-- HFMA2_BF: Packed BF16 fused multiply-add (R316) -/
  | hfma2Bf (f : FmtR)
  /-- HMIN2_BF: Packed BF16 minimum (R316) -/
  | hmin2Bf (f : FmtR)
  /-- HMAX2_BF: Packed BF16 maximum (R316) -/
  | hmax2Bf (f : FmtR)
  /-- DOT4_E4: Four exact E4 products added to f32 d with one RN rounding (R317) -/
  | dot4E4 (f : FmtR)
  /-- DOT4_E5: Four exact E5 products added to f32 d (R317) -/
  | dot4E5 (f : FmtR)
  /-- FRCP_F32: Correctly rounded f32 reciprocal (R318) -/
  | frcpF32 (f : FmtR)
  /-- FRSQ_F32: Nearest f32 reciprocal square root (R318) -/
  | frsqF32 (f : FmtR)
  /-- FSQRT_F32: Correctly rounded f32 square root (R318) -/
  | fsqrtF32 (f : FmtR)
  /-- FEXP2_F32: Nearest 2^a (R318) -/
  | fexp2F32 (f : FmtR)
  /-- FLOG2_F32: Nearest log2 a (R318) -/
  | flog2F32 (f : FmtR)
  /-- FSIN_F32: Nearest sin 2πa (R318) -/
  | fsinF32 (f : FmtR)
  /-- FCOS_F32: Nearest cos 2πa (R318) -/
  | fcosF32 (f : FmtR)
  /-- FDIV_F32: Correctly rounded f32 division (R318) -/
  | fdivF32 (f : FmtR)
  /-- FSQRT_F64: Correctly rounded f64 square root (R318) -/
  | fsqrtF64 (f : FmtR)
  /-- FDIV_F64: Correctly rounded f64 division (R318) -/
  | fdivF64 (f : FmtR)
  /-- FRCP_F64: Correctly rounded f64 reciprocal (R318) -/
  | frcpF64 (f : FmtR)
  /-- FCLASS_F32: Classifies an f32 into a one-hot word (R320) -/
  | fclassF32 (f : FmtR)
  /-- FCLASS_F64: Classifies an f64 (R320) -/
  | fclassF64 (f : FmtR)
  /-- CVT: Converts between types under the word's rounding mode (R323) -/
  | cvt (f : FmtC)
  /-- BLK_ADD_B32: Block integer add over a register rectangle (R324) -/
  | blkAddB32 (f : FmtX)
  /-- BLK_MOV_B32: Block register copy (R324) -/
  | blkMovB32 (f : FmtX)
  /-- BLK_AND_B32: Block AND (R324) -/
  | blkAndB32 (f : FmtX)
  /-- BLK_XOR_B32: Block XOR (R324) -/
  | blkXorB32 (f : FmtX)
  /-- BLK_FADD_F32: Block f32 add (R324) -/
  | blkFaddF32 (f : FmtX)
  /-- BLK_FMUL_F32: Block f32 multiply (R324) -/
  | blkFmulF32 (f : FmtX)
  /-- BLK_FFMA_F32: Block f32 fused multiply-add (R324) -/
  | blkFfmaF32 (f : FmtX)
  /-- BLK_FMAX_F32: Block f32 maximum (R324) -/
  | blkFmaxF32 (f : FmtX)
  /-- BLK_HFMA2_H: Block packed binary16 FMA (R324) -/
  | blkHfma2H (f : FmtX)
  /-- BLK_HFMA2_BF: Block packed BF16 FMA (R324) -/
  | blkHfma2Bf (f : FmtX)
  /-- BLK_FFMA_F64: Block f64 FMA on register pairs (R324) -/
  | blkFfmaF64 (f : FmtX)
  /-- MXCFG: Loads the MX configuration record from SPM (R328) -/
  | mxcfg (f : FmtT)
  /-- MXLDS: Loads the shadow plane from SPM (R331) -/
  | mxlds (f : FmtT)
  /-- MXSWAP: Exchanges the active and shadow planes (R331) -/
  | mxswap (f : FmtT)
  /-- MXMUL: Streams A rows past the active plane into an accumulator tile (R332) -/
  | mxmul (f : FmtT)
  /-- MXST: Stores accumulator rows to SPM (R333) -/
  | mxst (f : FmtT)
  /-- MXZERO: Clears an accumulator tile (R331) -/
  | mxzero (f : FmtT)
  /-- MXGO: Starts a background matrix product over three tensor records (R335) -/
  | mxgo (f : FmtT)
  /-- MXSTAT: Reports the core's MXGO progress and state (R337) -/
  | mxstat (f : FmtT)
  /-- MXGO_STEP: One global k-step of MXGO completes, writing C when a tile finishes (R335) -/
  | mxgoStep (core : Nat)
  /-- TDEF: Attaches a tensor handle to the layout state of a record (R297) -/
  | tdef (f : FmtT)
  /-- TREL: Releases a tensor handle (R343) -/
  | trel (f : FmtT)
  /-- TCOPY: Starts a chunked copy between two tensor records (R345) -/
  | tcopy (f : FmtT)
  /-- REMAP: Replaces a tensor's matrix, running every remaining pass (R351) -/
  | remap (f : FmtT)
  /-- REMAP_STEP: Runs exactly one REMAP pass (R351) -/
  | remapStep (f : FmtT)
  /-- TMERGE: Starts a stable merge of two sorted record runs (R353) -/
  | tmerge (f : FmtT)
  /-- TXF: Starts the transform that XOP selects (R354) -/
  | txf (f : FmtT)
  /-- TSTAT: Reports a layout state and engine progress (R344) -/
  | tstat (f : FmtT)
  /-- TLDTAB: Loads a decode table into a layout state synchronously (R355) -/
  | tldtab (f : FmtT)
  /-- ENGINE_CHUNK: An engine operation completes a chunk or element, updating PENDB, WP and progress; the last one completes the
  operation (R173) -/
  | engineChunk (op : Nat)
  /-- REMAP_PASS_END: A REMAP pass ends, advancing MATNO and subtracting its bytes (R165) -/
  | remapPassEnd (lseq : Nat) (va : Nat)
  /-- RGET: Starts a remote get counted on a barrier object (R403) -/
  | rget (f : FmtT)
  /-- RPUT: Starts a remote put counted on a barrier object (R403) -/
  | rput (f : FmtT)
  /-- TSEND: Arms a triggered send in the FXE's armed table (R410) -/
  | tsend (f : FmtT)
  /-- TCNT: Reads a receive counter as an acquire (R408) -/
  | tcnt (f : FmtT)
  /-- RFENCE: Parks until the thread's earlier remote operations complete at their targets (R140) -/
  | rfence (f : FmtT)
  /-- CARM: Arms a counter entry that subtracts one barrier byte when due (R411) -/
  | carm (f : FmtT)
  /-- SKLD: Loads and checks a sepal kernel into a slot (R420) -/
  | skld (f : FmtT)
  /-- SKREL: Releases a sepal kernel slot (R428) -/
  | skrel (f : FmtT)
  /-- SKREL_COMPLETE: After the slot's running contexts finish, the slot and its flow memory are freed (R428) -/
  | skrelComplete (slot : Nat)
  /-- RATOM_ADD_B64: Remote 64-bit atomic add (R404) -/
  | ratomAddB64 (f : FmtA)
  /-- RATOM_MIN_S64: Remote atomic signed minimum (R404) -/
  | ratomMinS64 (f : FmtA)
  /-- RATOM_MIN_N64: Remote atomic unsigned minimum (R404) -/
  | ratomMinN64 (f : FmtA)
  /-- RATOM_MAX_S64: Remote atomic signed maximum (R404) -/
  | ratomMaxS64 (f : FmtA)
  /-- RATOM_MAX_N64: Remote atomic unsigned maximum (R404) -/
  | ratomMaxN64 (f : FmtA)
  /-- RATOM_AND_B64: Remote atomic AND (R404) -/
  | ratomAndB64 (f : FmtA)
  /-- RATOM_OR_B64: Remote atomic OR (R404) -/
  | ratomOrB64 (f : FmtA)
  /-- RATOM_XOR_B64: Remote atomic XOR (R404) -/
  | ratomXorB64 (f : FmtA)
  /-- RATOM_EXCH_B64: Remote atomic exchange (R404) -/
  | ratomExchB64 (f : FmtA)
  /-- RATOM_CAS_B64: Remote atomic compare-and-swap (R404) -/
  | ratomCasB64 (f : FmtA)
  /-- RATOM_TIMEOUT: No RATOM response within RTIMEOUT: REMOTE trap with reason TIMEOUT (R404) -/
  | ratomTimeout (t : ThreadRef)
  /-- TRAP: Raises a precise SOFT trap with subcode n (R278) -/
  | trap (f : FmtS)
  /-- SRD: Reads a special register (R279) -/
  | srd (f : FmtS)
  /-- SWR: Writes FCR, TRAPBASELO or TRAPBASEHI (R280) -/
  | swr (f : FmtS)
  /-- RTE_RESTART: Returns from a handler to REGIONPC (R382) -/
  | rteRestart (f : FmtSA)
  /-- RTE_NEXT: Returns from a handler past the faulting group (R382) -/
  | rteNext (f : FmtSA)
  /-- FLTRD: Reads a field of the thread's trap record (R384) -/
  | fltrd (f : FmtS)
  /-- LAUNCH: Queues a launch from device code, parking while the ring is full (R387) -/
  | launch (f : FmtSA)
  /-- LAUNCH_NB: Queues a launch, returning FULL instead of parking (R387) -/
  | launchNb (f : FmtSA)
  /-- SIGW: Parks until a signal object falls to a threshold or carries bit 63 (R386) -/
  | sigw (f : FmtS)
  /-- SIGW_RECHECK: A parked SIGW re-reads its signal after a write to its line or every 4,096 cycles (R386) -/
  | sigwRecheck (t : ThreadRef)
  /-- BKPT: Raises SOFT with subcode 256 + n (R385) -/
  | bkpt (f : FmtS)
  /-- DEFERRED_TRAP_ENTRY: A deferred-lane trap enters its handler once the task's other threads rest (R376) -/
  | deferredTrapEntry (t : ThreadRef)
  /-- RESUME: Host RESUME write rolls back or fails every thread and engine under a token (R389) -/
  | resume (func : Nat) (v : BitVec 64)
  /-- PFQ_RECORD_RELEASE: A held page-fault record is written once its queue has room or is named (R381) -/
  | pfqRecordRelease (func : Nat)
  /-- RESULT_RETURN: A variable-latency result returns and is written to its destination (R233) -/
  | resultReturn (t : ThreadRef)
  /-- STORE_ERROR: A store fails at memory or PCIe, making a STORE trap pending (R284) -/
  | storeError (t : ThreadRef) (pc : BitVec 64) (va : BitVec 64) (sub : Nat)
  /-- THREAD_END: An EXITing thread's outstanding work completes and it ends (R210) -/
  | threadEnd (t : ThreadRef)
  /-- TASK_RESOURCES_FREE: After tracker drain and engine completion, a task's SPM, TMEM and tensor table are freed (R211) -/
  | taskResourcesFree (task : Nat)
  /-- SUCCESSOR_PLACE: An XSUCC successor is placed once its registers are free (R212) -/
  | successorPlace (task : Nat)
  /-- PETAL_POWER_GATE: After T1 of continuous waiting the petal is power-gated (R222) -/
  | petalPowerGate (core : Nat) (petal : Nat)
  /-- HANG_REPORT: After T2 of waiting, HANG records are written per waited-on object (R223) -/
  | hangReport (core : Nat) (petal : Nat)
  /-- QUEUE_WRITE: A QTAIL write submits launch records to a hardware work queue (R362) -/
  | queueWrite (func : Nat) (q : Nat) (tail : BitVec 32)
  /-- LAUNCH_CHECK: A launch record is read at the arbiter and rejected if invalid (R361) -/
  | launchCheck (q : Nat) (count : Nat)
  /-- DEPENDENCE_RECHECK: A watched dependence signal is re-read after a write or every 4,096 cycles (R363) -/
  | dependenceRecheck (q : Nat) (count : Nat)
  /-- DISPATCH: The arbiter selects an eligible launch, numbers it and maps its cores (R365) -/
  | dispatch
  /-- TASK_ADMIT: A core admits a waiting task once registers, SPM and posies fit (R367) -/
  | taskAdmit (core : Nat)
  /-- STAGE_REBALANCE: Every 4,096 cycles one core may move between stages by channel fill (R369) -/
  | stageRebalance (lseq : Nat)
  /-- STEAL_REQUEST: An idle core's steal request makes a victim bed ship an unstarted task (R370) -/
  | stealRequest (core : Nat)
  /-- PREEMPT_REQUEST: A pre-emption request stops issue on named cores and settles waits and engines (R392) -/
  | preemptRequest (cores : List Nat)
  /-- TASK_SAVE: After drains, a task's state is copied to a save area and its core resources freed (R392) -/
  | taskSave (task : Nat)
  /-- TASK_RESTORE: A saved task is restored when room appears on its mapped core (R396) -/
  | taskRestore (task : Nat)
  /-- SECTOR_READ: An L1 miss reads a 64-byte sector from its slice (R57) -/
  | sectorRead (core : Nat) (pa : Nat)
  /-- REGISTRATION: A slice accepts a word registration, revoking any earlier owner (R58) -/
  | registration (core : Nat)
  /-- REGISTRATION_ACK: The acknowledgement turns a PND word into OWN (R58) -/
  | registrationAck (core : Nat)
  /-- L1_EVICTION: An L1 line is evicted, writing back OWN words and spilling PAR words (R62) -/
  | l1Eviction (core : Nat) (line : Nat)
  /-- SLICE_EVICTION: A slice evicts a line, recalling, spilling and writing back (R68) -/
  | sliceEviction (die : Nat) (line : Nat)
  /-- RDS: Home agent handles a read-to-share from a die (R73) -/
  | rds (die : Nat) (line : Nat)
  /-- RDX: Home agent handles a read for ownership (R73) -/
  | rdx (die : Nat) (line : Nat)
  /-- WB: Home agent handles a dirty write-back (R73) -/
  | wb (die : Nat) (line : Nat)
  /-- EVC: Home agent handles a clean-eviction notice (R73) -/
  | evc (die : Nat) (line : Nat)
  /-- REDU: Home agent admits a die to the U state under an op (R73) -/
  | redu (die : Nat) (line : Nat) (op : RedOp)
  /-- REDF: Home agent applies a far reduction at memory (R78) -/
  | redf (pa : Nat) (op : RedOp) (v : BitVec 64)
  /-- WRN: Home agent or slice handles a write that does not allocate (R72) -/
  | wrn (pa : Nat) (bytes : List (BitVec 8))
  /-- SPILL: Home agent stores a core's spilled partial (R74) -/
  | spill (die : Nat) (core : Nat) (line : Nat)
  /-- PLACEMENT_EPOCH: At each epoch end the home agent decides each region and clears counts (R48) -/
  | placementEpoch (home : Nat)
  /-- MIGRATION_FINISH: After invalidation drains, the region is merged, copied and remapped (R49) -/
  | migrationFinish (asid : Nat) (region : Nat)
  /-- MIG_REWALK: An access waiting on MIG = 1 walks again once MIG clears (R50) -/
  | migRewalk (t : ThreadRef)
  /-- INVALIDATION_COMMAND: An invalidation command is read from a function's queue and its entries discarded (R31) -/
  | invalidationCommand (func : Nat)
  /-- INVALIDATION_COMPLETE: After affected accesses complete, SIG is decremented as a release (R32) -/
  | invalidationComplete (func : Nat)
  /-- ATS_INVALIDATION: A PCIe ATS invalidation request is completed under R32 steps 1–2 (R33) -/
  | atsInvalidation (pasid : Nat) (page : Nat)
  /-- ATS_COMPLETION: An ATS translation completion fills the ATC or sends a PRI request (R33) -/
  | atsCompletion (pasid : Nat) (page : Nat) (frame : Option Nat)
  /-- PRI_RESPONSE: The host answers a PRI page request (R33) -/
  | priResponse (pasid : Nat) (page : Nat) (ok : Bool)
  /-- HOST_WRITE: A host write to device memory is applied as WrN (R72) -/
  | hostWrite (pa : Nat) (bytes : List (BitVec 8))
  /-- HOST_READ: A host read of device memory, poisoned lines returning EP (R80) -/
  | hostRead (pa : Nat) (len : Nat)
  /-- REMOTE_REQUEST: A fabric request or piece arrives at the target and is checked and performed (R39) -/
  | remoteRequest (p : Packet)
  /-- REMOTE_RESPONSE: A response, data or acknowledgement returns to the initiator (R403) -/
  | remoteResponse (r : Response)
  /-- COLLECTIVE_RESERVE: A member reserves counters and staging for a collective and runs the ready exchange (R416) -/
  | collectiveReserve (lseq : Nat)
  /-- SEPAL_CONTEXT_START: A packet matched to a kernel slot starts in a free sepal context (R431) -/
  | sepalContextStart (sepal : Nat)
  /-- SEPAL_ADD: Scalar add of registers (R434) -/
  | sepalAdd (d : BitVec 4) (a : BitVec 4) (b : BitVec 4)
  /-- SEPAL_ADD_IMM: Scalar add of an immediate (R434) -/
  | sepalAddImm (d : BitVec 4) (a : BitVec 4) (imm : BitVec 17)
  /-- SEPAL_SUB: Scalar subtract (R434) -/
  | sepalSub (d : BitVec 4) (a : BitVec 4) (b : BitVec 4)
  /-- SEPAL_SUB_IMM: Scalar subtract of an immediate (R434) -/
  | sepalSubImm (d : BitVec 4) (a : BitVec 4) (imm : BitVec 17)
  /-- SEPAL_AND: Scalar AND (R434) -/
  | sepalAnd (d : BitVec 4) (a : BitVec 4) (b : BitVec 4)
  /-- SEPAL_AND_IMM: Scalar AND with an immediate (R434) -/
  | sepalAndImm (d : BitVec 4) (a : BitVec 4) (imm : BitVec 17)
  /-- SEPAL_OR: Scalar OR (R434) -/
  | sepalOr (d : BitVec 4) (a : BitVec 4) (b : BitVec 4)
  /-- SEPAL_OR_IMM: Scalar OR with an immediate (R434) -/
  | sepalOrImm (d : BitVec 4) (a : BitVec 4) (imm : BitVec 17)
  /-- SEPAL_XOR: Scalar XOR (R434) -/
  | sepalXor (d : BitVec 4) (a : BitVec 4) (b : BitVec 4)
  /-- SEPAL_XOR_IMM: Scalar XOR with an immediate (R434) -/
  | sepalXorImm (d : BitVec 4) (a : BitVec 4) (imm : BitVec 17)
  /-- SEPAL_SHL: Scalar shift left (R434) -/
  | sepalShl (d : BitVec 4) (a : BitVec 4) (b : BitVec 4)
  /-- SEPAL_SHL_IMM: Scalar shift left by an immediate (R434) -/
  | sepalShlImm (d : BitVec 4) (a : BitVec 4) (imm : BitVec 17)
  /-- SEPAL_SHR: Scalar logical shift right (R434) -/
  | sepalShr (d : BitVec 4) (a : BitVec 4) (b : BitVec 4)
  /-- SEPAL_SHR_IMM: Scalar logical shift right by an immediate (R434) -/
  | sepalShrImm (d : BitVec 4) (a : BitVec 4) (imm : BitVec 17)
  /-- SEPAL_MIN: Scalar signed minimum (R434) -/
  | sepalMin (d : BitVec 4) (a : BitVec 4) (b : BitVec 4)
  /-- SEPAL_MIN_IMM: Scalar signed minimum with an immediate (R434) -/
  | sepalMinImm (d : BitVec 4) (a : BitVec 4) (imm : BitVec 17)
  /-- SEPAL_MAX: Scalar signed maximum (R434) -/
  | sepalMax (d : BitVec 4) (a : BitVec 4) (b : BitVec 4)
  /-- SEPAL_MAX_IMM: Scalar signed maximum with an immediate (R434) -/
  | sepalMaxImm (d : BitVec 4) (a : BitVec 4) (imm : BitVec 17)
  /-- SEPAL_MOVI: Loads a zero-extended 16-bit constant (R434) -/
  | sepalMovi (d : BitVec 4) (imm : BitVec 16)
  /-- SEPAL_MOVH: Writes the upper 16 bits (R434) -/
  | sepalMovh (d : BitVec 4) (imm : BitVec 16)
  /-- SEPAL_CMP: Compares two registers into a condition flag (R434) -/
  | sepalCmp (d : BitVec 2) (cc : BitVec 3) (a : BitVec 4) (b : BitVec 4)
  /-- SEPAL_CMP_IMM: Compares a register with an immediate (R434) -/
  | sepalCmpImm (d : BitVec 2) (cc : BitVec 3) (a : BitVec 4) (imm : BitVec 16)
  /-- SEPAL_BR: Forward branch on a condition flag (R434) -/
  | sepalBr (n : Bool) (cf : BitVec 2) (off : BitVec 12)
  /-- SEPAL_BR_ALWAYS: Unconditional forward branch (R434) -/
  | sepalBrAlways (off : BitVec 12)
  /-- SEPAL_LOOP: Runs the next LEN words a fixed number of times (R435) -/
  | sepalLoop (lc : BitVec 10) (len : BitVec 12)
  /-- SEPAL_DONE: Applies the packet's disposition and frees the context (R433) -/
  | sepalDone
  /-- SEPAL_PHL: Reads a packet header field (R432) -/
  | sepalPhl (d : BitVec 4) (fld : BitVec 4)
  /-- SEPAL_PHS: Writes a writable packet header field (R432) -/
  | sepalPhs (a : BitVec 4) (fld : BitVec 4)
  /-- SEPAL_PKL: Loads a payload word (R436) -/
  | sepalPkl (d : BitVec 4) (a : BitVec 4) (off : BitVec 14)
  /-- SEPAL_PKS: Stores a payload word (R436) -/
  | sepalPks (a : BitVec 4) (b : BitVec 4) (off : BitVec 14)
  /-- SEPAL_FLD: Loads a flow-memory word (R436) -/
  | sepalFld (d : BitVec 4) (a : BitVec 4) (off : BitVec 14)
  /-- SEPAL_FST: Stores a flow-memory word (R436) -/
  | sepalFst (a : BitVec 4) (b : BitVec 4) (off : BitVec 14)
  /-- SEPAL_FAT: Atomic fetch-and-add on a flow word (R443) -/
  | sepalFat (d : BitVec 4) (a : BitVec 4) (b : BitVec 4) (off : BitVec 14)
  /-- SEPAL_VLD: Loads 16 lanes from payload or flow memory (R436) -/
  | sepalVld (sp : Bool) (d : BitVec 3) (a : BitVec 4) (off : BitVec 14)
  /-- SEPAL_VST: Stores 16 lanes to payload or flow memory (R436) -/
  | sepalVst (sp : Bool) (v : BitVec 3) (a : BitVec 4) (b : BitVec 4) (off : BitVec 14)
  /-- SEPAL_VADD: Lanewise vector add (R437) -/
  | sepalVadd (d : BitVec 3) (a : BitVec 3) (b : BitVec 3) (ty : BitVec 2)
  /-- SEPAL_VMAX: Lanewise vector maximum (R437) -/
  | sepalVmax (d : BitVec 3) (a : BitVec 3) (b : BitVec 3) (ty : BitVec 2)
  /-- SEPAL_VMIN: Lanewise vector minimum (R437) -/
  | sepalVmin (d : BitVec 3) (a : BitVec 3) (b : BitVec 3) (ty : BitVec 2)
  /-- SEPAL_VRED: Sums the 16 lanes into a scalar (R437) -/
  | sepalVred (d : BitVec 4) (a : BitVec 3) (ty : BitVec 2)
  /-- SEPAL_VCVT_UP: Widens one BF16 half of each lane to f32 (R437) -/
  | sepalVcvtUp (d : BitVec 3) (a : BitVec 3) (h : BitVec 1)
  /-- SEPAL_VCVT_DN: Narrows each f32 lane into one BF16 half (R437) -/
  | sepalVcvtDn (d : BitVec 3) (a : BitVec 3) (h : BitVec 1)
  /-- SEPAL_HASH: CRC-32C update over four bytes (R438) -/
  | sepalHash (d : BitVec 4) (a : BitVec 4) (b : BitVec 4)
  /-- SEPAL_FWD: Sets the disposition to forward by a port (R433) -/
  | sepalFwd (a : BitVec 4)
  /-- SEPAL_DROP: Sets the disposition to drop (R433) -/
  | sepalDrop
  /-- SEPAL_MIRR: Queues a marked mirror copy to a port (R433) -/
  | sepalMirr (a : BitVec 4)
  /-- SEPAL_CLK: Reads the low 32 bits of the clock (R434) -/
  | sepalClk (d : BitVec 4)
  /-- SEPAL_TRP: Traps the kernel with argument n (R440) -/
  | sepalTrp (n : BitVec 8)
  /-- QCFG_WRITE: PF writes a queue's configuration, ignored while the queue is not empty (R362) -/
  | qcfgWrite (q : Nat) (v : BitVec 64)
  /-- QBASE_WRITE: PF writes a queue ring's base (R362) -/
  | qbaseWrite (q : Nat) (v : BitVec 64)
  /-- CTXBASE_WRITE: Sets the context-table base while every queue is disabled (R445) -/
  | ctxbaseWrite (v : BitVec 64)
  /-- LKCFG_WRITE: Writes a domain's compatibility matrix and grace, ignored if asymmetric (R99) -/
  | lkcfgWrite (d : Nat) (v : BitVec 64)
  /-- FWEIGHT_WRITE: Sets a function's arbitration weight; 0 is ignored (R362) -/
  | fweightWrite (f : Nat) (v : BitVec 64)
  /-- C0RES_WRITE: Sets the class-0 core reservation (R374) -/
  | c0resWrite (v : BitVec 64)
  /-- TIMER_WRITE: Sets T0, T1 or T2 for waits that begin afterwards (R224) -/
  | timerWrite (i : Nat) (v : BitVec 64)
  /-- CNTCFG_WRITE: Allocates a receive counter, zeroing it and discarding its armed entries (R406) -/
  | cntcfgWrite (i : Nat) (v : BitVec 64)
  /-- FRAMEIDX_WRITE: Host advances FTAIL, granting free frames to a home agent (R448) -/
  | frameidxWrite (h : Nat) (v : BitVec 32)
  /-- RETIDX_WRITE: Host advances RHEAD, taking back returned frames (R448) -/
  | retidxWrite (h : Nat) (v : BitVec 32)
  /-- RING_REGISTER_WRITE: Names or changes a ring, ignored while the ring is not empty (R447) -/
  | ringRegisterWrite (r : RingReg) (v : BitVec 64)
  /-- AREA_REGISTER_WRITE: Names or grows an area (R447) -/
  | areaRegisterWrite (r : AreaReg) (v : BitVec 64)
  /-- REGISTER_WRITE: Write to a register without a row of its own, ignored and counted when reserved bits are set (R7) -/
  | registerWrite (p : Page) (off : Nat) (v : BitVec 64)
  /-- ATTESTATION_REQUEST: ATTEST write with LOAD = 0 starts an attestation report (R450) -/
  | attestationRequest (func : Nat) (v : BitVec 64)
  /-- ATTESTATION_DONE: The report is written and BUSY cleared as a release (R450) -/
  | attestationDone (func : Nat)
  /-- SERVICE_FIRMWARE_LOAD: ATTEST write with LOAD = 1 hands the service-firmware image to the keeper (R451) -/
  | serviceFirmwareLoad (func : Nat) (v : BitVec 64)
  /-- SERVICE_FIRMWARE_VERIFIED: The keeper finishes verifying the image and start-up proceeds or fails (R451) -/
  | serviceFirmwareVerified
  /-- COLD_START: Power-on: boot ROM verifies the keeper, which waits for a LOAD (R449) -/
  | coldStart
  /-- MEMORY_INIT_DONE: Home agents finish zeroing device memory and MEMREADY is set (R449) -/
  | memoryInitDone
  /-- POWER_LOSS: Removal of power loses all state (R449) -/
  | powerLoss
  /-- UNIT_FENCE: A unit with exhausted spares or excessive errors is fenced (R453) -/
  | unitFence (u : FenceUnit)
  /-- LINK_DOWN: A fabric port's link goes down, so requests routed through it fail with ROUTE and sepals may no longer forward or
  mirror to it (R398) -/
  | linkDown (port : Nat)
  /-- LINK_UP: A fabric port's link comes up, so routes through it work again and it becomes legal for FWD and MIRR (R398) -/
  | linkUp (port : Nat)
  /-- TOKEN_BUCKET_REFILL: RATE flits per microsecond are added to a function's class-0 bucket, up to BURST (R400) -/
  | tokenBucketRefill (func : Nat)
  /-- SOFT_ERROR: A soft or hard error arises in HBM, L2, RDC, L1 or a matrix-array row, to be corrected and counted or marked
  POISON, or replaced from spares (R453) -/
  | softError (e : ErrorSite)
  deriving DecidableEq, Repr

end Sys2Proof
end

