-- ==== Sys2Proof/Machine/Form.lean ====
section
/-! DEFINITION. What each word reads, writes and must satisfy to be legal: the constraints column of R243 and the operand
rules of each instruction's entry, said once for the checks of R244, for chaining (R232) and for waiting (R233, R234). -/
namespace Sys2Proof

/-- The pipes of R231. -/
inductive Pipe
  | none | alu | fpv | sfu | mem | ctl | mx
  deriving DecidableEq, Repr

/-- A register run: first register and count. -/
abbrev Run := Nat × Nat

/-- The operands of a word and which orders of R244 it passes. -/
structure Form where
  pipe : Pipe := .none
  reads : List Run := []
  writes : List Run := []
  /-- Operands whose last-use bit is set (R234). -/
  lasts : List Run := []
  /-- Flags and masks written (R232). -/
  fw : List Nat := []
  kw : List Nat := []
  /-- Mask operands (R236). -/
  ks : List Nat := []
  /-- Runs and blocks carry no alignment rule (R236, R286). -/
  run : Bool := false
  /-- A variable-latency result outside MEM, SFU and MX (R233). -/
  late : Bool := false
  /-- Legal in an ACCESS stage (R220). -/
  acc : Bool := false
  func : Bool := true
  field : Bool := true
  type : Bool := true
  ord : Bool := true
  block : Bool := true
  deriving DecidableEq, Repr

/-- The registers of some runs. -/
def runRegs (l : List Run) : List Nat := l.flatMap (fun r => (List.range r.2).map (r.1 + ·))

/-- An operand marked as a last use, if its bit is set. -/
def mark (b : Bool) (l : List Run) : List Run := if b then l else []

/-- A flag operand in the low three bits of a register field (R264). -/
def flagNo (x : BitVec 6) : Nat := (x &&& 7).toNat

/-- Registers that a memory size code takes (R239). -/
def regsOf (sz : BitVec 3) : Nat := if sz == 5 then 2 else if sz == 6 then 4 else 1
/-- Size codes that a store may take (R283). -/
def storeSize (sz : BitVec 3) : Bool := sz < 7 && sz != 1 && sz != 3
/-- Registers that a type takes (R322). -/
def tyRegs (t : BitVec 4) : Nat := if t == 2 || t == 3 || t == 5 then 2 else 1

/-- A word of format R that writes D; `nb` = 0 marks B unused (R235, R236). -/
def rForm (p : Pipe) (f : FmtR) (nd na nb : Nat) : Form :=
  { pipe := p, writes := [(f.d.toNat, nd)],
    reads := if nb = 0 then [(f.a.toNat, na)] else [(f.a.toNat, na), (f.b.toNat, nb)],
    lasts := mark f.la [(f.a.toNat, na)] ++ mark f.lb [(f.b.toNat, nb)],
    field := nb != 0 || (f.b == 0 && !f.lb) }
/-- A word of format R that reads D as well. -/
def rFormD (p : Pipe) (f : FmtR) (nd na nb : Nat) : Form :=
  { rForm p f nd na nb with reads := [(f.a.toNat, na), (f.b.toNat, nb), (f.d.toNat, nd)] }
/-- A word of format F on operands of `n` registers (R262, R321). -/
def fForm (p : Pipe) (f : FmtF) (n : Nat) : Form :=
  { pipe := p, reads := [(f.a.toNat, n), (f.b.toNat, n)],
    lasts := mark f.la [(f.a.toNat, n)] ++ mark f.lb [(f.b.toNat, n)], fw := [f.fd.toNat] }
/-- A word of format I (R265). -/
def iForm (p : Pipe) (f : FmtI) (n : Nat) : Form :=
  { pipe := p, writes := [(f.d.toNat, n)], reads := [(f.a.toNat, n)], lasts := mark f.la [(f.a.toNat, n)] }
/-- A shift by an immediate (R257). -/
def shForm (f : FmtSh) : Form :=
  let n := if f.wd then 2 else 1
  { pipe := .alu, writes := [(f.d.toNat, n)], reads := [(f.a.toNat, n)], lasts := mark f.la [(f.a.toNat, n)],
    field := f.z == 0 }
/-- A word of format K (R267-R270). -/
def kForm (_ : FmtK) (kw ks : List Nat) (field : Bool) : Form :=
  { pipe := .ctl, kw := kw, ks := ks, field := field }
/-- A word of format M with an address of `na` registers (R281, R282). -/
def mForm (f : FmtM) (na : Nat) : Form :=
  { pipe := .mem, reads := [(f.a.toNat, na)], lasts := mark f.la [(f.a.toNat, na)] }
/-- A word of format A that returns a value (R288, R293, R404). -/
def aForm (f : FmtA) (nd na nb : Nat) : Form :=
  { pipe := .mem, reads := [(f.a.toNat, na), (f.b.toNat, nb)], writes := [(f.d.toNat, nd)] }
/-- RED: D[23] is the width and D[22:18] is zero (R291). -/
def redForm (f : FmtA) : Form :=
  { pipe := .mem, reads := [(f.a.toNat, 2), (f.b.toNat, if f.d == 0 then 1 else 2)],
    field := f.d == 0 || f.d == 32, ord := f.ord == 0 || f.ord == 2 }
/-- LKACQ and LKUPG (R305). -/
def lkForm (f : FmtTL) : Form :=
  { pipe := .mem, reads := if f.level == 0 then [(f.bo.toNat, 1)] else [(f.a.toNat, 2), (f.bo.toNat, 1)],
    writes := [(f.h.toNat, 1)], func := f.mode < 6 && f.level < 3, field := f.level != 0 || f.a == 0 }
/-- The registers of a block with corner `r` (R324); `n` registers per element. -/
def blockRegs (r rows cols n : Nat) : List Run :=
  (List.range rows).map (fun i => (r + 8 * i, cols * n))
/-- A block lies wholly inside the 8×8 grid (R236); a block of pairs starts on an even column. -/
def blockFits (r rows cols n : Nat) : Bool :=
  decide (r % 8 + cols * n ≤ 8) && decide (r / 8 + rows ≤ 8) && decide (r % 8 % n = 0)
/-- A word of format X (R324): B is an operand if `hasB`, D is read if `readD`. -/
def xForm (p : Pipe) (f : FmtX) (n : Nat) (hasB readD : Bool) : Form :=
  let rows := 2 ^ f.xr.toNat
  let cols := 2 ^ f.xc.toNat
  { pipe := p, run := true, writes := blockRegs f.d.toNat rows cols n,
    reads := blockRegs f.a.toNat rows cols n ++ (if hasB then blockRegs f.b.toNat rows cols n else []) ++
      (if readD then blockRegs f.d.toNat rows cols n else []),
    block := blockFits f.d.toNat rows cols n && blockFits f.a.toNat rows cols n &&
      (!hasB || blockFits f.b.toNat rows cols n) }

/-- The form of each instruction. A sepal word is refused at load where `func` is false (R432, R434); events have none. -/
def Instr.form (i : Instr) : Form :=
  match i with
  | .nop _ => { acc := true }
  | .addB32 f | .subB32 f | .mulB32 f | .mulhS32 f | .mulhN32 f | .minS32 f | .minN32 f | .maxS32 f
  | .maxN32 f => { rForm .alu f 1 1 1 with acc := true }
  | .absS32 f | .negS32 f => { rForm .alu f 1 1 0 with acc := true }
  | .madB32 f | .idp4S8 f | .idp4N8 f => { rFormD .alu f 1 1 1 with acc := true }
  | .addB64 f | .subB64 f | .mulB64 f | .mulhS64 f | .mulhN64 f | .minS64 f | .minN64 f | .maxS64 f
  | .maxN64 f => { rForm .alu f 2 2 2 with acc := true }
  | .absS64 f | .negS64 f => { rForm .alu f 2 2 0 with acc := true }
  | .madB64 f => { rFormD .alu f 2 2 2 with acc := true }
  | .andB32 f | .orB32 f | .xorB32 f | .andnB32 f | .shlB32 f | .shrB32 f | .sarB32 f | .rolB32 f =>
      { rForm .alu f 1 1 1 with acc := true }
  | .andB64 f | .orB64 f | .xorB64 f | .andnB64 f | .shlB64 f | .shrB64 f | .sarB64 f | .rolB64 f =>
      { rForm .alu f 2 2 2 with acc := true }
  | .shli f | .shri f | .sari f | .roli f => { shForm f with acc := true }
  | .popcB32 f | .clzB32 f | .ctzB32 f | .brevB32 f => { rForm .alu f 1 1 0 with acc := true }
  | .popcB64 f | .clzB64 f | .ctzB64 f => { rForm .alu f 1 2 0 with acc := true }
  | .brevB64 f => { rForm .alu f 2 2 0 with acc := true }
  | .bfxN32 f | .bfxS32 f => { rForm .alu f 1 1 1 with acc := true }
  | .bfiB32 f | .bprmB32 f => { rFormD .alu f 1 1 1 with acc := true }
  | .movB32 f => { rForm .alu f 1 1 0 with acc := true }
  | .movB64 f => { rForm .alu f 2 2 0 with acc := true }
  | .xloc f | .xidx f => { rForm .alu f 2 2 1 with late := true, acc := true }
  | .selB32 f _ => { rForm .alu f 1 1 1 with acc := true }
  | .cmp f =>
      { fForm .alu f (if f.ty == 2 || f.ty == 3 then 2 else 1) with func := f.cc < 6, type := f.ty < 4, acc := true }
  | .fcmp f => { fForm .fpv f (if f.ty == 5 then 2 else 1) with type := f.ty < 8 && 4 ≤ f.ty, acc := true }
  | .fAnd f | .fOr f | .fXor f =>
      { pipe := .alu, fw := [flagNo f.d], field := f.d < 8 && f.a < 8 && f.b < 8 && !f.la && !f.lb, acc := true }
  | .fNot f =>
      { pipe := .alu, fw := [flagNo f.d], field := f.d < 8 && f.a < 8 && f.b == 0 && !f.la && !f.lb, acc := true }
  | .fSet f =>
      { pipe := .alu, reads := [(f.a.toNat, 1)], lasts := mark f.la [(f.a.toNat, 1)], fw := [flagNo f.d], field := f.d < 8 && f.b == 0 && !f.lb, acc := true }
  | .fGet f => { pipe := .alu, writes := [(f.d.toNat, 1)], field := f.a < 8 && f.b == 0 && !f.la && !f.lb, acc := true }
  | .addiB32 f => { iForm .alu f 1 with acc := true }
  | .addiB64 f => { iForm .alu f 2 with acc := true }
  | .andi f | .ori f | .xori f => { iForm .alu f 1 with acc := true }
  | .cmpi f =>
      { pipe := .alu, reads := [(f.a.toNat, 1)], lasts := mark f.la [(f.a.toNat, 1)], fw := [(f.d >>> 3).toNat], acc := true }
  | .moviN f | .moviS f => { pipe := .alu, writes := [(f.d.toNat, 1)], acc := true }
  | .movh f | .addh f => { pipe := .alu, reads := [(f.d.toNat, 1)], writes := [(f.d.toNat, 1)], acc := true }
  | .mand f | .mor f | .mxor f | .mandn f => kForm f [f.kd.toNat] [f.kd.toNat, f.ka.toNat, f.kb.toNat] (f.g == 0)
  | .mmov f => kForm f [f.kd.toNat] [f.kd.toNat, f.ka.toNat] (f.g == 0 && f.kb == 0)
  | .msetg f => { kForm f [f.kd.toNat] [f.kd.toNat] (f.ka == 0 && f.kb == 0) with reads := [(f.g.toNat, 1)] }
  | .mgetg f => { kForm f [] [f.ka.toNat] (f.kd == 0 && f.kb == 0) with writes := [(f.g.toNat, 1)] }
  | .mself f | .mclr f | .mall f => kForm f [f.kd.toNat] [f.kd.toNat] (f.ka == 0 && f.g == 0 && f.kb == 0)
  | .ballot f | .popcm f | .rankm f =>
      { kForm f [] [f.ka.toNat] (f.kd == 0 && f.kb < 8) with writes := [(f.g.toNat, 1)] }
  | .join f => kForm f [] [f.ka.toNat] (f.kd == 0 && f.g == 0 && f.kb == 0)
  | .leave f => kForm f [f.ka.toNat] [f.ka.toNat] (f.kd == 0 && f.g == 0 && f.kb == 0)
  | .waitk f => kForm f [] [f.ka.toNat] (f.kd == 0 && f.g == 0 && f.kb == 0)
  | .shfl f k | .shflx f k => { rForm .ctl f 1 1 1 with ks := [k.toNat] }
  | .redm f k | .scanm f k => { rForm .ctl f 1 1 0 with ks := [k.toNat] }
  | .mrgrk f k => { rForm .ctl f 1 2 1 with ks := [k.toNat] }
  | .bra f => { pipe := .ctl, field := !(f.f == 7 && f.n), acc := true }
  | .call f => { pipe := .ctl, writes := [(60, 2)], field := f.f == 7 && !f.n, acc := true, run := true }
  | .jmpr f => { pipe := .ctl, reads := [(f.a.toNat, 2)], field := f.arg == 0 && f.d == 0, acc := true }
  | .callr f =>
      { pipe := .ctl, reads := [(f.a.toNat, 2)], writes := [(f.d.toNat, 2)], field := f.arg == 0, acc := true }
  | .ret f => { pipe := .ctl, reads := [(f.a.toNat, 2)], field := f.arg == 0 && f.d == 0, acc := true }
  | .region f | .tail f | .exit f => { pipe := .ctl, field := f.arg == 0 && f.d == 0 && f.a == 0, acc := true }
  | .xsucc f => { pipe := .ctl, reads := [(f.a.toNat, 2)], field := f.arg == 0 && f.d == 0 }
  | .trig f => { pipe := .ctl, field := f.arg == 0 && f.d == 0 && f.a == 0, acc := true }
  | .yield f => { pipe := .ctl, field := f.arg == 0 && f.d == 0 && f.a == 0 }
  | .yieldExpire _ => { }
  | .ld f => { mForm f 2 with writes := [(f.d.toNat, regsOf f.sz)], field := f.sz < 7, ord := f.ord < 2, acc := true }
  | .st f =>
      { mForm f 2 with reads := [(f.a.toNat, 2), (f.d.toNat, regsOf f.sz)], field := storeSize f.sz, ord := f.ord == 0 || f.ord == 2 }
  | .lds f => { mForm f 1 with writes := [(f.d.toNat, regsOf f.sz)], field := f.sz < 7, ord := f.ord < 2, acc := true }
  | .sts f =>
      { mForm f 1 with reads := [(f.a.toNat, 1), (f.d.toNat, regsOf f.sz)], field := storeSize f.sz, ord := f.ord == 0 || f.ord == 2 }
  | .pref f => { mForm f 2 with field := f.sz < 7 && f.d == 0, ord := f.ord == 0, acc := true }
  | .ldq f => { pipe := .mem, writes := [(f.d.toNat, f.n.toNat + 1)], run := true, field := f.a == 0 }
  | .stq f => { pipe := .mem, reads := [(f.d.toNat, f.n.toNat + 1)], run := true, field := f.a == 0, acc := true }
  | .wprd f => { pipe := .mem, writes := [(f.d.toNat, 1)], field := f.a == 0 && f.n == 0 }
  | .channelOverflow _ _ => { }
  | .atomAddB32 f | .atomMinS32 f | .atomMinN32 f | .atomMaxS32 f | .atomMaxN32 f | .atomAndB32 f
  | .atomOrB32 f | .atomXorB32 f | .atomExchB32 f => aForm f 1 2 1
  | .atomCasB32 f => aForm f 1 2 2
  | .atomFaddF32 f => aForm f 1 2 1
  | .atomAddB64 f | .atomMinS64 f | .atomMinN64 f | .atomMaxS64 f | .atomMaxN64 f | .atomAndB64 f
  | .atomOrB64 f | .atomXorB64 f | .atomExchB64 f => aForm f 2 2 2
  | .atomCasB64 f => aForm f 2 2 4
  | .atomFaddF64 f => aForm f 2 2 2
  | .atomsAddB32 f | .atomsMinS32 f | .atomsMinN32 f | .atomsMaxS32 f | .atomsMaxN32 f | .atomsAndB32 f
  | .atomsOrB32 f | .atomsXorB32 f | .atomsExchB32 f => aForm f 1 1 1
  | .atomsCasB32 f => aForm f 1 1 2
  | .atomsFaddF32 f => aForm f 1 1 1
  | .redAdd f | .redMinS f | .redMinN f | .redMaxS f | .redMaxN f | .redAnd f | .redOr f | .redXor f => redForm f
  | .redFaddF32 f => { redForm f with field := f.d == 0 }
  | .redFaddF64 f => { redForm f with field := f.d == 32 }
  | .redFaddBf2 f => { redForm f with field := f.d == 0 }
  | .redsAddB32 f | .redsMinS32 f | .redsMinN32 f | .redsMaxS32 f | .redsMaxN32 f | .redsAndB32 f
  | .redsOrB32 f | .redsXorB32 f | .redsFaddF32 f | .redsFaddBf2 f =>
      { pipe := .mem, reads := [(f.a.toNat, 1), (f.b.toNat, 1)], field := f.d == 0, ord := f.ord == 0 || f.ord == 2 }
  | .mwaitEq f | .mwaitNe f => { aForm f 2 2 2 with ord := f.ord == 1 }
  | .mwaitRecheck _ => { }
  | .stcmp f =>
      { pipe := .mem, reads := [(f.d.toNat, 1), (f.a.toNat, 2), (f.b.toNat, 1)], writes := [(f.b.toNat, 1)], ks := [f.k.toNat] }
  | .ldexp f =>
      { pipe := .mem, reads := [(f.a.toNat, 2), (f.b.toNat, 1)], writes := [(f.d.toNat, 1), (f.b.toNat, 1)], ks := [f.k.toNat] }
  | .ldtB16 f | .ldtB32 f => { pipe := .mem, reads := [(f.a.toNat, 2), (f.bo.toNat, 1)], writes := [(f.h.toNat, 1)] }
  | .ldtB64 f => { pipe := .mem, reads := [(f.a.toNat, 2), (f.bo.toNat, 1)], writes := [(f.h.toNat, 2)] }
  | .sttB16 f | .sttB32 f => { pipe := .mem, reads := [(f.a.toNat, 2), (f.bo.toNat, 1), (f.h.toNat, 1)] }
  | .sttB64 f => { pipe := .mem, reads := [(f.a.toNat, 2), (f.bo.toNat, 1), (f.h.toNat, 2)] }
  | .binit f => { pipe := .mem, reads := [(f.a.toNat, 1), (f.bo.toNat, 1)], field := f.h == 0 }
  | .barr f | .bdrop f => { pipe := .mem, reads := [(f.a.toNat, 1)], writes := [(f.h.toNat, 1)], field := f.bo == 0 }
  | .bwait f => { pipe := .mem, reads := [(f.a.toNat, 1), (f.bo.toNat, 1)], writes := [(f.h.toNat, 1)] }
  | .bexp f => { pipe := .mem, reads := [(f.a.toNat, 1), (f.bo.toNat, 2)], field := f.h == 0 }
  | .btest f => { pipe := .mem, reads := [(f.a.toNat, 1), (f.bo.toNat, 1)], writes := [(f.h.toNat, 1)] }
  | .lkacq f | .lkupg f => lkForm f
  | .lkrel f lv =>
      { pipe := .mem, reads := if lv == 0 then [(f.bo.toNat, 1)] else [(f.a.toNat, 2), (f.bo.toNat, 1)], func := lv < 3, field := f.h == 0 && (lv != 0 || f.a == 0) }
  | .lkrall f => { pipe := .mem, field := f.h == 0 && f.a == 0 && f.bo == 0 }
  | .lkchk f => { pipe := .mem, writes := [(f.h.toNat, 1)], field := f.a == 0 && f.bo == 0 }
  | .lkrallComplete _ | .graceExpired _ => { }
  | .rrot f => { pipe := .mem, reads := [(f.h.toNat, 1), (f.a.toNat, 2), (f.bo.toNat, 1)] }
  | .rrotStart _ _ | .rrotArrive _ => { }
  | .faddF32 f | .fsubF32 f | .fmulF32 f => rForm .fpv f 1 1 1
  | .ffmaF32 f => rFormD .fpv f 1 1 1
  | .fminF32 f | .fmaxF32 f => rForm .fpv f 1 1 1
  | .fabsF32 f | .fnegF32 f | .frndF32Rn f | .frndF32Rz f | .frndF32Ru f | .frndF32Rd f => rForm .fpv f 1 1 0
  | .faddF64 f | .fsubF64 f | .fmulF64 f => rForm .fpv f 2 2 2
  | .ffmaF64 f => rFormD .fpv f 2 2 2
  | .fminF64 f | .fmaxF64 f => rForm .fpv f 2 2 2
  | .fabsF64 f | .fnegF64 f | .frndF64Rn f | .frndF64Rz f | .frndF64Ru f | .frndF64Rd f => rForm .fpv f 2 2 0
  | .hadd2H f | .hsub2H f | .hmul2H f => rForm .fpv f 1 1 1
  | .hfma2H f => rFormD .fpv f 1 1 1
  | .hmin2H f | .hmax2H f | .hadd2Bf f | .hsub2Bf f | .hmul2Bf f => rForm .fpv f 1 1 1
  | .hfma2Bf f => rFormD .fpv f 1 1 1
  | .hmin2Bf f | .hmax2Bf f => rForm .fpv f 1 1 1
  | .dot4E4 f | .dot4E5 f => rFormD .fpv f 1 1 1
  | .frcpF32 f | .frsqF32 f | .fsqrtF32 f | .fexp2F32 f | .flog2F32 f | .fsinF32 f | .fcosF32 f =>
      { rForm .sfu f 1 1 0 with late := true }
  | .fdivF32 f => { rForm .sfu f 1 1 1 with late := true }
  | .fsqrtF64 f => { rForm .sfu f 2 2 0 with late := true }
  | .fdivF64 f => { rForm .sfu f 2 2 2 with late := true }
  | .frcpF64 f => { rForm .sfu f 2 2 0 with late := true }
  | .fclassF32 f => { rForm .sfu f 1 1 0 with late := true }
  | .fclassF64 f => { rForm .sfu f 1 2 0 with late := true }
  | .cvt f =>
      { pipe := .fpv, reads := [(f.a.toNat, tyRegs f.from_)], writes := [(f.d.toNat, tyRegs f.to_)], lasts := mark f.la [(f.a.toNat, tyRegs f.from_)], field := f.rm < 6, type := f.to_ < 14 && f.from_ < 14 }
  | .blkAddB32 f => xForm .alu f 1 true false
  | .blkMovB32 f => { xForm .alu f 1 false false with field := f.b == 0 }
  | .blkAndB32 f | .blkXorB32 f => xForm .alu f 1 true false
  | .blkFaddF32 f | .blkFmulF32 f => xForm .fpv f 1 true false
  | .blkFfmaF32 f => xForm .fpv f 1 true true
  | .blkFmaxF32 f => xForm .fpv f 1 true false
  | .blkHfma2H f | .blkHfma2Bf f => xForm .fpv f 1 true true
  | .blkFfmaF64 f => xForm .fpv f 2 true true
  | .mxcfg f | .mxlds f => { pipe := .mx, reads := [(f.a.toNat, 1)], field := f.h == 0 && f.bo == 0 }
  | .mxswap f => { pipe := .mx, field := f.h == 0 && f.a == 0 && f.bo == 0 }
  | .mxmul f | .mxst f => { pipe := .mx, reads := [(f.a.toNat, 1), (f.bo.toNat, 1)], field := f.h == 0 }
  | .mxzero f => { pipe := .mx, reads := [(f.bo.toNat, 1)], field := f.h == 0 && f.a == 0 }
  | .mxgo f => { pipe := .mx, reads := [(f.h.toNat, 1)], writes := [(f.a.toNat, 1)], field := f.bo == 0 }
  | .mxstat f => { pipe := .mx, writes := [(f.h.toNat, 2)], field := f.a == 0 && f.bo == 0 }
  | .mxgoStep _ => { }
  | .tdef f => { pipe := .mx, reads := [(f.a.toNat, 2), (f.bo.toNat, 1)], writes := [(f.h.toNat, 1)] }
  | .trel f => { pipe := .mx, reads := [(f.bo.toNat, 1)], writes := [(f.h.toNat, 1)], field := f.a == 0 }
  | .tcopy f | .remap f | .remapStep f | .tmerge f | .txf f =>
      { pipe := .mx, reads := [(f.h.toNat, 1)], writes := [(f.a.toNat, 1)], field := f.bo == 0 }
  | .tstat f => { pipe := .mx, reads := [(f.bo.toNat, 1)], writes := [(f.h.toNat, 4)], field := f.a == 0 }
  | .tldtab f => { pipe := .mx, reads := [(f.h.toNat, 1)], writes := [(f.a.toNat, 1)], field := f.bo == 0 }
  | .engineChunk _ | .remapPassEnd _ _ => { }
  | .rget f | .rput f | .tsend f =>
      { pipe := .mem, reads := [(f.h.toNat, 1)], writes := [(f.a.toNat, 1)], field := f.bo == 0 }
  | .tcnt f => { pipe := .mem, reads := [(f.bo.toNat, 1)], writes := [(f.h.toNat, 2)], field := f.a == 0 }
  | .rfence f => { pipe := .mem, field := f.h == 0 && f.a == 0 && f.bo == 0 }
  | .carm f => { pipe := .mem, reads := [(f.h.toNat, 1), (f.a.toNat, 2), (f.bo.toNat, 1)] }
  | .skld f => { pipe := .mem, reads := [(f.h.toNat, 1)], writes := [(f.a.toNat, 1)], field := f.bo == 0 }
  | .skrel f => { pipe := .mem, reads := [(f.bo.toNat, 1)], writes := [(f.h.toNat, 1)], field := f.a == 0 }
  | .skrelComplete _ => { }
  | .ratomAddB64 f | .ratomMinS64 f | .ratomMinN64 f | .ratomMaxS64 f | .ratomMaxN64 f | .ratomAndB64 f
  | .ratomOrB64 f | .ratomXorB64 f | .ratomExchB64 f => aForm f 2 2 2
  | .ratomCasB64 f => aForm f 2 2 4
  | .ratomTimeout _ => { }
  | .trap f => { pipe := .ctl, field := f.d == 0 && f.a == 0, acc := true }
  | .srd f => { pipe := .ctl, writes := [(f.d.toNat, 1)], field := f.a == 0, acc := true }
  | .swr f => { pipe := .ctl, reads := [(f.a.toNat, 1)], field := f.d == 0 }
  | .rteRestart f | .rteNext f => { pipe := .ctl, field := f.d == 0 && f.a == 0 && f.z == 0 }
  | .fltrd f => { pipe := .ctl, writes := [(f.d.toNat, 1)], func := f.arg < 12, field := f.a == 0 }
  | .launch f | .launchNb f =>
      { pipe := .ctl, reads := [(f.d.toNat, 1), (f.a.toNat, 2)], writes := [(f.d.toNat, 1)], field := f.z == 0 }
  | .sigw f =>
      { pipe := .ctl, reads := [(f.d.toNat, 2), (f.a.toNat, 2)], writes := [(f.d.toNat, 2)], field := f.arg == 0 }
  | .sigwRecheck _ => { }
  | .bkpt f => { pipe := .ctl, field := f.d == 0 && f.a == 0 }
  | .deferredTrapEntry _ | .resume _ _ | .pfqRecordRelease _ | .resultReturn _ | .storeError _ _ _ _
  | .threadEnd _ | .taskResourcesFree _ | .successorPlace _ | .petalPowerGate _ _ | .hangReport _ _
  | .queueWrite _ _ _ | .launchCheck _ _ | .dependenceRecheck _ _ | .dispatch | .taskAdmit _
  | .stageRebalance _ | .stealRequest _ | .preemptRequest _ | .taskSave _ | .taskRestore _ | .sectorRead _ _
  | .registration _ | .registrationAck _ | .l1Eviction _ _ | .sliceEviction _ _ | .rds _ _ | .rdx _ _
  | .wb _ _ | .evc _ _ | .redu _ _ _ | .redf _ _ _ | .wrn _ _ | .spill _ _ _ | .placementEpoch _
  | .migrationFinish _ _ | .migRewalk _ | .invalidationCommand _ | .invalidationComplete _
  | .atsInvalidation _ _ | .atsCompletion _ _ _ | .priResponse _ _ _ | .hostWrite _ _ | .hostRead _ _
  | .remoteRequest _ | .remoteResponse _ | .collectiveReserve _ | .sepalContextStart _ | .sepalAdd _ _ _
  | .sepalAddImm _ _ _ | .sepalSub _ _ _ | .sepalSubImm _ _ _ | .sepalAnd _ _ _ | .sepalAndImm _ _ _
  | .sepalOr _ _ _ | .sepalOrImm _ _ _ | .sepalXor _ _ _ | .sepalXorImm _ _ _ | .sepalShl _ _ _
  | .sepalShlImm _ _ _ | .sepalShr _ _ _ | .sepalShrImm _ _ _ | .sepalMin _ _ _ | .sepalMinImm _ _ _
  | .sepalMax _ _ _ | .sepalMaxImm _ _ _ | .sepalMovi _ _ | .sepalMovh _ _ => { }
  | .sepalCmp _ cc _ _ | .sepalCmpImm _ cc _ _ => { func := cc < 6 }
  | .sepalBr _ _ off | .sepalBrAlways off => { func := off != 0 }
  | .sepalLoop _ _ | .sepalDone => { }
  | .sepalPhl _ fld => { func := fld < 13 }
  | .sepalPhs _ fld => { func := fld == 4 || fld == 7 || fld == 8 || fld == 9 }
  | .sepalPkl _ _ _ | .sepalPks _ _ _ | .sepalFld _ _ _ | .sepalFst _ _ _ | .sepalFat _ _ _ _
  | .sepalVld _ _ _ _ | .sepalVst _ _ _ _ _ => { }
  | .sepalVadd _ _ _ ty | .sepalVmax _ _ _ ty | .sepalVmin _ _ _ ty => { func := ty < 3 }
  | .sepalVred _ _ ty => { func := ty < 2 }
  | .sepalVcvtUp _ _ _ | .sepalVcvtDn _ _ _ | .sepalHash _ _ _ | .sepalFwd _ | .sepalDrop | .sepalMirr _
  | .sepalClk _ | .sepalTrp _ | .qcfgWrite _ _ | .qbaseWrite _ _ | .ctxbaseWrite _ | .lkcfgWrite _ _
  | .fweightWrite _ _ | .c0resWrite _ | .timerWrite _ _ | .cntcfgWrite _ _ | .frameidxWrite _ _
  | .retidxWrite _ _ | .ringRegisterWrite _ _ | .areaRegisterWrite _ _ | .registerWrite _ _ _
  | .attestationRequest _ _ | .attestationDone _ | .serviceFirmwareLoad _ _ | .serviceFirmwareVerified
  | .coldStart | .memoryInitDone | .powerLoss | .unitFence _ | .linkDown _ | .linkUp _ | .tokenBucketRefill _
  | .softError _ => { }

/-- Some run is misaligned: a pair not on an even register, a quad not on a multiple of 4 (R236, R244 order 6). -/
def Form.misaligned (f : Form) : Bool :=
  !f.run && (f.reads ++ f.writes).any (fun r => (r.2 == 2 && r.1 % 2 != 0) || (r.2 == 4 && r.1 % 4 != 0))

/-- Orders 2 to 8 of R244: the subcode of the first check that fails. -/
def Form.check (f : Form) : Option Nat :=
  if !f.func then some 2
  else if !f.field then some 3
  else if !f.type then some 4
  else if !f.ord then some 5
  else if f.misaligned then some 6
  else if !f.block || (f.reads ++ f.writes).any (fun r => decide (64 < r.1 + r.2)) then some 7
  else if f.ks.any (fun k => decide (12 ≤ k)) then some 8
  else none

/-- The highest register a word names, plus one (R236, R244 order 10). -/
def Form.regTop (f : Form) : Nat := (f.reads ++ f.writes).foldl (fun m r => max m (r.1 + r.2)) 0

/-- Destinations return at a variable latency (R233). -/
def Form.isVariable (f : Form) : Bool := f.late || f.pipe == .mem || f.pipe == .sfu || f.pipe == .mx

end Sys2Proof
end

