-- ==== Sys2Proof/WellFormed.lean ====
section
/-! DEFINITION. Well-formed instructions: those that pass orders 2 to 8 of R244 (core words) or the word rules of the load
check (sepal words, R434, R432). -/
namespace Sys2Proof

/-- The ILLEGAL subcode of an instruction that fails a check of R244, orders 2 to 8. -/
def Instr.check (i : Instr) : Option Nat := i.form.check

/-- The instruction is well-formed. -/
def Instr.wf (i : Instr) : Bool := i.check.isNone

end Sys2Proof
end

