-- ==== Sys2Proof/Decode.lean ====
section
/-! DEFINITION. The decoder of R228-R244 for core words and of R434 for sepal words, total on any word, and the encoder
written from the same tables. Those that build a constructor past the 244th are
noncomputable, a limit of the runtime alone: the kernel evaluates them. -/
open Sys2Proof.Machine (wordOfBytes bytesOfWord)
namespace Sys2Proof

/-- What a core word decodes to: an instruction, or the subcode of ILLEGAL (R244, orders 1 to 8). -/
inductive Decoded
  | ok (i : Instr)
  | illegal (sub : Nat)
  deriving DecidableEq, Repr

/-! ## The twelve formats (R235) -/

/-- Bit `n` of a word. -/
def bit (w : Word) (n : Nat) : Bool := w.getLsbD n
/-- One bit of an encoding. -/
def one (b : Bool) : BitVec 1 := BitVec.ofBool b
/-- The major opcode, bits [29:24] (R230). -/
def majorOf (w : Word) : BitVec 6 := w.extractLsb' 24 6


/-- The fields of a word of format R. -/
def fieldsR (w : Word) : FmtR :=
  { c := bit w 31, w := bit w 30, d := w.extractLsb' 18 6, a := w.extractLsb' 12 6, b := w.extractLsb' 6 6, la := bit w 5, lb := bit w 4 }

/-- A word of format R. -/
def wordR (maj : BitVec 6) (f : FmtR) (sel : BitVec 4) : Word :=
  one f.c ++ one f.w ++ maj ++ f.d ++ f.a ++ f.b ++ one f.la ++ one f.lb ++ sel

/-- The fields of a word of format I. -/
def fieldsI (w : Word) : FmtI :=
  { c := bit w 31, w := bit w 30, d := w.extractLsb' 18 6, a := w.extractLsb' 12 6, la := bit w 11, imm := w.extractLsb' 0 11 }

/-- A word of format I. -/
def wordI (maj : BitVec 6) (f : FmtI) : Word :=
  one f.c ++ one f.w ++ maj ++ f.d ++ f.a ++ one f.la ++ f.imm

/-- The fields of a word of format Sh. -/
def fieldsSh (w : Word) : FmtSh :=
  { c := bit w 31, w := bit w 30, d := w.extractLsb' 18 6, a := w.extractLsb' 12 6, la := bit w 11, wd := bit w 8, z := w.extractLsb' 6 2, n := w.extractLsb' 0 6 }

/-- A word of format Sh. -/
def wordSh (maj : BitVec 6) (f : FmtSh) (sel : BitVec 2) : Word :=
  one f.c ++ one f.w ++ maj ++ f.d ++ f.a ++ one f.la ++ sel ++ one f.wd ++ f.z ++ f.n

/-- The fields of a word of format L. -/
def fieldsL (w : Word) : FmtL :=
  { c := bit w 31, w := bit w 30, d := w.extractLsb' 18 6, imm := w.extractLsb' 0 16 }

/-- A word of format L. -/
def wordL (maj : BitVec 6) (f : FmtL) (sel : BitVec 2) : Word :=
  one f.c ++ one f.w ++ maj ++ f.d ++ sel ++ f.imm

/-- The fields of a word of format F. -/
def fieldsF (w : Word) : FmtF :=
  { c := bit w 31, w := bit w 30, fd := w.extractLsb' 21 3, cc := w.extractLsb' 18 3, a := w.extractLsb' 12 6, b := w.extractLsb' 6 6, la := bit w 5, lb := bit w 4, ty := w.extractLsb' 0 4 }

/-- A word of format F. -/
def wordF (maj : BitVec 6) (f : FmtF) : Word :=
  one f.c ++ one f.w ++ maj ++ f.fd ++ f.cc ++ f.a ++ f.b ++ one f.la ++ one f.lb ++ f.ty

/-- The fields of a word of format X. -/
def fieldsX (w : Word) : FmtX :=
  { c := bit w 31, w := bit w 30, d := w.extractLsb' 18 6, a := w.extractLsb' 12 6, b := w.extractLsb' 6 6, xr := w.extractLsb' 4 2, xc := w.extractLsb' 2 2 }

/-- A word of format X. -/
def wordX (maj : BitVec 6) (f : FmtX) (sel : BitVec 2) : Word :=
  one f.c ++ one f.w ++ maj ++ f.d ++ f.a ++ f.b ++ f.xr ++ f.xc ++ sel

/-- The fields of a word of format M. -/
def fieldsM (w : Word) : FmtM :=
  { c := bit w 31, w := bit w 30, d := w.extractLsb' 18 6, a := w.extractLsb' 12 6, la := bit w 11, sz := w.extractLsb' 8 3, ord := w.extractLsb' 6 2, off := w.extractLsb' 0 6 }

/-- A word of format M. -/
def wordM (maj : BitVec 6) (f : FmtM) : Word :=
  one f.c ++ one f.w ++ maj ++ f.d ++ f.a ++ one f.la ++ f.sz ++ f.ord ++ f.off

/-- The fields of a word of format A. -/
def fieldsA (w : Word) : FmtA :=
  { c := bit w 31, w := bit w 30, d := w.extractLsb' 18 6, a := w.extractLsb' 12 6, b := w.extractLsb' 6 6, ord := w.extractLsb' 0 2 }

/-- A word of format A. -/
def wordA (maj : BitVec 6) (f : FmtA) (sel : BitVec 4) : Word :=
  one f.c ++ one f.w ++ maj ++ f.d ++ f.a ++ f.b ++ sel ++ f.ord

/-- The fields of a word of format AK. -/
def fieldsAK (w : Word) : FmtAK :=
  { c := bit w 31, w := bit w 30, d := w.extractLsb' 18 6, a := w.extractLsb' 12 6, b := w.extractLsb' 6 6, k := w.extractLsb' 2 4 }

/-- A word of format AK. -/
def wordAK (maj : BitVec 6) (f : FmtAK) (sel : BitVec 2) : Word :=
  one f.c ++ one f.w ++ maj ++ f.d ++ f.a ++ f.b ++ f.k ++ sel

/-- The fields of a word of format K. -/
def fieldsK (w : Word) : FmtK :=
  { c := bit w 31, w := bit w 30, kd := w.extractLsb' 20 4, ka := w.extractLsb' 16 4, g := w.extractLsb' 10 6, kb := w.extractLsb' 6 4 }

/-- A word of format K. -/
def wordK (maj : BitVec 6) (f : FmtK) (sel : BitVec 6) : Word :=
  one f.c ++ one f.w ++ maj ++ f.kd ++ f.ka ++ f.g ++ f.kb ++ sel

/-- The fields of a word of format J. -/
def fieldsJ (w : Word) : FmtJ :=
  { c := bit w 31, w := bit w 30, n := bit w 23, f := w.extractLsb' 20 3, off := w.extractLsb' 0 19 }

/-- A word of format J. -/
def wordJ (maj : BitVec 6) (f : FmtJ) (sel : Bool) : Word :=
  one f.c ++ one f.w ++ maj ++ one f.n ++ f.f ++ one sel ++ f.off

/-- The fields of a word of format T. -/
def fieldsT (w : Word) : FmtT :=
  { c := bit w 31, w := bit w 30, h := w.extractLsb' 18 6, a := w.extractLsb' 12 6, bo := w.extractLsb' 6 6 }

/-- A word of format T. -/
def wordT (maj : BitVec 6) (f : FmtT) (sel : BitVec 6) : Word :=
  one f.c ++ one f.w ++ maj ++ f.h ++ f.a ++ f.bo ++ sel

/-- The fields of a word of format TL. -/
def fieldsTL (w : Word) : FmtTL :=
  { c := bit w 31, w := bit w 30, h := w.extractLsb' 18 6, a := w.extractLsb' 12 6, bo := w.extractLsb' 6 6, mode := w.extractLsb' 3 3, level := w.extractLsb' 1 2 }

/-- A word of format TL. -/
def wordTL (maj : BitVec 6) (f : FmtTL) (sel : Bool) : Word :=
  one f.c ++ one f.w ++ maj ++ f.h ++ f.a ++ f.bo ++ f.mode ++ f.level ++ one sel

/-- The fields of a word of format C. -/
def fieldsC (w : Word) : FmtC :=
  { c := bit w 31, w := bit w 30, d := w.extractLsb' 18 6, a := w.extractLsb' 12 6, la := bit w 11, to_ := w.extractLsb' 7 4, from_ := w.extractLsb' 3 4, rm := w.extractLsb' 0 3 }

/-- A word of format C. -/
def wordC (maj : BitVec 6) (f : FmtC) : Word :=
  one f.c ++ one f.w ++ maj ++ f.d ++ f.a ++ one f.la ++ f.to_ ++ f.from_ ++ f.rm

/-- The fields of a word of format S20. -/
def fieldsS20 (w : Word) : FmtS :=
  { c := bit w 31, w := bit w 30, d := w.extractLsb' 18 6, a := w.extractLsb' 12 6, arg := w.extractLsb' 4 8 }

/-- A word of format S20. -/
def wordS20 (maj : BitVec 6) (f : FmtS) (sel : BitVec 4) : Word :=
  one f.c ++ one f.w ++ maj ++ f.d ++ f.a ++ f.arg ++ sel

/-- The fields of a word of format S3F. -/
def fieldsS3F (w : Word) : FmtS :=
  { c := bit w 31, w := bit w 30, d := w.extractLsb' 18 6, a := w.extractLsb' 12 6, arg := w.extractLsb' 0 8 }

/-- A word of format S3F. -/
def wordS3F (maj : BitVec 6) (f : FmtS) (sel : BitVec 4) : Word :=
  one f.c ++ one f.w ++ maj ++ f.d ++ f.a ++ sel ++ f.arg

/-- The fields of a word of format S3FA. -/
def fieldsS3FA (w : Word) : FmtSA :=
  { c := bit w 31, w := bit w 30, d := w.extractLsb' 18 6, a := w.extractLsb' 12 6, z := w.extractLsb' 1 7 }

/-- A word of format S3FA. -/
def wordS3FA (maj : BitVec 6) (f : FmtSA) (sel : BitVec 4) (arg : Bool) : Word :=
  one f.c ++ one f.w ++ maj ++ f.d ++ f.a ++ sel ++ f.z ++ one arg

/-- The fields of a word of format Q. -/
def fieldsQ (w : Word) : FmtQ :=
  { c := bit w 31, w := bit w 30, d := w.extractLsb' 18 6, a := w.extractLsb' 12 6, ch := w.extractLsb' 4 6, n := w.extractLsb' 0 4 }

/-- A word of format Q. -/
def wordQ (maj : BitVec 6) (f : FmtQ) (sel : BitVec 2) : Word :=
  one f.c ++ one f.w ++ maj ++ f.d ++ f.a ++ sel ++ f.ch ++ f.n


/-! ## Core words: the opcode map (R242, R243) -/

/-- Major 0x00: bits [29:0] of a NOP are zero, else FIELD. -/
def decode00 (w : Word) : Decoded :=
  if w.extractLsb' 0 24 = 0 then .ok (.nop { c := bit w 31, w := bit w 30 }) else .illegal 3

/-- Major 0x01. -/
def decode01 (w : Word) : Decoded :=
  match (w.extractLsb' 0 4).toNat with
  | 0 => .ok (.addB32 (fieldsR w))
  | 1 => .ok (.subB32 (fieldsR w))
  | 2 => .ok (.mulB32 (fieldsR w))
  | 3 => .ok (.mulhS32 (fieldsR w))
  | 4 => .ok (.mulhN32 (fieldsR w))
  | 5 => .ok (.minS32 (fieldsR w))
  | 6 => .ok (.minN32 (fieldsR w))
  | 7 => .ok (.maxS32 (fieldsR w))
  | 8 => .ok (.maxN32 (fieldsR w))
  | 9 => .ok (.absS32 (fieldsR w))
  | 10 => .ok (.negS32 (fieldsR w))
  | 11 => .ok (.madB32 (fieldsR w))
  | 12 => .ok (.idp4S8 (fieldsR w))
  | 13 => .ok (.idp4N8 (fieldsR w))
  | _ => .illegal 2

/-- Major 0x02. -/
def decode02 (w : Word) : Decoded :=
  match (w.extractLsb' 0 4).toNat with
  | 0 => .ok (.addB64 (fieldsR w))
  | 1 => .ok (.subB64 (fieldsR w))
  | 2 => .ok (.mulB64 (fieldsR w))
  | 3 => .ok (.mulhS64 (fieldsR w))
  | 4 => .ok (.mulhN64 (fieldsR w))
  | 5 => .ok (.minS64 (fieldsR w))
  | 6 => .ok (.minN64 (fieldsR w))
  | 7 => .ok (.maxS64 (fieldsR w))
  | 8 => .ok (.maxN64 (fieldsR w))
  | 9 => .ok (.absS64 (fieldsR w))
  | 10 => .ok (.negS64 (fieldsR w))
  | 11 => .ok (.madB64 (fieldsR w))
  | _ => .illegal 2

/-- Major 0x03. -/
def decode03 (w : Word) : Decoded :=
  match (w.extractLsb' 0 4).toNat with
  | 0 => .ok (.andB32 (fieldsR w))
  | 1 => .ok (.orB32 (fieldsR w))
  | 2 => .ok (.xorB32 (fieldsR w))
  | 3 => .ok (.andnB32 (fieldsR w))
  | 4 => .ok (.shlB32 (fieldsR w))
  | 5 => .ok (.shrB32 (fieldsR w))
  | 6 => .ok (.sarB32 (fieldsR w))
  | 7 => .ok (.rolB32 (fieldsR w))
  | 8 => .ok (.andB64 (fieldsR w))
  | 9 => .ok (.orB64 (fieldsR w))
  | 10 => .ok (.xorB64 (fieldsR w))
  | 11 => .ok (.andnB64 (fieldsR w))
  | 12 => .ok (.shlB64 (fieldsR w))
  | 13 => .ok (.shrB64 (fieldsR w))
  | 14 => .ok (.sarB64 (fieldsR w))
  | _ => .ok (.rolB64 (fieldsR w))

/-- Major 0x04. -/
def decode04 (w : Word) : Decoded :=
  match (w.extractLsb' 0 4).toNat with
  | 0 => .ok (.popcB32 (fieldsR w))
  | 1 => .ok (.clzB32 (fieldsR w))
  | 2 => .ok (.ctzB32 (fieldsR w))
  | 3 => .ok (.brevB32 (fieldsR w))
  | 4 => .ok (.popcB64 (fieldsR w))
  | 5 => .ok (.clzB64 (fieldsR w))
  | 6 => .ok (.ctzB64 (fieldsR w))
  | 7 => .ok (.brevB64 (fieldsR w))
  | 8 => .ok (.bfxN32 (fieldsR w))
  | 9 => .ok (.bfxS32 (fieldsR w))
  | 10 => .ok (.bfiB32 (fieldsR w))
  | 11 => .ok (.bprmB32 (fieldsR w))
  | _ => .illegal 2

/-- Major 0x05. -/
def decode05 (w : Word) : Decoded :=
  if bit w 3 then .ok (.selB32 (fieldsR w) (w.extractLsb' 0 3))
  else match (w.extractLsb' 0 3).toNat with
  | 0 => .ok (.movB32 (fieldsR w))
  | 1 => .ok (.movB64 (fieldsR w))
  | 2 => .ok (.xloc (fieldsR w))
  | 3 => .ok (.xidx (fieldsR w))
  | _ => .illegal 2

/-- Major 0x06. -/
def decode06 (w : Word) : Decoded := .ok (.cmp (fieldsF w))

/-- Major 0x07. -/
def decode07 (w : Word) : Decoded := .ok (.fcmp (fieldsF w))

/-- Major 0x08. -/
def decode08 (w : Word) : Decoded :=
  match (w.extractLsb' 0 4).toNat with
  | 0 => .ok (.fAnd (fieldsR w))
  | 1 => .ok (.fOr (fieldsR w))
  | 2 => .ok (.fXor (fieldsR w))
  | 3 => .ok (.fNot (fieldsR w))
  | 4 => .ok (.fSet (fieldsR w))
  | 5 => .ok (.fGet (fieldsR w))
  | _ => .illegal 2

/-- Major 0x10. -/
def decode10 (w : Word) : Decoded := .ok (.addiB32 (fieldsI w))

/-- Major 0x11. -/
def decode11 (w : Word) : Decoded := .ok (.addiB64 (fieldsI w))

/-- Major 0x12. -/
def decode12 (w : Word) : Decoded := .ok (.andi (fieldsI w))

/-- Major 0x13. -/
def decode13 (w : Word) : Decoded := .ok (.ori (fieldsI w))

/-- Major 0x14. -/
def decode14 (w : Word) : Decoded := .ok (.xori (fieldsI w))

/-- Major 0x15. -/
def decode15 (w : Word) : Decoded :=
  match (w.extractLsb' 9 2).toNat with
  | 0 => .ok (.shli (fieldsSh w))
  | 1 => .ok (.shri (fieldsSh w))
  | 2 => .ok (.sari (fieldsSh w))
  | _ => .ok (.roli (fieldsSh w))

/-- Major 0x16. -/
def decode16 (w : Word) : Decoded := .ok (.cmpi (fieldsI w))

/-- Major 0x17. -/
def decode17 (w : Word) : Decoded :=
  match (w.extractLsb' 16 2).toNat with
  | 0 => .ok (.moviN (fieldsL w))
  | 1 => .ok (.moviS (fieldsL w))
  | 2 => .ok (.movh (fieldsL w))
  | _ => .ok (.addh (fieldsL w))

/-- Major 0x18. -/
def decode18 (w : Word) : Decoded :=
  match (w.extractLsb' 0 6).toNat with
  | 0 => .ok (.mand (fieldsK w))
  | 1 => .ok (.mor (fieldsK w))
  | 2 => .ok (.mxor (fieldsK w))
  | 3 => .ok (.mandn (fieldsK w))
  | 4 => .ok (.mmov (fieldsK w))
  | 5 => .ok (.msetg (fieldsK w))
  | 6 => .ok (.mgetg (fieldsK w))
  | 7 => .ok (.mself (fieldsK w))
  | 8 => .ok (.mclr (fieldsK w))
  | 9 => .ok (.mall (fieldsK w))
  | _ => .illegal 2

/-- Major 0x19. -/
def decode19 (w : Word) : Decoded :=
  match (w.extractLsb' 0 6).toNat with
  | 0 => .ok (.ballot (fieldsK w))
  | 1 => .ok (.popcm (fieldsK w))
  | 2 => .ok (.rankm (fieldsK w))
  | 3 => .ok (.join (fieldsK w))
  | 4 => .ok (.leave (fieldsK w))
  | 5 => .ok (.waitk (fieldsK w))
  | _ => .illegal 2

/-- Major 0x1A. -/
def decode1A (w : Word) : Decoded := .ok (.shfl (fieldsR w) (w.extractLsb' 0 4))

/-- Major 0x1B. -/
def decode1B (w : Word) : Decoded := .ok (.shflx (fieldsR w) (w.extractLsb' 0 4))

/-- Major 0x1C. -/
def decode1C (w : Word) : Decoded := .ok (.redm (fieldsR w) (w.extractLsb' 0 4))

/-- Major 0x1D. -/
def decode1D (w : Word) : Decoded := .ok (.scanm (fieldsR w) (w.extractLsb' 0 4))

/-- Major 0x1E. -/
def decode1E (w : Word) : Decoded := .ok (.mrgrk (fieldsR w) (w.extractLsb' 0 4))

/-- Major 0x1F. -/
def decode1F (w : Word) : Decoded := if bit w 19 then .ok (.call (fieldsJ w)) else .ok (.bra (fieldsJ w))

/-- Major 0x20. -/
def decode20 (w : Word) : Decoded :=
  match (w.extractLsb' 0 4).toNat with
  | 0 => .ok (.jmpr (fieldsS20 w))
  | 1 => .ok (.callr (fieldsS20 w))
  | 2 => .ok (.ret (fieldsS20 w))
  | 3 => .ok (.region (fieldsS20 w))
  | 4 => .ok (.tail (fieldsS20 w))
  | 5 => .ok (.exit (fieldsS20 w))
  | 6 => .ok (.xsucc (fieldsS20 w))
  | 7 => .ok (.trig (fieldsS20 w))
  | 8 => .ok (.yield (fieldsS20 w))
  | _ => .illegal 2

/-- Major 0x21. -/
def decode21 (w : Word) : Decoded := .ok (.ld (fieldsM w))

/-- Major 0x22. -/
def decode22 (w : Word) : Decoded := .ok (.st (fieldsM w))

/-- Major 0x23. -/
def decode23 (w : Word) : Decoded := .ok (.lds (fieldsM w))

/-- Major 0x24. -/
def decode24 (w : Word) : Decoded := .ok (.sts (fieldsM w))

/-- Major 0x25. -/
def decode25 (w : Word) : Decoded :=
  match (w.extractLsb' 10 2).toNat with
  | 0 => .ok (.ldq (fieldsQ w))
  | 1 => .ok (.stq (fieldsQ w))
  | 2 => .ok (.wprd (fieldsQ w))
  | _ => .illegal 2

/-- Major 0x26. -/
def decode26 (w : Word) : Decoded := .ok (.pref (fieldsM w))

/-- Major 0x27. -/
def decode27 (w : Word) : Decoded :=
  match (w.extractLsb' 2 4).toNat with
  | 0 => .ok (.atomAddB32 (fieldsA w))
  | 1 => .ok (.atomMinS32 (fieldsA w))
  | 2 => .ok (.atomMinN32 (fieldsA w))
  | 3 => .ok (.atomMaxS32 (fieldsA w))
  | 4 => .ok (.atomMaxN32 (fieldsA w))
  | 5 => .ok (.atomAndB32 (fieldsA w))
  | 6 => .ok (.atomOrB32 (fieldsA w))
  | 7 => .ok (.atomXorB32 (fieldsA w))
  | 8 => .ok (.atomExchB32 (fieldsA w))
  | 9 => .ok (.atomCasB32 (fieldsA w))
  | 10 => .ok (.atomFaddF32 (fieldsA w))
  | _ => .illegal 2

/-- Major 0x28. -/
def decode28 (w : Word) : Decoded :=
  match (w.extractLsb' 2 4).toNat with
  | 0 => .ok (.atomAddB64 (fieldsA w))
  | 1 => .ok (.atomMinS64 (fieldsA w))
  | 2 => .ok (.atomMinN64 (fieldsA w))
  | 3 => .ok (.atomMaxS64 (fieldsA w))
  | 4 => .ok (.atomMaxN64 (fieldsA w))
  | 5 => .ok (.atomAndB64 (fieldsA w))
  | 6 => .ok (.atomOrB64 (fieldsA w))
  | 7 => .ok (.atomXorB64 (fieldsA w))
  | 8 => .ok (.atomExchB64 (fieldsA w))
  | 9 => .ok (.atomCasB64 (fieldsA w))
  | 11 => .ok (.atomFaddF64 (fieldsA w))
  | _ => .illegal 2

/-- Major 0x29. -/
def decode29 (w : Word) : Decoded :=
  match (w.extractLsb' 2 4).toNat with
  | 0 => .ok (.redAdd (fieldsA w))
  | 1 => .ok (.redMinS (fieldsA w))
  | 2 => .ok (.redMinN (fieldsA w))
  | 3 => .ok (.redMaxS (fieldsA w))
  | 4 => .ok (.redMaxN (fieldsA w))
  | 5 => .ok (.redAnd (fieldsA w))
  | 6 => .ok (.redOr (fieldsA w))
  | 7 => .ok (.redXor (fieldsA w))
  | 10 => .ok (.redFaddF32 (fieldsA w))
  | 11 => .ok (.redFaddF64 (fieldsA w))
  | 12 => .ok (.redFaddBf2 (fieldsA w))
  | _ => .illegal 2

/-- Major 0x2A. -/
def decode2A (w : Word) : Decoded :=
  match (w.extractLsb' 2 4).toNat with
  | 0 => .ok (.atomsAddB32 (fieldsA w))
  | 1 => .ok (.atomsMinS32 (fieldsA w))
  | 2 => .ok (.atomsMinN32 (fieldsA w))
  | 3 => .ok (.atomsMaxS32 (fieldsA w))
  | 4 => .ok (.atomsMaxN32 (fieldsA w))
  | 5 => .ok (.atomsAndB32 (fieldsA w))
  | 6 => .ok (.atomsOrB32 (fieldsA w))
  | 7 => .ok (.atomsXorB32 (fieldsA w))
  | 8 => .ok (.atomsExchB32 (fieldsA w))
  | 9 => .ok (.atomsCasB32 (fieldsA w))
  | 10 => .ok (.atomsFaddF32 (fieldsA w))
  | _ => .illegal 2

/-- Major 0x2B. -/
def decode2B (w : Word) : Decoded :=
  match (w.extractLsb' 2 4).toNat with
  | 0 => .ok (.redsAddB32 (fieldsA w))
  | 1 => .ok (.redsMinS32 (fieldsA w))
  | 2 => .ok (.redsMinN32 (fieldsA w))
  | 3 => .ok (.redsMaxS32 (fieldsA w))
  | 4 => .ok (.redsMaxN32 (fieldsA w))
  | 5 => .ok (.redsAndB32 (fieldsA w))
  | 6 => .ok (.redsOrB32 (fieldsA w))
  | 7 => .ok (.redsXorB32 (fieldsA w))
  | 10 => .ok (.redsFaddF32 (fieldsA w))
  | 12 => .ok (.redsFaddBf2 (fieldsA w))
  | _ => .illegal 2

/-- Major 0x2C. -/
def decode2C (w : Word) : Decoded :=
  match (w.extractLsb' 2 4).toNat with
  | 0 => .ok (.mwaitEq (fieldsA w))
  | 1 => .ok (.mwaitNe (fieldsA w))
  | _ => .illegal 2

/-- Major 0x2D. -/
def decode2D (w : Word) : Decoded :=
  match (w.extractLsb' 0 2).toNat with
  | 0 => .ok (.stcmp (fieldsAK w))
  | 1 => .ok (.ldexp (fieldsAK w))
  | _ => .illegal 2

/-- Major 0x2E. -/
def decode2E (w : Word) : Decoded :=
  match (w.extractLsb' 0 6).toNat with
  | 0 => .ok (.ldtB16 (fieldsT w))
  | 1 => .ok (.ldtB32 (fieldsT w))
  | 2 => .ok (.ldtB64 (fieldsT w))
  | 3 => .ok (.sttB16 (fieldsT w))
  | 4 => .ok (.sttB32 (fieldsT w))
  | 5 => .ok (.sttB64 (fieldsT w))
  | _ => .illegal 2

/-- Major 0x2F. -/
def decode2F (w : Word) : Decoded :=
  match (w.extractLsb' 0 6).toNat with
  | 0 => .ok (.binit (fieldsT w))
  | 1 => .ok (.barr (fieldsT w))
  | 2 => .ok (.bdrop (fieldsT w))
  | 3 => .ok (.bwait (fieldsT w))
  | 4 => .ok (.bexp (fieldsT w))
  | 5 => .ok (.btest (fieldsT w))
  | _ => .illegal 2

/-- Major 0x30. -/
def decode30 (w : Word) : Decoded := if bit w 0 then .ok (.lkupg (fieldsTL w)) else .ok (.lkacq (fieldsTL w))

/-- Major 0x31. -/
def decode31 (w : Word) : Decoded :=
  match (w.extractLsb' 0 6).toNat with
  | 0 | 2 | 4 => .ok (.lkrel (fieldsT w) (w.extractLsb' 1 2))
  | 1 => .ok (.lkrall (fieldsT w))
  | 3 => .ok (.lkchk (fieldsT w))
  | _ => .illegal 2

/-- Major 0x32. -/
def decode32 (w : Word) : Decoded :=
  match (w.extractLsb' 0 6).toNat with
  | 0 => .ok (.rrot (fieldsT w))
  | _ => .illegal 2

/-- Major 0x33. -/
def decode33 (w : Word) : Decoded :=
  match (w.extractLsb' 0 4).toNat with
  | 0 => .ok (.faddF32 (fieldsR w))
  | 1 => .ok (.fsubF32 (fieldsR w))
  | 2 => .ok (.fmulF32 (fieldsR w))
  | 3 => .ok (.ffmaF32 (fieldsR w))
  | 4 => .ok (.fminF32 (fieldsR w))
  | 5 => .ok (.fmaxF32 (fieldsR w))
  | 6 => .ok (.fabsF32 (fieldsR w))
  | 7 => .ok (.fnegF32 (fieldsR w))
  | 8 => .ok (.frndF32Rn (fieldsR w))
  | 9 => .ok (.frndF32Rz (fieldsR w))
  | 10 => .ok (.frndF32Ru (fieldsR w))
  | 11 => .ok (.frndF32Rd (fieldsR w))
  | _ => .illegal 2

/-- Major 0x34. -/
def decode34 (w : Word) : Decoded :=
  match (w.extractLsb' 0 4).toNat with
  | 0 => .ok (.faddF64 (fieldsR w))
  | 1 => .ok (.fsubF64 (fieldsR w))
  | 2 => .ok (.fmulF64 (fieldsR w))
  | 3 => .ok (.ffmaF64 (fieldsR w))
  | 4 => .ok (.fminF64 (fieldsR w))
  | 5 => .ok (.fmaxF64 (fieldsR w))
  | 6 => .ok (.fabsF64 (fieldsR w))
  | 7 => .ok (.fnegF64 (fieldsR w))
  | 8 => .ok (.frndF64Rn (fieldsR w))
  | 9 => .ok (.frndF64Rz (fieldsR w))
  | 10 => .ok (.frndF64Ru (fieldsR w))
  | 11 => .ok (.frndF64Rd (fieldsR w))
  | _ => .illegal 2

/-- Major 0x35. -/
def decode35 (w : Word) : Decoded :=
  match (w.extractLsb' 0 4).toNat with
  | 0 => .ok (.hadd2H (fieldsR w))
  | 1 => .ok (.hsub2H (fieldsR w))
  | 2 => .ok (.hmul2H (fieldsR w))
  | 3 => .ok (.hfma2H (fieldsR w))
  | 4 => .ok (.hmin2H (fieldsR w))
  | 5 => .ok (.hmax2H (fieldsR w))
  | 8 => .ok (.hadd2Bf (fieldsR w))
  | 9 => .ok (.hsub2Bf (fieldsR w))
  | 10 => .ok (.hmul2Bf (fieldsR w))
  | 11 => .ok (.hfma2Bf (fieldsR w))
  | 12 => .ok (.hmin2Bf (fieldsR w))
  | 13 => .ok (.hmax2Bf (fieldsR w))
  | 14 => .ok (.dot4E4 (fieldsR w))
  | 15 => .ok (.dot4E5 (fieldsR w))
  | _ => .illegal 2

/-- Major 0x36. -/
noncomputable def decode36 (w : Word) : Decoded :=
  match (w.extractLsb' 0 4).toNat with
  | 0 => .ok (.frcpF32 (fieldsR w))
  | 1 => .ok (.frsqF32 (fieldsR w))
  | 2 => .ok (.fsqrtF32 (fieldsR w))
  | 3 => .ok (.fexp2F32 (fieldsR w))
  | 4 => .ok (.flog2F32 (fieldsR w))
  | 5 => .ok (.fsinF32 (fieldsR w))
  | 6 => .ok (.fcosF32 (fieldsR w))
  | 7 => .ok (.fdivF32 (fieldsR w))
  | 8 => .ok (.fsqrtF64 (fieldsR w))
  | 9 => .ok (.fdivF64 (fieldsR w))
  | 10 => .ok (.frcpF64 (fieldsR w))
  | 11 => .ok (.fclassF32 (fieldsR w))
  | 12 => .ok (.fclassF64 (fieldsR w))
  | _ => .illegal 2

/-- Major 0x37. -/
noncomputable def decode37 (w : Word) : Decoded := .ok (.cvt (fieldsC w))

/-- Major 0x38. -/
noncomputable def decode38 (w : Word) : Decoded :=
  match (w.extractLsb' 0 2).toNat with
  | 0 => .ok (.blkAddB32 (fieldsX w))
  | 1 => .ok (.blkMovB32 (fieldsX w))
  | 2 => .ok (.blkAndB32 (fieldsX w))
  | _ => .ok (.blkXorB32 (fieldsX w))

/-- Major 0x39. -/
noncomputable def decode39 (w : Word) : Decoded :=
  match (w.extractLsb' 0 2).toNat with
  | 0 => .ok (.blkFaddF32 (fieldsX w))
  | 1 => .ok (.blkFmulF32 (fieldsX w))
  | 2 => .ok (.blkFfmaF32 (fieldsX w))
  | _ => .ok (.blkFmaxF32 (fieldsX w))

/-- Major 0x3A. -/
noncomputable def decode3A (w : Word) : Decoded :=
  match (w.extractLsb' 0 2).toNat with
  | 0 => .ok (.blkHfma2H (fieldsX w))
  | 1 => .ok (.blkHfma2Bf (fieldsX w))
  | 2 => .ok (.blkFfmaF64 (fieldsX w))
  | _ => .illegal 2

/-- Major 0x3B. -/
noncomputable def decode3B (w : Word) : Decoded :=
  match (w.extractLsb' 0 6).toNat with
  | 0 => .ok (.mxcfg (fieldsT w))
  | 1 => .ok (.mxlds (fieldsT w))
  | 2 => .ok (.mxswap (fieldsT w))
  | 3 => .ok (.mxmul (fieldsT w))
  | 4 => .ok (.mxst (fieldsT w))
  | 5 => .ok (.mxzero (fieldsT w))
  | 6 => .ok (.mxgo (fieldsT w))
  | 7 => .ok (.mxstat (fieldsT w))
  | _ => .illegal 2

/-- Major 0x3C. -/
noncomputable def decode3C (w : Word) : Decoded :=
  match (w.extractLsb' 0 6).toNat with
  | 0 => .ok (.tdef (fieldsT w))
  | 1 => .ok (.trel (fieldsT w))
  | 2 => .ok (.tcopy (fieldsT w))
  | 3 => .ok (.remap (fieldsT w))
  | 11 => .ok (.remapStep (fieldsT w))
  | 4 => .ok (.tmerge (fieldsT w))
  | 5 => .ok (.txf (fieldsT w))
  | 6 => .ok (.tstat (fieldsT w))
  | 7 => .ok (.tldtab (fieldsT w))
  | _ => .illegal 2

/-- Major 0x3D. -/
noncomputable def decode3D (w : Word) : Decoded :=
  match (w.extractLsb' 0 6).toNat with
  | 0 => .ok (.rget (fieldsT w))
  | 1 => .ok (.rput (fieldsT w))
  | 2 => .ok (.tsend (fieldsT w))
  | 3 => .ok (.tcnt (fieldsT w))
  | 4 => .ok (.rfence (fieldsT w))
  | 5 => .ok (.carm (fieldsT w))
  | 6 => .ok (.skld (fieldsT w))
  | 7 => .ok (.skrel (fieldsT w))
  | _ => .illegal 2

/-- Major 0x3E. -/
noncomputable def decode3E (w : Word) : Decoded :=
  match (w.extractLsb' 2 4).toNat with
  | 0 => .ok (.ratomAddB64 (fieldsA w))
  | 1 => .ok (.ratomMinS64 (fieldsA w))
  | 2 => .ok (.ratomMinN64 (fieldsA w))
  | 3 => .ok (.ratomMaxS64 (fieldsA w))
  | 4 => .ok (.ratomMaxN64 (fieldsA w))
  | 5 => .ok (.ratomAndB64 (fieldsA w))
  | 6 => .ok (.ratomOrB64 (fieldsA w))
  | 7 => .ok (.ratomXorB64 (fieldsA w))
  | 8 => .ok (.ratomExchB64 (fieldsA w))
  | 9 => .ok (.ratomCasB64 (fieldsA w))
  | _ => .illegal 2

/-- Major 0x3F. -/
noncomputable def decode3F (w : Word) : Decoded :=
  match (w.extractLsb' 8 4).toNat with
  | 0 => .ok (.trap (fieldsS3F w))
  | 1 => .ok (.srd (fieldsS3F w))
  | 2 => .ok (.swr (fieldsS3F w))
  | 4 => .ok (.fltrd (fieldsS3F w))
  | 6 => .ok (.sigw (fieldsS3F w))
  | 7 => .ok (.bkpt (fieldsS3F w))
  | 3 => if bit w 0 then .ok (.rteNext (fieldsS3FA w)) else .ok (.rteRestart (fieldsS3FA w))
  | 5 => if bit w 0 then .ok (.launchNb (fieldsS3FA w)) else .ok (.launch (fieldsS3FA w))
  | _ => .illegal 2

/-- A core word by its major (R242), before the checks of orders 2 to 8 on its fields. -/
noncomputable def decodeRaw (w : Word) : Decoded :=
  match (majorOf w).toNat with
  | 0 => decode00 w
  | 1 => decode01 w
  | 2 => decode02 w
  | 3 => decode03 w
  | 4 => decode04 w
  | 5 => decode05 w
  | 6 => decode06 w
  | 7 => decode07 w
  | 8 => decode08 w
  | 16 => decode10 w
  | 17 => decode11 w
  | 18 => decode12 w
  | 19 => decode13 w
  | 20 => decode14 w
  | 21 => decode15 w
  | 22 => decode16 w
  | 23 => decode17 w
  | 24 => decode18 w
  | 25 => decode19 w
  | 26 => decode1A w
  | 27 => decode1B w
  | 28 => decode1C w
  | 29 => decode1D w
  | 30 => decode1E w
  | 31 => decode1F w
  | 32 => decode20 w
  | 33 => decode21 w
  | 34 => decode22 w
  | 35 => decode23 w
  | 36 => decode24 w
  | 37 => decode25 w
  | 38 => decode26 w
  | 39 => decode27 w
  | 40 => decode28 w
  | 41 => decode29 w
  | 42 => decode2A w
  | 43 => decode2B w
  | 44 => decode2C w
  | 45 => decode2D w
  | 46 => decode2E w
  | 47 => decode2F w
  | 48 => decode30 w
  | 49 => decode31 w
  | 50 => decode32 w
  | 51 => decode33 w
  | 52 => decode34 w
  | 53 => decode35 w
  | 54 => decode36 w
  | 55 => decode37 w
  | 56 => decode38 w
  | 57 => decode39 w
  | 58 => decode3A w
  | 59 => decode3B w
  | 60 => decode3C w
  | 61 => decode3D w
  | 62 => decode3E w
  | 63 => decode3F w
  | _ => .illegal 1

/-- A core word: an instruction that passes orders 1 to 8 of R244, or the subcode of the first check that fails. -/
noncomputable def decodeWord (w : Word) : Decoded :=
  match decodeRaw w with
  | .ok i => match i.check with
    | none => .ok i
    | some sub => .illegal sub
  | .illegal sub => .illegal sub

/-! ## Sepal words (R434) -/

/-- Format A: YD YA I YB, or an immediate. -/
def sepalA (op : BitVec 6) (d a b : BitVec 4) : Word := op ++ d ++ a ++ (0 : BitVec 1) ++ b ++ (0 : BitVec 13)
/-- Format A with I = 1. -/
def sepalAI (op : BitVec 6) (d a : BitVec 4) (imm : BitVec 17) : Word := op ++ d ++ a ++ (1 : BitVec 1) ++ imm
/-- Format L. -/
def sepalL (op : BitVec 6) (d : BitVec 4) (imm : BitVec 16) : Word := op ++ d ++ (0 : BitVec 6) ++ imm
/-- Format H. -/
def sepalH (op : BitVec 6) (d a f : BitVec 4) : Word := op ++ d ++ a ++ f ++ (0 : BitVec 14)
/-- Format M. -/
def sepalM (op : BitVec 6) (y a b : BitVec 4) (off : BitVec 14) : Word := op ++ y ++ a ++ b ++ off
/-- Format V. -/
def sepalV (op : BitVec 6) (d a b : BitVec 3) (ty : BitVec 2) : Word := op ++ d ++ a ++ b ++ ty ++ (0 : BitVec 15)

/-! ## The encoder -/

/-- The words of an instruction, from the encoding tables of R235, R243 and R434. An event has no word. -/
def Instr.encode (i : Instr) : List Word :=
  match i with
  | .nop f => [one f.c ++ one f.w ++ (0 : BitVec 30)]
  | .addB32 f => [wordR 1 f 0]
  | .subB32 f => [wordR 1 f 1]
  | .mulB32 f => [wordR 1 f 2]
  | .mulhS32 f => [wordR 1 f 3]
  | .mulhN32 f => [wordR 1 f 4]
  | .minS32 f => [wordR 1 f 5]
  | .minN32 f => [wordR 1 f 6]
  | .maxS32 f => [wordR 1 f 7]
  | .maxN32 f => [wordR 1 f 8]
  | .absS32 f => [wordR 1 f 9]
  | .negS32 f => [wordR 1 f 10]
  | .madB32 f => [wordR 1 f 11]
  | .idp4S8 f => [wordR 1 f 12]
  | .idp4N8 f => [wordR 1 f 13]
  | .addB64 f => [wordR 2 f 0]
  | .subB64 f => [wordR 2 f 1]
  | .mulB64 f => [wordR 2 f 2]
  | .mulhS64 f => [wordR 2 f 3]
  | .mulhN64 f => [wordR 2 f 4]
  | .minS64 f => [wordR 2 f 5]
  | .minN64 f => [wordR 2 f 6]
  | .maxS64 f => [wordR 2 f 7]
  | .maxN64 f => [wordR 2 f 8]
  | .absS64 f => [wordR 2 f 9]
  | .negS64 f => [wordR 2 f 10]
  | .madB64 f => [wordR 2 f 11]
  | .andB32 f => [wordR 3 f 0]
  | .orB32 f => [wordR 3 f 1]
  | .xorB32 f => [wordR 3 f 2]
  | .andnB32 f => [wordR 3 f 3]
  | .shlB32 f => [wordR 3 f 4]
  | .shrB32 f => [wordR 3 f 5]
  | .sarB32 f => [wordR 3 f 6]
  | .rolB32 f => [wordR 3 f 7]
  | .andB64 f => [wordR 3 f 8]
  | .orB64 f => [wordR 3 f 9]
  | .xorB64 f => [wordR 3 f 10]
  | .andnB64 f => [wordR 3 f 11]
  | .shlB64 f => [wordR 3 f 12]
  | .shrB64 f => [wordR 3 f 13]
  | .sarB64 f => [wordR 3 f 14]
  | .rolB64 f => [wordR 3 f 15]
  | .shli f => [wordSh 21 f 0]
  | .shri f => [wordSh 21 f 1]
  | .sari f => [wordSh 21 f 2]
  | .roli f => [wordSh 21 f 3]
  | .popcB32 f => [wordR 4 f 0]
  | .clzB32 f => [wordR 4 f 1]
  | .ctzB32 f => [wordR 4 f 2]
  | .brevB32 f => [wordR 4 f 3]
  | .popcB64 f => [wordR 4 f 4]
  | .clzB64 f => [wordR 4 f 5]
  | .ctzB64 f => [wordR 4 f 6]
  | .brevB64 f => [wordR 4 f 7]
  | .bfxN32 f => [wordR 4 f 8]
  | .bfxS32 f => [wordR 4 f 9]
  | .bfiB32 f => [wordR 4 f 10]
  | .bprmB32 f => [wordR 4 f 11]
  | .movB32 f => [wordR 5 f 0]
  | .movB64 f => [wordR 5 f 1]
  | .xloc f => [wordR 5 f 2]
  | .xidx f => [wordR 5 f 3]
  | .selB32 f e => [wordR 5 f ((1 : BitVec 1) ++ e)]
  | .cmp f => [wordF 6 f]
  | .fcmp f => [wordF 7 f]
  | .fAnd f => [wordR 8 f 0]
  | .fOr f => [wordR 8 f 1]
  | .fXor f => [wordR 8 f 2]
  | .fNot f => [wordR 8 f 3]
  | .fSet f => [wordR 8 f 4]
  | .fGet f => [wordR 8 f 5]
  | .addiB32 f => [wordI 16 f]
  | .addiB64 f => [wordI 17 f]
  | .andi f => [wordI 18 f]
  | .ori f => [wordI 19 f]
  | .xori f => [wordI 20 f]
  | .cmpi f => [wordI 22 f]
  | .moviN f => [wordL 23 f 0]
  | .moviS f => [wordL 23 f 1]
  | .movh f => [wordL 23 f 2]
  | .addh f => [wordL 23 f 3]
  | .mand f => [wordK 24 f 0]
  | .mor f => [wordK 24 f 1]
  | .mxor f => [wordK 24 f 2]
  | .mandn f => [wordK 24 f 3]
  | .mmov f => [wordK 24 f 4]
  | .msetg f => [wordK 24 f 5]
  | .mgetg f => [wordK 24 f 6]
  | .mself f => [wordK 24 f 7]
  | .mclr f => [wordK 24 f 8]
  | .mall f => [wordK 24 f 9]
  | .ballot f => [wordK 25 f 0]
  | .popcm f => [wordK 25 f 1]
  | .rankm f => [wordK 25 f 2]
  | .join f => [wordK 25 f 3]
  | .leave f => [wordK 25 f 4]
  | .waitk f => [wordK 25 f 5]
  | .shfl f k => [wordR 26 f k]
  | .shflx f k => [wordR 27 f k]
  | .redm f k => [wordR 28 f k]
  | .scanm f k => [wordR 29 f k]
  | .mrgrk f k => [wordR 30 f k]
  | .bra f => [wordJ 31 f false]
  | .call f => [wordJ 31 f true]
  | .jmpr f => [wordS20 32 f 0]
  | .callr f => [wordS20 32 f 1]
  | .ret f => [wordS20 32 f 2]
  | .region f => [wordS20 32 f 3]
  | .tail f => [wordS20 32 f 4]
  | .exit f => [wordS20 32 f 5]
  | .xsucc f => [wordS20 32 f 6]
  | .trig f => [wordS20 32 f 7]
  | .yield f => [wordS20 32 f 8]
  | .ld f => [wordM 33 f]
  | .st f => [wordM 34 f]
  | .lds f => [wordM 35 f]
  | .sts f => [wordM 36 f]
  | .pref f => [wordM 38 f]
  | .ldq f => [wordQ 37 f 0]
  | .stq f => [wordQ 37 f 1]
  | .wprd f => [wordQ 37 f 2]
  | .atomAddB32 f => [wordA 39 f 0]
  | .atomMinS32 f => [wordA 39 f 1]
  | .atomMinN32 f => [wordA 39 f 2]
  | .atomMaxS32 f => [wordA 39 f 3]
  | .atomMaxN32 f => [wordA 39 f 4]
  | .atomAndB32 f => [wordA 39 f 5]
  | .atomOrB32 f => [wordA 39 f 6]
  | .atomXorB32 f => [wordA 39 f 7]
  | .atomExchB32 f => [wordA 39 f 8]
  | .atomCasB32 f => [wordA 39 f 9]
  | .atomFaddF32 f => [wordA 39 f 10]
  | .atomAddB64 f => [wordA 40 f 0]
  | .atomMinS64 f => [wordA 40 f 1]
  | .atomMinN64 f => [wordA 40 f 2]
  | .atomMaxS64 f => [wordA 40 f 3]
  | .atomMaxN64 f => [wordA 40 f 4]
  | .atomAndB64 f => [wordA 40 f 5]
  | .atomOrB64 f => [wordA 40 f 6]
  | .atomXorB64 f => [wordA 40 f 7]
  | .atomExchB64 f => [wordA 40 f 8]
  | .atomCasB64 f => [wordA 40 f 9]
  | .atomFaddF64 f => [wordA 40 f 11]
  | .atomsAddB32 f => [wordA 42 f 0]
  | .atomsMinS32 f => [wordA 42 f 1]
  | .atomsMinN32 f => [wordA 42 f 2]
  | .atomsMaxS32 f => [wordA 42 f 3]
  | .atomsMaxN32 f => [wordA 42 f 4]
  | .atomsAndB32 f => [wordA 42 f 5]
  | .atomsOrB32 f => [wordA 42 f 6]
  | .atomsXorB32 f => [wordA 42 f 7]
  | .atomsExchB32 f => [wordA 42 f 8]
  | .atomsCasB32 f => [wordA 42 f 9]
  | .atomsFaddF32 f => [wordA 42 f 10]
  | .redAdd f => [wordA 41 f 0]
  | .redMinS f => [wordA 41 f 1]
  | .redMinN f => [wordA 41 f 2]
  | .redMaxS f => [wordA 41 f 3]
  | .redMaxN f => [wordA 41 f 4]
  | .redAnd f => [wordA 41 f 5]
  | .redOr f => [wordA 41 f 6]
  | .redXor f => [wordA 41 f 7]
  | .redFaddF32 f => [wordA 41 f 10]
  | .redFaddF64 f => [wordA 41 f 11]
  | .redFaddBf2 f => [wordA 41 f 12]
  | .redsAddB32 f => [wordA 43 f 0]
  | .redsMinS32 f => [wordA 43 f 1]
  | .redsMinN32 f => [wordA 43 f 2]
  | .redsMaxS32 f => [wordA 43 f 3]
  | .redsMaxN32 f => [wordA 43 f 4]
  | .redsAndB32 f => [wordA 43 f 5]
  | .redsOrB32 f => [wordA 43 f 6]
  | .redsXorB32 f => [wordA 43 f 7]
  | .redsFaddF32 f => [wordA 43 f 10]
  | .redsFaddBf2 f => [wordA 43 f 12]
  | .mwaitEq f => [wordA 44 f 0]
  | .mwaitNe f => [wordA 44 f 1]
  | .stcmp f => [wordAK 45 f 0]
  | .ldexp f => [wordAK 45 f 1]
  | .ldtB16 f => [wordT 46 f 0]
  | .ldtB32 f => [wordT 46 f 1]
  | .ldtB64 f => [wordT 46 f 2]
  | .sttB16 f => [wordT 46 f 3]
  | .sttB32 f => [wordT 46 f 4]
  | .sttB64 f => [wordT 46 f 5]
  | .binit f => [wordT 47 f 0]
  | .barr f => [wordT 47 f 1]
  | .bdrop f => [wordT 47 f 2]
  | .bwait f => [wordT 47 f 3]
  | .bexp f => [wordT 47 f 4]
  | .btest f => [wordT 47 f 5]
  | .lkacq f => [wordTL 48 f false]
  | .lkupg f => [wordTL 48 f true]
  | .lkrel f lv => [wordT 49 f ((0 : BitVec 3) ++ lv ++ (0 : BitVec 1))]
  | .lkrall f => [wordT 49 f 1]
  | .lkchk f => [wordT 49 f 3]
  | .rrot f => [wordT 50 f 0]
  | .faddF32 f => [wordR 51 f 0]
  | .fsubF32 f => [wordR 51 f 1]
  | .fmulF32 f => [wordR 51 f 2]
  | .ffmaF32 f => [wordR 51 f 3]
  | .fminF32 f => [wordR 51 f 4]
  | .fmaxF32 f => [wordR 51 f 5]
  | .fabsF32 f => [wordR 51 f 6]
  | .fnegF32 f => [wordR 51 f 7]
  | .frndF32Rn f => [wordR 51 f 8]
  | .frndF32Rz f => [wordR 51 f 9]
  | .frndF32Ru f => [wordR 51 f 10]
  | .frndF32Rd f => [wordR 51 f 11]
  | .faddF64 f => [wordR 52 f 0]
  | .fsubF64 f => [wordR 52 f 1]
  | .fmulF64 f => [wordR 52 f 2]
  | .ffmaF64 f => [wordR 52 f 3]
  | .fminF64 f => [wordR 52 f 4]
  | .fmaxF64 f => [wordR 52 f 5]
  | .fabsF64 f => [wordR 52 f 6]
  | .fnegF64 f => [wordR 52 f 7]
  | .frndF64Rn f => [wordR 52 f 8]
  | .frndF64Rz f => [wordR 52 f 9]
  | .frndF64Ru f => [wordR 52 f 10]
  | .frndF64Rd f => [wordR 52 f 11]
  | .hadd2H f => [wordR 53 f 0]
  | .hsub2H f => [wordR 53 f 1]
  | .hmul2H f => [wordR 53 f 2]
  | .hfma2H f => [wordR 53 f 3]
  | .hmin2H f => [wordR 53 f 4]
  | .hmax2H f => [wordR 53 f 5]
  | .hadd2Bf f => [wordR 53 f 8]
  | .hsub2Bf f => [wordR 53 f 9]
  | .hmul2Bf f => [wordR 53 f 10]
  | .hfma2Bf f => [wordR 53 f 11]
  | .hmin2Bf f => [wordR 53 f 12]
  | .hmax2Bf f => [wordR 53 f 13]
  | .dot4E4 f => [wordR 53 f 14]
  | .dot4E5 f => [wordR 53 f 15]
  | .frcpF32 f => [wordR 54 f 0]
  | .frsqF32 f => [wordR 54 f 1]
  | .fsqrtF32 f => [wordR 54 f 2]
  | .fexp2F32 f => [wordR 54 f 3]
  | .flog2F32 f => [wordR 54 f 4]
  | .fsinF32 f => [wordR 54 f 5]
  | .fcosF32 f => [wordR 54 f 6]
  | .fdivF32 f => [wordR 54 f 7]
  | .fsqrtF64 f => [wordR 54 f 8]
  | .fdivF64 f => [wordR 54 f 9]
  | .frcpF64 f => [wordR 54 f 10]
  | .fclassF32 f => [wordR 54 f 11]
  | .fclassF64 f => [wordR 54 f 12]
  | .cvt f => [wordC 55 f]
  | .blkAddB32 f => [wordX 56 f 0]
  | .blkMovB32 f => [wordX 56 f 1]
  | .blkAndB32 f => [wordX 56 f 2]
  | .blkXorB32 f => [wordX 56 f 3]
  | .blkFaddF32 f => [wordX 57 f 0]
  | .blkFmulF32 f => [wordX 57 f 1]
  | .blkFfmaF32 f => [wordX 57 f 2]
  | .blkFmaxF32 f => [wordX 57 f 3]
  | .blkHfma2H f => [wordX 58 f 0]
  | .blkHfma2Bf f => [wordX 58 f 1]
  | .blkFfmaF64 f => [wordX 58 f 2]
  | .mxcfg f => [wordT 59 f 0]
  | .mxlds f => [wordT 59 f 1]
  | .mxswap f => [wordT 59 f 2]
  | .mxmul f => [wordT 59 f 3]
  | .mxst f => [wordT 59 f 4]
  | .mxzero f => [wordT 59 f 5]
  | .mxgo f => [wordT 59 f 6]
  | .mxstat f => [wordT 59 f 7]
  | .tdef f => [wordT 60 f 0]
  | .trel f => [wordT 60 f 1]
  | .tcopy f => [wordT 60 f 2]
  | .remap f => [wordT 60 f 3]
  | .remapStep f => [wordT 60 f 11]
  | .tmerge f => [wordT 60 f 4]
  | .txf f => [wordT 60 f 5]
  | .tstat f => [wordT 60 f 6]
  | .tldtab f => [wordT 60 f 7]
  | .rget f => [wordT 61 f 0]
  | .rput f => [wordT 61 f 1]
  | .tsend f => [wordT 61 f 2]
  | .tcnt f => [wordT 61 f 3]
  | .rfence f => [wordT 61 f 4]
  | .carm f => [wordT 61 f 5]
  | .skld f => [wordT 61 f 6]
  | .skrel f => [wordT 61 f 7]
  | .ratomAddB64 f => [wordA 62 f 0]
  | .ratomMinS64 f => [wordA 62 f 1]
  | .ratomMinN64 f => [wordA 62 f 2]
  | .ratomMaxS64 f => [wordA 62 f 3]
  | .ratomMaxN64 f => [wordA 62 f 4]
  | .ratomAndB64 f => [wordA 62 f 5]
  | .ratomOrB64 f => [wordA 62 f 6]
  | .ratomXorB64 f => [wordA 62 f 7]
  | .ratomExchB64 f => [wordA 62 f 8]
  | .ratomCasB64 f => [wordA 62 f 9]
  | .trap f => [wordS3F 63 f 0]
  | .srd f => [wordS3F 63 f 1]
  | .swr f => [wordS3F 63 f 2]
  | .rteRestart f => [wordS3FA 63 f 3 false]
  | .rteNext f => [wordS3FA 63 f 3 true]
  | .fltrd f => [wordS3F 63 f 4]
  | .launch f => [wordS3FA 63 f 5 false]
  | .launchNb f => [wordS3FA 63 f 5 true]
  | .sigw f => [wordS3F 63 f 6]
  | .bkpt f => [wordS3F 63 f 7]
  | .sepalAdd d a b => [sepalA 1 d a b]
  | .sepalAddImm d a imm => [sepalAI 1 d a imm]
  | .sepalSub d a b => [sepalA 2 d a b]
  | .sepalSubImm d a imm => [sepalAI 2 d a imm]
  | .sepalAnd d a b => [sepalA 3 d a b]
  | .sepalAndImm d a imm => [sepalAI 3 d a imm]
  | .sepalOr d a b => [sepalA 4 d a b]
  | .sepalOrImm d a imm => [sepalAI 4 d a imm]
  | .sepalXor d a b => [sepalA 5 d a b]
  | .sepalXorImm d a imm => [sepalAI 5 d a imm]
  | .sepalShl d a b => [sepalA 6 d a b]
  | .sepalShlImm d a imm => [sepalAI 6 d a imm]
  | .sepalShr d a b => [sepalA 7 d a b]
  | .sepalShrImm d a imm => [sepalAI 7 d a imm]
  | .sepalMin d a b => [sepalA 8 d a b]
  | .sepalMinImm d a imm => [sepalAI 8 d a imm]
  | .sepalMax d a b => [sepalA 9 d a b]
  | .sepalMaxImm d a imm => [sepalAI 9 d a imm]
  | .sepalMovi d imm => [sepalL 10 d imm]
  | .sepalMovh d imm => [sepalL 11 d imm]
  | .sepalCmp d cc a b => [(12 : BitVec 6) ++ d ++ cc ++ a ++ (0 : BitVec 1) ++ b ++ (0 : BitVec 12)]
  | .sepalCmpImm d cc a imm => [(12 : BitVec 6) ++ d ++ cc ++ a ++ (1 : BitVec 1) ++ imm]
  | .sepalBr n cf off => [(16 : BitVec 6) ++ one n ++ (0 : BitVec 1) ++ cf ++ (0 : BitVec 10) ++ off]
  | .sepalBrAlways off => [(16 : BitVec 6) ++ (0 : BitVec 1) ++ (1 : BitVec 1) ++ (0 : BitVec 12) ++ off]
  | .sepalLoop lc len => [(17 : BitVec 6) ++ lc ++ (0 : BitVec 4) ++ len]
  | .sepalDone => [(18 : BitVec 6) ++ (0 : BitVec 26)]
  | .sepalPhl d fld => [sepalH 20 d 0 fld]
  | .sepalPhs a fld => [sepalH 21 0 a fld]
  | .sepalPkl d a off => [sepalM 22 d a 0 off]
  | .sepalPks a b off => [sepalM 23 0 a b off]
  | .sepalFld d a off => [sepalM 24 d a 0 off]
  | .sepalFst a b off => [sepalM 25 0 a b off]
  | .sepalFat d a b off => [sepalM 26 d a b off]
  | .sepalVld sp d a off => [sepalM 32 (one sp ++ d) a 0 off]
  | .sepalVst sp v a b off => [sepalM 33 (one sp ++ v) a b off]
  | .sepalVadd d a b ty => [sepalV 34 d a b ty]
  | .sepalVmax d a b ty => [sepalV 35 d a b ty]
  | .sepalVmin d a b ty => [sepalV 36 d a b ty]
  | .sepalVred d a ty => [(37 : BitVec 6) ++ d ++ a ++ (0 : BitVec 2) ++ ty ++ (0 : BitVec 15)]
  | .sepalVcvtUp d a h => [sepalV 38 d a 0 ((0 : BitVec 1) ++ h)]
  | .sepalVcvtDn d a h => [sepalV 38 d a 0 ((1 : BitVec 1) ++ h)]
  | .sepalHash d a b => [sepalA 40 d a b]
  | .sepalFwd a => [sepalH 44 0 a 0]
  | .sepalDrop => [(45 : BitVec 6) ++ (0 : BitVec 26)]
  | .sepalMirr a => [sepalH 46 0 a 0]
  | .sepalClk d => [sepalL 48 d 0]
  | .sepalTrp n => [sepalL 49 0 ((0 : BitVec 8) ++ n)]
  | .yieldExpire _ | .channelOverflow _ _ | .mwaitRecheck _ | .lkrallComplete _ | .graceExpired _
  | .rrotStart _ _ | .rrotArrive _ | .mxgoStep _ | .engineChunk _ | .remapPassEnd _ _ | .skrelComplete _
  | .ratomTimeout _ | .sigwRecheck _ | .deferredTrapEntry _ | .resume _ _ | .pfqRecordRelease _
  | .resultReturn _ | .storeError _ _ _ _ | .threadEnd _ | .taskResourcesFree _ | .successorPlace _
  | .petalPowerGate _ _ | .hangReport _ _ | .queueWrite _ _ _ | .launchCheck _ _ | .dependenceRecheck _ _
  | .dispatch | .taskAdmit _ | .stageRebalance _ | .stealRequest _ | .preemptRequest _ | .taskSave _
  | .taskRestore _ | .sectorRead _ _ | .registration _ | .registrationAck _ | .l1Eviction _ _
  | .sliceEviction _ _ | .rds _ _ | .rdx _ _ | .wb _ _ | .evc _ _ | .redu _ _ _ | .redf _ _ _ | .wrn _ _
  | .spill _ _ _ | .placementEpoch _ | .migrationFinish _ _ | .migRewalk _ | .invalidationCommand _
  | .invalidationComplete _ | .atsInvalidation _ _ | .atsCompletion _ _ _ | .priResponse _ _ _
  | .hostWrite _ _ | .hostRead _ _ | .remoteRequest _ | .remoteResponse _ | .collectiveReserve _
  | .sepalContextStart _ | .qcfgWrite _ _ | .qbaseWrite _ _ | .ctxbaseWrite _ | .lkcfgWrite _ _
  | .fweightWrite _ _ | .c0resWrite _ | .timerWrite _ _ | .cntcfgWrite _ _ | .frameidxWrite _ _
  | .retidxWrite _ _ | .ringRegisterWrite _ _ | .areaRegisterWrite _ _ | .registerWrite _ _ _
  | .attestationRequest _ _ | .attestationDone _ | .serviceFirmwareLoad _ _ | .serviceFirmwareVerified
  | .coldStart | .memoryInitDone | .powerLoss | .unitFence _ | .linkDown _ | .linkUp _ | .tokenBucketRefill _
  | .softError _ => []

/-- The sepal instruction that a word's OP and I bits name (R434), its unused fields not looked at. -/
noncomputable def sepalRaw (w : Word) : Option Instr :=
  match (w.extractLsb' 26 6).toNat with
  | 1 => if bit w 17 then some (.sepalAddImm (w.extractLsb' 22 4) (w.extractLsb' 18 4) (w.extractLsb' 0 17)) else some (.sepalAdd (w.extractLsb' 22 4) (w.extractLsb' 18 4) (w.extractLsb' 13 4))
  | 2 => if bit w 17 then some (.sepalSubImm (w.extractLsb' 22 4) (w.extractLsb' 18 4) (w.extractLsb' 0 17)) else some (.sepalSub (w.extractLsb' 22 4) (w.extractLsb' 18 4) (w.extractLsb' 13 4))
  | 3 => if bit w 17 then some (.sepalAndImm (w.extractLsb' 22 4) (w.extractLsb' 18 4) (w.extractLsb' 0 17)) else some (.sepalAnd (w.extractLsb' 22 4) (w.extractLsb' 18 4) (w.extractLsb' 13 4))
  | 4 => if bit w 17 then some (.sepalOrImm (w.extractLsb' 22 4) (w.extractLsb' 18 4) (w.extractLsb' 0 17)) else some (.sepalOr (w.extractLsb' 22 4) (w.extractLsb' 18 4) (w.extractLsb' 13 4))
  | 5 => if bit w 17 then some (.sepalXorImm (w.extractLsb' 22 4) (w.extractLsb' 18 4) (w.extractLsb' 0 17)) else some (.sepalXor (w.extractLsb' 22 4) (w.extractLsb' 18 4) (w.extractLsb' 13 4))
  | 6 => if bit w 17 then some (.sepalShlImm (w.extractLsb' 22 4) (w.extractLsb' 18 4) (w.extractLsb' 0 17)) else some (.sepalShl (w.extractLsb' 22 4) (w.extractLsb' 18 4) (w.extractLsb' 13 4))
  | 7 => if bit w 17 then some (.sepalShrImm (w.extractLsb' 22 4) (w.extractLsb' 18 4) (w.extractLsb' 0 17)) else some (.sepalShr (w.extractLsb' 22 4) (w.extractLsb' 18 4) (w.extractLsb' 13 4))
  | 8 => if bit w 17 then some (.sepalMinImm (w.extractLsb' 22 4) (w.extractLsb' 18 4) (w.extractLsb' 0 17)) else some (.sepalMin (w.extractLsb' 22 4) (w.extractLsb' 18 4) (w.extractLsb' 13 4))
  | 9 => if bit w 17 then some (.sepalMaxImm (w.extractLsb' 22 4) (w.extractLsb' 18 4) (w.extractLsb' 0 17)) else some (.sepalMax (w.extractLsb' 22 4) (w.extractLsb' 18 4) (w.extractLsb' 13 4))
  | 10 => some (.sepalMovi (w.extractLsb' 22 4) (w.extractLsb' 0 16))
  | 11 => some (.sepalMovh (w.extractLsb' 22 4) (w.extractLsb' 0 16))
  | 12 => if bit w 16 then some (.sepalCmpImm (w.extractLsb' 24 2) (w.extractLsb' 21 3) (w.extractLsb' 17 4) (w.extractLsb' 0 16)) else some (.sepalCmp (w.extractLsb' 24 2) (w.extractLsb' 21 3) (w.extractLsb' 17 4) (w.extractLsb' 12 4))
  | 16 => if bit w 24 then some (.sepalBrAlways (w.extractLsb' 0 12)) else some (.sepalBr (bit w 25) (w.extractLsb' 22 2) (w.extractLsb' 0 12))
  | 17 => some (.sepalLoop (w.extractLsb' 16 10) (w.extractLsb' 0 12))
  | 18 => some (.sepalDone)
  | 20 => some (.sepalPhl (w.extractLsb' 22 4) (w.extractLsb' 14 4))
  | 21 => some (.sepalPhs (w.extractLsb' 18 4) (w.extractLsb' 14 4))
  | 22 => some (.sepalPkl (w.extractLsb' 22 4) (w.extractLsb' 18 4) (w.extractLsb' 0 14))
  | 23 => some (.sepalPks (w.extractLsb' 18 4) (w.extractLsb' 14 4) (w.extractLsb' 0 14))
  | 24 => some (.sepalFld (w.extractLsb' 22 4) (w.extractLsb' 18 4) (w.extractLsb' 0 14))
  | 25 => some (.sepalFst (w.extractLsb' 18 4) (w.extractLsb' 14 4) (w.extractLsb' 0 14))
  | 26 => some (.sepalFat (w.extractLsb' 22 4) (w.extractLsb' 18 4) (w.extractLsb' 14 4) (w.extractLsb' 0 14))
  | 32 => some (.sepalVld (bit w 25) (w.extractLsb' 22 3) (w.extractLsb' 18 4) (w.extractLsb' 0 14))
  | 33 => some (.sepalVst (bit w 25) (w.extractLsb' 22 3) (w.extractLsb' 18 4) (w.extractLsb' 14 4) (w.extractLsb' 0 14))
  | 34 => some (.sepalVadd (w.extractLsb' 23 3) (w.extractLsb' 20 3) (w.extractLsb' 17 3) (w.extractLsb' 15 2))
  | 35 => some (.sepalVmax (w.extractLsb' 23 3) (w.extractLsb' 20 3) (w.extractLsb' 17 3) (w.extractLsb' 15 2))
  | 36 => some (.sepalVmin (w.extractLsb' 23 3) (w.extractLsb' 20 3) (w.extractLsb' 17 3) (w.extractLsb' 15 2))
  | 37 => some (.sepalVred (w.extractLsb' 22 4) (w.extractLsb' 19 3) (w.extractLsb' 15 2))
  | 38 => if bit w 16 then some (.sepalVcvtDn (w.extractLsb' 23 3) (w.extractLsb' 20 3) (w.extractLsb' 15 1)) else some (.sepalVcvtUp (w.extractLsb' 23 3) (w.extractLsb' 20 3) (w.extractLsb' 15 1))
  | 40 => some (.sepalHash (w.extractLsb' 22 4) (w.extractLsb' 18 4) (w.extractLsb' 13 4))
  | 44 => some (.sepalFwd (w.extractLsb' 18 4))
  | 45 => some (.sepalDrop)
  | 46 => some (.sepalMirr (w.extractLsb' 18 4))
  | 48 => some (.sepalClk (w.extractLsb' 22 4))
  | 49 => some (.sepalTrp (w.extractLsb' 0 8))
  | _ => none

/-- A sepal word: refused when a field its row does not use is non-zero, or its operands break R432 or R434. -/
noncomputable def decodeSepal (w : Word) : Option Instr :=
  match sepalRaw w with
  | some i => if i.wf && i.encode == [w] then some i else none
  | none => none

/-! ## Bytes -/

/-- The decoder on bytes: what the first word decodes to, and the bytes after it. -/
noncomputable def decode (l : List Byte) : Decoded × List Byte := (decodeWord (wordOfBytes l), l.drop 4)

/-- What the decoders read from a 32-bit row of the opcode table. One word can be legal both as a core word and as a sepal
word, and the place it is fetched from decides; here a word whose C and W bits are zero is tried as a core word first, and
any other as a sepal word first (log 15). -/
noncomputable def decodeTableWord (nbits w : Nat) : Option Instr :=
  if nbits = 0 || 32 < nbits then none
  else
    let bs := bytesOfWord (BitVec.ofNat 32 w)
    let core := match (decode bs).1 with
      | .ok i => some i
      | .illegal _ => none
    let sepal := decodeSepal (wordOfBytes bs)
    if BitVec.ofNat 32 w < 0x40000000 then core.or sepal else sepal.or core

end Sys2Proof
end

