-- ==== Sys2Proof/Machine/Fp.lean ====
section
/-! DEFINITION. Number formats and arithmetic (06_number_formats R180-R199): every result is the exact value of the
operation, rounded once. Bit patterns are natural numbers here. -/
namespace Sys2Proof.Machine.Fp

/-- A floating-point format (R180): exponent and fraction widths, bias, whether it has infinities, and whether a NaN of it
can be signalling (R181). -/
structure Fmt where
  eb : Nat
  fb : Nat
  bias : Nat
  inf : Bool
  snan : Bool
  deriving DecidableEq, Repr

/-- binary64. -/
def f64 : Fmt := ⟨11, 52, 1023, true, true⟩
/-- binary32. -/
def f32 : Fmt := ⟨8, 23, 127, true, true⟩
/-- binary16. -/
def h16 : Fmt := ⟨5, 10, 15, true, true⟩
/-- BF16. -/
def bf : Fmt := ⟨8, 7, 127, true, true⟩
/-- E4: no infinities, its only NaNs 0x7F and 0xFF. -/
def e4 : Fmt := ⟨4, 3, 7, false, false⟩
/-- E5: every NaN quiet. -/
def e5 : Fmt := ⟨5, 2, 15, true, false⟩

/-- A value: a NaN (signalling or quiet), an infinity, or sign × m × 2^e. -/
inductive Val
  | nan (sig : Bool)
  | inf (neg : Bool)
  | fin (neg : Bool) (m : Nat) (e : Int)
  deriving DecidableEq, Repr

/-- The rounding modes of R188, in the code order of R241. -/
inductive Mode
  | rn | rz | ru | rd | rns | rzs
  deriving DecidableEq, Repr

/-- The mode of an FCR.RM or RM code (R189, R241). -/
def Mode.ofCode (n : Nat) : Mode :=
  match n with
  | 0 => .rn
  | 1 => .rz
  | 2 => .ru
  | 3 => .rd
  | 4 => .rns
  | _ => .rzs

/-- The flags of R189 in FCR's order: NX, UF, OF, DZ, NV in bits 0 to 4. -/
abbrev Flags := BitVec 5
/-- Inexact. -/
def NX : Flags := 1
/-- Underflow. -/
def UF : Flags := 2
/-- Overflow. -/
def OF : Flags := 4
/-- Division by zero. -/
def DZ : Flags := 8
/-- Invalid operation. -/
def NV : Flags := 16

/-- A result pattern with its flags. -/
structure Res where
  bits : Nat
  flags : Flags := 0
  deriving DecidableEq, Repr

/-- Width of a format in bits. -/
def Fmt.width (F : Fmt) : Nat := 1 + F.eb + F.fb
/-- The sign bit of a pattern. -/
def Fmt.sign (F : Fmt) (neg : Bool) : Nat := if neg then 2 ^ (F.eb + F.fb) else 0
/-- The canonical NaN (R181). -/
def Fmt.cnan (F : Fmt) : Nat :=
  if F.inf then (2 ^ F.eb - 1) * 2 ^ F.fb + 2 ^ (F.fb - 1) else 2 ^ (F.eb + F.fb) - 1
/-- An infinity. -/
def Fmt.infBits (F : Fmt) (neg : Bool) : Nat := F.sign neg + (2 ^ F.eb - 1) * 2 ^ F.fb
/-- The largest finite magnitude (R180, R181), with a sign. -/
def Fmt.maxBits (F : Fmt) (neg : Bool) : Nat :=
  F.sign neg + (if F.inf then (2 ^ F.eb - 1) * 2 ^ F.fb - 1 else 2 ^ (F.eb + F.fb) - 2)
/-- A zero with a sign. -/
def Fmt.zero (F : Fmt) (neg : Bool) : Nat := F.sign neg
/-- Exponent of the lowest bit of a normal number at the smallest exponent. -/
def Fmt.qmin (F : Fmt) : Int := 1 - F.bias - F.fb
/-- The exponent of the lowest bit, and the significand, of the largest finite number. -/
def Fmt.qmax (F : Fmt) : Int := (if F.inf then 2 ^ F.eb - 2 else 2 ^ F.eb - 1 : Nat) - F.bias - F.fb
/-- Significand of the largest finite number. -/
def Fmt.mmax (F : Fmt) : Nat := if F.inf then 2 ^ (F.fb + 1) - 1 else 2 ^ (F.fb + 1) - 2

/-- The value of a pattern (R180, R181). -/
def Fmt.val (F : Fmt) (x : Nat) : Val :=
  let neg := decide (x / 2 ^ (F.eb + F.fb) % 2 = 1)
  let ex := x / 2 ^ F.fb % 2 ^ F.eb
  let fr := x % 2 ^ F.fb
  if ex = 2 ^ F.eb - 1 ∧ F.inf = true then
    if fr = 0 then .inf neg else .nan (F.snan && decide (fr < 2 ^ (F.fb - 1)))
  else if F.inf = false ∧ ex = 2 ^ F.eb - 1 ∧ fr = 2 ^ F.fb - 1 then .nan false
  else if ex = 0 then .fin neg fr (if fr = 0 then 0 else F.qmin)
  else .fin neg (2 ^ F.fb + fr) (ex - F.bias - F.fb : Int)

/-- m / 2^sh (and a little more when `sticky`) rounded to an integer under a mode, and whether that was inexact. -/
def roundInt (mode : Mode) (neg : Bool) (m sh : Nat) (sticky : Bool) : Nat × Bool :=
  let q := m >>> sh
  let rem := m % 2 ^ sh
  let inexact := decide (rem ≠ 0) || sticky
  let up := match mode with
    | .rn | .rns => decide (2 ^ sh < rem * 2) || (decide (rem * 2 = 2 ^ sh) && (sticky || decide (q % 2 = 1)))
    | .rz | .rzs => false
    | .ru => inexact && !neg
    | .rd => inexact && neg
  (if up then q + 1 else q, inexact)

/-- What an overflow gives (R194). -/
def overflow (F : Fmt) (mode : Mode) (neg : Bool) : Nat :=
  let big := if F.inf then F.infBits neg else F.cnan
  match mode with
  | .rn => big
  | .rz | .rns | .rzs => F.maxBits neg
  | .ru => if neg then F.maxBits neg else big
  | .rd => if neg then big else F.maxBits neg

/-- The value sign × m × 2^e (a little more in magnitude when `sticky`) rounded once to a format (R188, R182). When `sticky`,
m has at least two bits more than the format's significand. -/
def round (F : Fmt) (mode : Mode) (neg : Bool) (m : Nat) (e : Int) (sticky : Bool) : Res :=
  if m = 0 then { bits := F.zero neg }
  else
    let top : Int := e + m.log2
    let at_ := fun (q : Int) => if q ≤ e then (m <<< (e - q).toNat, sticky) else roundInt mode neg m (q - e).toNat sticky
    let q := max (top - F.fb) F.qmin
    let r := at_ q
    if q > F.qmax ∨ (q = F.qmax ∧ r.1 > F.mmax) then { bits := overflow F mode neg, flags := OF ||| NX }
    else
      let u := at_ (top - F.fb)
      let tiny := decide (top < 1 - F.bias) && !(decide (u.1 = 2 ^ (F.fb + 1)) && decide (top + 1 = 1 - F.bias))
      { bits := F.sign neg + (q - F.qmin).toNat * 2 ^ F.fb + r.1
        flags := if r.2 then (if tiny then UF ||| NX else NX) else 0 }

/-- The canonical NaN, with NV if asked. -/
def nanRes (F : Fmt) (nv : Bool) : Res := { bits := F.cnan, flags := if nv then NV else 0 }

/-- A value converted to a format: an infinity takes its row of R194, exact when that is the infinity itself (R192). -/
def ofVal (F : Fmt) (mode : Mode) : Val → Res
  | .nan s => nanRes F s
  | .inf n =>
    let r := overflow F mode n
    { bits := r, flags := if F.inf ∧ r = F.infBits n then 0 else OF ||| NX }
  | .fin n m e => round F mode n m e false

/-- Conversions that R192 calls wider, and so exact: E4 or E5 to h, bf, f32, f64; h or bf to f32, f64; f32 to f64. -/
def wider (F G : Fmt) : Bool :=
  (decide (G.width = 8) && decide (8 < F.width)) || (decide (G.width = 16) && decide (16 < F.width)) ||
    (decide (G.width = 32) && decide (F.width = 64))

/-- sign × m as an integer. -/
def signed (neg : Bool) (m : Nat) : Int := if neg then -(m : Int) else m

/-- The exact sum of two finite values, with IEEE 754's sign of an exact zero (R314). -/
def sum2 (F : Fmt) (mode : Mode) (n1 : Bool) (m1 : Nat) (e1 : Int) (n2 : Bool) (m2 : Nat) (e2 : Int) : Res :=
  let e := min e1 e2
  let s := signed n1 (m1 <<< (e1 - e).toNat) + signed n2 (m2 <<< (e2 - e).toNat)
  if s = 0 then
    { bits := F.zero (if m1 = 0 ∧ m2 = 0 ∧ n1 = n2 then n1 else mode = .rd) }
  else round F mode (decide (s < 0)) s.natAbs e false

/-- Whether a value is a signalling NaN. -/
def Val.isSnan : Val → Bool
  | .nan s => s
  | _ => false
/-- Whether a value is a NaN. -/
def Val.isNan : Val → Bool
  | .nan _ => true
  | _ => false
/-- A value with its sign inverted. -/
def Val.neg : Val → Val
  | .nan s => .nan s
  | .inf n => .inf (!n)
  | .fin n m e => .fin (!n) m e

/-- a + b (R314, R191). -/
def add (F : Fmt) (mode : Mode) (a b : Val) : Res :=
  match a, b with
  | .fin n1 m1 e1, .fin n2 m2 e2 => sum2 F mode n1 m1 e1 n2 m2 e2
  | .inf n1, .inf n2 => if n1 = n2 then { bits := F.infBits n1 } else nanRes F true
  | .inf n, .fin .. | .fin .., .inf n => { bits := F.infBits n }
  | _, _ => nanRes F (a.isSnan || b.isSnan)

/-- The exact product of two values, and whether it is invalid (0 × ∞). -/
def mulVal (a b : Val) : Val × Bool :=
  match a, b with
  | .fin n1 m1 e1, .fin n2 m2 e2 => (.fin (n1 != n2) (m1 * m2) (e1 + e2), false)
  | .inf n1, .inf n2 => (.inf (n1 != n2), false)
  | .inf n1, .fin n2 m _ | .fin n1 m _, .inf n2 => if m = 0 then (.nan false, true) else (.inf (n1 != n2), false)
  | _, _ => (.nan (a.isSnan || b.isSnan), false)

/-- a × b. -/
def mul (F : Fmt) (mode : Mode) (a b : Val) : Res :=
  match mulVal a b with
  | (.nan s, inv) => nanRes F (s || inv)
  | (.inf n, _) => { bits := F.infBits n }
  | (.fin n m e, _) => if m = 0 then { bits := F.zero n } else round F mode n m e false

/-- a × b + d, one rounding of the exact value; 0 × ∞ is invalid whatever d holds (R314). -/
def fma (F : Fmt) (mode : Mode) (a b d : Val) : Res :=
  match mulVal a b with
  | (.nan s, inv) => nanRes F (s || inv || d.isSnan)
  | (p, _) => add F mode p d

/-- a / b (R318, R319). -/
def div (F : Fmt) (mode : Mode) (a b : Val) : Res :=
  match a, b with
  | .nan _, _ | _, .nan _ => nanRes F (a.isSnan || b.isSnan)
  | .inf _, .inf _ => nanRes F true
  | .inf n1, .fin n2 _ _ => { bits := F.infBits (n1 != n2) }
  | .fin n1 _ _, .inf n2 => { bits := F.zero (n1 != n2) }
  | .fin n1 m1 e1, .fin n2 m2 e2 =>
    if m2 = 0 then
      if m1 = 0 then nanRes F true else { bits := F.infBits (n1 != n2), flags := DZ }
    else if m1 = 0 then { bits := F.zero (n1 != n2) }
    else
      let k := (m2.log2 + F.fb + 4) - m1.log2
      let num := m1 <<< k
      round F mode (n1 != n2) (num / m2) (e1 - e2 - k) (decide (num % m2 ≠ 0))

/-- The integer square root, one bit at a time from bit `k - 1`. -/
def isqrt (n : Nat) : Nat → Nat → Nat
  | 0, r => r
  | k + 1, r =>
    let c := r + 2 ^ k
    isqrt n k (if c * c ≤ n then c else r)

/-- √a (R318, R319). -/
def sqrt (F : Fmt) (mode : Mode) (a : Val) : Res :=
  match a with
  | .nan s => nanRes F s
  | .inf n => if n then nanRes F true else { bits := F.infBits false }
  | .fin n m e =>
    if m = 0 then { bits := F.zero n }
    else if n then nanRes F true
    else
      let k := 2 * F.fb + 8 + (if (e - (2 * F.fb + 8 : Nat)) % 2 = 0 then 0 else 1)
      let x := m <<< k
      let r := isqrt x (x.log2 / 2 + 1) 0
      round F mode false r ((e - k) / 2) (decide (r * r ≠ x))

/-- 1/√a, nearest (R318, R319). -/
def rsqrt (F : Fmt) (a : Val) : Res :=
  match a with
  | .nan s => nanRes F s
  | .inf n => if n then nanRes F true else { bits := F.zero false }
  | .fin n m e =>
    if m = 0 then { bits := F.infBits n }
    else if n then nanRes F true
    else
      -- m·2^e with e made even; q = ⌊√(2^(2k) / m)⌋
      let m' := if e % 2 = 0 then m else m * 2
      let e' := if e % 2 = 0 then e else e - 1
      let k := m'.log2 + F.fb + 6
      let x := 2 ^ (2 * k) / m'
      let q := isqrt x (k + 1) 0
      round F .rn false q (-e' / 2 - k) (decide (q * q * m' ≠ 2 ^ (2 * k)))

/-- Compare two values that are not NaN. -/
def cmp (a b : Val) : Ordering :=
  match a, b with
  | .inf n1, .inf n2 => if n1 = n2 then .eq else if n1 then .lt else .gt
  | .inf n, _ => if n then .lt else .gt
  | _, .inf n => if n then .gt else .lt
  | .fin n1 m1 e1, .fin n2 m2 e2 =>
    let e := min e1 e2
    compare (signed n1 (m1 <<< (e1 - e).toNat)) (signed n2 (m2 <<< (e2 - e).toNat))
  | _, _ => .eq

/-- Whether a value's sign bit is set. -/
def Val.isNeg : Val → Bool
  | .nan _ => false
  | .inf n => n
  | .fin n _ _ => n

/-- minimumNumber and maximumNumber, −0 below +0 (R315); `x` and `y` are the patterns. -/
def minMax (F : Fmt) (wantMax : Bool) (x y : Nat) : Res :=
  let a := F.val x
  let b := F.val y
  let nv : Flags := if a.isSnan || b.isSnan then NV else 0
  if a.isNan && b.isNan then { bits := F.cnan, flags := nv }
  else if a.isNan then { bits := y, flags := nv }
  else if b.isNan then { bits := x, flags := nv }
  else
    let less := match cmp a b with
      | .lt => true
      | .gt => false
      | .eq => a.isNeg && !b.isNeg
    { bits := if less != wantMax then x else y }

/-- a rounded to an integral value (R315). -/
def rnd (F : Fmt) (mode : Mode) (x : Nat) : Res :=
  match F.val x with
  | .nan s => nanRes F s
  | .inf _ => { bits := x }
  | .fin n m e =>
    if 0 ≤ e ∨ m = 0 then { bits := x }
    else
      let r := roundInt mode n m (-e).toNat false
      { bits := (round F .rz n r.1 0 false).bits, flags := if r.2 then NX else 0 }

/-- FCLASS (R320): one bit of [9:0]. -/
def classify (F : Fmt) (x : Nat) : Nat :=
  match F.val x with
  | .nan s => if s then 2 ^ 8 else 2 ^ 9
  | .inf n => if n then 1 else 2 ^ 7
  | .fin n m e =>
    if m = 0 then (if n then 2 ^ 3 else 2 ^ 4)
    else if m < 2 ^ F.fb ∧ e = F.qmin then (if n then 2 ^ 2 else 2 ^ 5)
    else (if n then 2 else 2 ^ 6)

/-! ## Conversion (R192-R194) -/

/-- An integer type: signed, and width (R183). -/
structure IFmt where
  sg : Bool
  w : Nat
  deriving DecidableEq, Repr

/-- Lowest and highest value. -/
def IFmt.lo (I : IFmt) : Int := if I.sg then -(2 ^ (I.w - 1) : Nat) else 0
/-- Highest value. -/
def IFmt.hi (I : IFmt) : Int := (2 ^ (if I.sg then I.w - 1 else I.w) : Nat) - 1
/-- The integer a pattern stands for. -/
def IFmt.val (I : IFmt) (x : Nat) : Int :=
  if I.sg ∧ 2 ^ (I.w - 1) ≤ x then (x : Int) - (2 ^ I.w : Nat) else x
/-- The pattern of an integer, modulo 2^w. -/
def IFmt.bits (I : IFmt) (x : Int) : Nat := (x % (2 ^ I.w : Nat)).toNat
/-- Saturate to the nearest bound; NV if that changes the value (R192). -/
def IFmt.sat (I : IFmt) (x : Int) (inexact : Bool) : Res :=
  if x < I.lo then { bits := I.bits I.lo, flags := NV }
  else if I.hi < x then { bits := I.bits I.hi, flags := NV }
  else { bits := I.bits x, flags := if inexact then NX else 0 }

/-- The types of R237 that compute: floating point or integer. -/
inductive Ty
  | flt (F : Fmt)
  | int (I : IFmt)
  deriving DecidableEq, Repr

/-- The type of a code (R237); codes 14 and 15 name none. -/
def Ty.ofCode (n : Nat) : Option Ty :=
  match n with
  | 0 => some (.int ⟨true, 32⟩)
  | 1 => some (.int ⟨false, 32⟩)
  | 2 => some (.int ⟨true, 64⟩)
  | 3 => some (.int ⟨false, 64⟩)
  | 4 => some (.flt f32)
  | 5 => some (.flt f64)
  | 6 => some (.flt h16)
  | 7 => some (.flt bf)
  | 8 => some (.flt e4)
  | 9 => some (.flt e5)
  | 10 => some (.int ⟨true, 8⟩)
  | 11 => some (.int ⟨false, 8⟩)
  | 12 => some (.int ⟨true, 16⟩)
  | 13 => some (.int ⟨false, 16⟩)
  | _ => none

/-- Width of a type in bits. -/
def Ty.width : Ty → Nat
  | .flt F => F.width
  | .int I => I.w

/-- CVT and every conversion under its rules. -/
def convert (to_ src : Ty) (mode : Mode) (x : Nat) : Res :=
  match to_, src with
  | .flt F, .flt G =>
    match G.val x with
    | .nan s => nanRes F s
    | v => if F = G then { bits := x } else ofVal F (if wider F G then .rn else mode) v
  | .flt F, .int I =>
    let v := I.val x
    round F mode (decide (v < 0)) v.natAbs 0 false
  | .int I, .flt G =>
    match G.val x with
    | .nan _ => { bits := 0, flags := NV }
    | .inf n => { bits := I.bits (if n then I.lo else I.hi), flags := NV }
    | .fin n m e =>
      if 0 ≤ e then I.sat (signed n (m <<< e.toNat)) false
      else
        let r := roundInt mode n m (-e).toNat false
        I.sat (signed n r.1) r.2
  | .int I, .int J => I.sat (J.val x) false

/-! ## Exact accumulation (R195-R198) -/

/-- Exact sum of finite addends at a common exponent. -/
def sumAt (e : Int) : List Val → Int
  | [] => 0
  | .fin n m x :: r => signed n (m <<< (x - e).toNat) + sumAt e r
  | _ :: r => sumAt e r

/-- Least exponent among finite non-zero addends. -/
def minExp : List Val → Int
  | [] => 0
  | .fin _ m x :: r => if m = 0 then minExp r else min x (minExp r)
  | _ :: r => minExp r

/-- The accumulator plus every product, formed exactly and rounded once to f32 under RN, with the flags that binary32
addition of the exact sum would set (R195, R196, R198). `inv` says that some product was 0 × ∞. -/
def accumulate (addends : List Val) (inv : Bool) : Res :=
  let pos := addends.contains (.inf false)
  let negi := addends.contains (.inf true)
  if inv || addends.any Val.isNan || (pos && negi) then
    nanRes f32 (inv || addends.any Val.isSnan || (!addends.any Val.isNan && pos && negi))
  else if pos then { bits := f32.infBits false }
  else if negi then { bits := f32.infBits true }
  else
    let e := minExp addends
    let s := sumAt e (addends.filter (fun v => match v with | .fin _ m _ => decide (m ≠ 0) | _ => true))
    if s = 0 then { bits := f32.zero (addends.all Val.isNeg) }
    else round f32 .rn (decide (s < 0)) s.natAbs e false

/-- One k-step on f32: accumulator pattern and operand pairs of a format. -/
def dotStep (F : Fmt) (acc : Nat) (ps : List (Nat × Nat)) : Res :=
  let prods := ps.map (fun p => mulVal (F.val p.1) (F.val p.2))
  accumulate (f32.val acc :: prods.map Prod.fst) (prods.any Prod.snd)

/-! ## Merge arithmetic (R77) -/

/-- a + b of two patterns, rounded to nearest, no flag; −0 only for −0 + −0. -/
def addBits (F : Fmt) (x y : Nat) : Nat := (add F .rn (F.val x) (F.val y)).bits

/-! ## Transcendental functions (R318), as fixed-point values with `P` fraction bits and a last-place error far below what
decides a rounding to f32 -/

/-- Fraction bits kept. -/
def P : Nat := 320

/-- Σ over odd k of (±1)^i z^k / k in fixed point, with z2 = ±z²: `alt` gives arctan, else artanh. -/
def oddSeries (alt : Bool) (z2 : Nat) : Nat → Nat → Nat → Int
  | 0, _, _ => 0
  | fuel + 1, t, k =>
    if t = 0 then 0
    else
      let r := oddSeries alt z2 fuel ((t * z2) >>> P) (k + 2)
      (t / k : Nat) + (if alt then -r else r)

/-- artanh of a fixed-point value below 1/2. -/
def artanh (z : Nat) : Nat := (oddSeries false ((z * z) >>> P) 340 z 1).toNat
/-- arctan of 1/n. -/
def arctanInv (n : Nat) : Int := let z := 2 ^ P / n; oddSeries true ((z * z) >>> P) 340 z 1
/-- π. -/
def pi : Nat := (16 * arctanInv 5 - 4 * arctanInv 239).toNat
/-- ln 2 = 2 artanh(1/3). -/
def ln2 : Nat := 2 * artanh (2 ^ P / 3)

/-- Σ over k ≥ 0 of t^k / k! in fixed point, from term `x` at index `k`. -/
def expSeries (t : Nat) : Nat → Nat → Nat → Nat
  | 0, _, _ => 0
  | fuel + 1, x, k => if x = 0 then 0 else x + expSeries t fuel (((x * t) >>> P) / (k + 1)) (k + 1)

/-- Σ of (−1)^i x·t2^i / ((k+1)(k+2)…) in fixed point: sine from (t, 1), cosine from (1, 0). -/
def trigSeries (t2 : Nat) : Nat → Nat → Nat → Int
  | 0, _, _ => 0
  | fuel + 1, x, k => if x = 0 then 0 else (x : Int) - trigSeries t2 fuel (((x * t2) >>> P) / ((k + 1) * (k + 2))) (k + 2)

/-- A finite value as a fixed-point integer with `P` fraction bits (exact for every f32). -/
def fixed (n : Bool) (m : Nat) (e : Int) : Int :=
  let x := e + P
  signed n (if 0 ≤ x then m <<< x.toNat else m >>> (-x).toNat)

/-- 2^a, nearest (R318, R319). -/
def exp2 (a : Val) : Res :=
  match a with
  | .nan s => nanRes f32 s
  | .inf n => { bits := if n then f32.zero false else f32.infBits false }
  | .fin n m e =>
    -- beyond these magnitudes the result overflows or is below half the least subnormal, whatever the fraction is
    if 9 ≤ e + m.log2 ∧ m ≠ 0 then
      if n then round f32 .rn false (2 ^ 30) (-230) true else { bits := f32.infBits false, flags := OF ||| NX }
    else
      let x := fixed n m e
      let i := x / (2 ^ P : Nat)
      let f := (x % (2 ^ P : Nat)).toNat
      if f = 0 then round f32 .rn false 1 i false
      else round f32 .rn false (expSeries ((f * ln2) >>> P) 400 (2 ^ P) 0) (i - P) true

/-- log₂ a, nearest (R318, R319). -/
def log2 (a : Val) : Res :=
  match a with
  | .nan s => nanRes f32 s
  | .inf n => if n then nanRes f32 true else { bits := f32.infBits false }
  | .fin n m e =>
    if m = 0 then { bits := f32.infBits true, flags := DZ }
    else if n then nanRes f32 true
    else
      let k : Int := e + m.log2
      let x := m <<< (P - m.log2)
      if x = 2 ^ P then
        if k = 0 then { bits := f32.zero false } else round f32 .rn (decide (k < 0)) k.natAbs 0 false
      else
        let z := ((x - 2 ^ P) <<< P) / (x + 2 ^ P)
        let l := ((2 * artanh z) <<< P) / ln2
        let v := k * (2 ^ P : Nat) + l
        round f32 .rn (decide (v < 0)) v.natAbs (-P) true

/-- Sine of an angle of r eighth-turns-and-below in fixed-point turns, 0 ≤ r ≤ 1/8. -/
def sinTurn (r : Nat) : Nat := let t := (2 * r * pi) >>> P; (trigSeries ((t * t) >>> P) 200 t 1).toNat
/-- Cosine, 0 ≤ r ≤ 1/8. -/
def cosTurn (r : Nat) : Nat := let t := (2 * r * pi) >>> P; (trigSeries ((t * t) >>> P) 200 (2 ^ P) 0).toNat

/-- sin 2πr for a fixed-point fraction of a turn: the exact multiples of a quarter turn are exact (R319). -/
def sinFrac (r : Nat) : Res :=
  let q := 2 ^ P / 4
  let quad := r / q
  let x := r % q
  let neg := decide (2 ≤ quad)
  if x = 0 then
    if quad % 2 = 0 then { bits := f32.zero false } else round f32 .rn neg 1 0 false
  else
    -- second and fourth quadrant run backwards
    let y := if quad % 2 = 0 then x else q - x
    let v := if y ≤ 2 ^ P / 8 then sinTurn y else cosTurn (q - y)
    round f32 .rn neg v (-P) true

/-- sin 2πa, nearest (R318, R319). -/
def sin (x : Nat) : Res :=
  match f32.val x with
  | .nan s => nanRes f32 s
  | .inf _ => nanRes f32 true
  | .fin n m e =>
    if m = 0 then { bits := x }
    else if 0 ≤ e then { bits := f32.zero false }
    else sinFrac (fixed n m e % (2 ^ P : Nat)).toNat

/-- cos 2πa, nearest (R318, R319). -/
def cos (x : Nat) : Res :=
  match f32.val x with
  | .nan s => nanRes f32 s
  | .inf _ => nanRes f32 true
  | .fin n m e =>
    if m = 0 ∨ 0 ≤ e then round f32 .rn false 1 0 false
    else sinFrac ((fixed n m e + (2 ^ P / 4 : Nat)) % (2 ^ P : Nat)).toNat

end Sys2Proof.Machine.Fp
end

