-- ==== Sys2Proof/Machine/AtOps.lean ====
section
/-! DEFINITION. The operators of atomics, reductions, merges and bank adders (R77, R82, R288). -/
namespace Sys2Proof.Machine

/-- A signed reading of the low 32 or all 64 bits. -/
def sOf (wide : Bool) (v : DWord) : Int := if wide then v.toInt else (v.truncate 32).toInt
/-- An unsigned reading. -/
def uOf (wide : Bool) (v : DWord) : Nat := if wide then v.toNat else (v.truncate 32).toNat
/-- The low 32 or all 64 bits. -/
def cut (wide : Bool) (v : DWord) : DWord := if wide then v else (v.truncate 32).zeroExtend 64

/-- Two BF16 halves added (R77). -/
def addBf2 (a b : Nat) : Nat :=
  Fp.addBits Fp.bf (a % 65536) (b % 65536) + 65536 * Fp.addBits Fp.bf (a / 65536 % 65536) (b / 65536 % 65536)

/-- The value an operator writes (R288): none when a CAS fails to compare. `swap` is CAS's second operand. -/
def atomNew (op : AtOp) (wide : Bool) (old b swap : DWord) : Option DWord :=
  let o := cut wide old
  let b := cut wide b
  match op with
  | .add => some (cut wide (o + b))
  | .minS => some (if sOf wide o ≤ sOf wide b then o else b)
  | .minN => some (if uOf wide o ≤ uOf wide b then o else b)
  | .maxS => some (if sOf wide b ≤ sOf wide o then o else b)
  | .maxN => some (if uOf wide b ≤ uOf wide o then o else b)
  | .and => some (o &&& b)
  | .or => some (o ||| b)
  | .xor => some (o ^^^ b)
  | .exch => some b
  | .cas => if o = b then some (cut wide swap) else none
  | .faddF32 => some (BitVec.ofNat 64 (Fp.addBits Fp.f32 o.toNat b.toNat))
  | .faddF64 => some (BitVec.ofNat 64 (Fp.addBits Fp.f64 o.toNat b.toNat))
  | .faddBf2 => some (BitVec.ofNat 64 (addBf2 o.toNat b.toNat))

/-- An operator that always writes, as RED and merges use it. -/
def redNew (op : AtOp) (wide : Bool) (old b : DWord) : DWord := (atomNew op wide old b b).getD old

/-- The UOP code of a reduction (R69, R291); the others are applied at the home (R78). -/
def redUop (r : RedOp) : Option Nat :=
  match r.op with
  | .add => some (if r.wide then 1 else 0)
  | .faddF32 => some 2
  | .faddF64 => some 3
  | .faddBf2 => some 4
  | _ => none

/-- The reduction of a UOP code. -/
def redOfUop (n : Nat) : RedOp :=
  match n with
  | 0 => ⟨.add, false⟩
  | 1 => ⟨.add, true⟩
  | 2 => ⟨.faddF32, false⟩
  | 3 => ⟨.faddF64, true⟩
  | _ => ⟨.faddBf2, false⟩

/-- A bank adder's operator on the word an element lands in (R82). -/
def bankNew (code : Nat) (old v : Nat) : Nat :=
  match code with
  | 1 => (old + v) % 2 ^ 32
  | 2 => Fp.addBits Fp.f32 old v
  | 3 => addBf2 old v
  | 4 => (Fp.minMax Fp.f32 true old v).bits
  | 5 => (Fp.minMax Fp.f32 false old v).bits
  | 6 => if (BitVec.ofNat 32 v).toInt ≤ (BitVec.ofNat 32 old).toInt then old else v
  | 7 => if (BitVec.ofNat 32 old).toInt ≤ (BitVec.ofNat 32 v).toInt then old else v
  | _ => v

end Sys2Proof.Machine
end

