-- ==== Sys2Proof/Config.lean ====
section
/-! DEFINITION. What the manual leaves open: every constant here is opaque, so that no proof can rest on its value. -/
namespace Sys2Proof.Config

/-- What a read of a pending or dead register gives (R233, R234), for the step number, the thread's key and the register. -/
opaque freeRead : Nat → Nat → Nat → Word
/-- A free value for each number the step draws from `State.fresh`; used where the manual says "unspecified" of a word. -/
opaque freeWord : Nat → Word
/-- Arithmetic-clock cycles that pass within a step beyond the one the model counts (R279: the clock only rises). -/
opaque freeCycles : Nat → Nat
/-- Storage size of a collective's result as the device takes it at arm, before any record names it: job and COLLID (R416). -/
opaque resultSize : Nat → Nat → Nat
/-- Which of a full L1 set's lines gives way, by the step number and the line that needs room: R55 names no order (log 84). -/
opaque l1Way : Nat → Nat → Nat
/-- How many tiles ahead a TWE has translated, up to 32, by the step number (R30, log 99). -/
opaque walkDepth : Nat → Nat
/-- Whether a VST adds its YB to its base: R436 forms every address as ya + off, and the row of VST in R434 says that YA and YB name
the base (log 18). -/
opaque vstIndexed : Bool
/-- SHA-256 (R449, R450): the manual names the hash and does not define it. -/
opaque sha256 : List Byte → BitVec 256
/-- RSA-3072 RSASSA-PSS verification against the fused vendor key: image bytes and the 384-byte signature (R449, R451). -/
opaque vendorVerify : List Byte → List Byte → Bool
/-- The identity key's signature over bytes 0x000-0x0FF of an attestation report, byte by byte (R450). -/
opaque identitySign : List Byte → Nat → Byte
/-- The keeper's own measured SHA-256 (R450), and the keeper image's check at power-on (R449 step 1). -/
opaque keeperHash : BitVec 256
/-- Whether the boot ROM's check of the keeper image passes (R449 step 1). -/
opaque keeperImageGood : Nat → Bool
/-- The mean occupancy of the inter-die link queues over an epoch, in the unit of PQMAX, 1/256 (R48 row 1; log 12). -/
opaque linkOccupancy : Nat → BitVec 8

/-- The arithmetic clock after `n` steps: it rises with every step and by an amount the manual does not fix. -/
def clockAt : Nat → Nat
  | 0 => 0
  | n + 1 => clockAt n + 1 + freeCycles n

end Sys2Proof.Config
end

