-- ==== Sys2Proof/Machine/State.lean ====
section
/-! DEFINITION. The state of one Tredon package as plain data, its reasons to stop, and the state after reset. -/
namespace Sys2Proof.Machine

/-- A memory: bytes by address, an unlisted byte reads as zero (R69 for device memory; log 13 for host memory). -/
abbrev Memory := Tbl Byte

/-- The canonical form of a memory. -/
abbrev Memory.wf (m : Memory) : Bool := Tbl.wf (0 : Byte) m

/-- A fault record (R380): the layout of trap records and of both fault queues. -/
structure FaultRec where
  code : Nat := 0
  sub : Nat := 0
  precise : Bool := false
  exited : Bool := false
  recoverable : Bool := false
  killed : Bool := false
  tid : Nat := 0
  va : DWord := 0
  pc : DWord := 0
  regionPc : DWord := 0
  task : Nat := 0
  peer : Nat := 0
  lseq : Nat := 0
  asid : Nat := 0
  token : Nat := 0
  deriving DecidableEq, Repr

/-- What a lane's access asks for: the kinds of R389 and of R24 order 7. -/
inductive Access
  | read | write | atomic | fetch
  deriving DecidableEq, Repr

/-- A trap as an instruction raises it: code and subcode (R246), VALO:VAHI and PEER of the record. -/
structure TrapInfo where
  code : Nat
  sub : Nat
  va : DWord := 0
  peer : Nat := 0
  deriving DecidableEq, Repr

/-- What a thread waits for before its word is tried again: nothing of the word has taken effect. -/
inductive Retry
  /-- MIG = 1 at the leaf of this page of an address space (R50). -/
  | mig (asid page : Nat)
  /-- A REMAP pass in flight on this layout state (R135). -/
  | remap (lay : Nat)
  /-- An ATS translation of a host page for an address space (R27, R33). -/
  | ats (asid pasid page : Nat)
  /-- A saved task whose part the access reaches (R396). -/
  | task (key : Nat)
  /-- The thread's earlier remote operations, which a release RATOM follows (R139). -/
  | remote
  deriving DecidableEq, Repr

/-- Why a lane does not complete a word: a trap, a PAGE fault, or a wait after which the word is tried again. -/
inductive Stop
  | trap (t : TrapInfo)
  | page (va : DWord) (sub : Nat) (kind : Access)
  | retry (r : Retry)
  deriving DecidableEq, Repr

/-- The name of a lock (R91): domain, ASID, level, record VA or line VA, tile id. -/
structure LockName where
  domain : Nat
  asid : Nat
  level : Nat
  va : Nat
  sub : Nat
  deriving DecidableEq, Repr

/-- A lock request: what LKACQ and LKUPG ask for once their operands have been checked (R305). -/
structure LockReq where
  name : LockName
  mode : Nat
  upgrade : Bool
  home : Nat
  parent : Option LockName
  line : Option Nat
  h : Nat
  pc : DWord
  /-- The domain's LKCFG when the request arrived (R99). -/
  cfg : DWord
  /-- The step in which the request arrived (R103). -/
  at_ : Nat
  deriving DecidableEq, Repr

/-- The waits of R222. -/
inductive Wait
  /-- JOIN or a lane collective on mask `k` (R206). -/
  | phase (k : Nat)
  /-- WAITK (R206). -/
  | waitk (k : Nat)
  /-- BWAIT on the object at `off` while PHASE = `ph`, to register `h` (R304). -/
  | bwait (off ph h : Nat)
  /-- MWAIT at `pc`: while equal (`eq`) or not equal to `b`, to pair `d` (R293); with `any`, after a restore, until its next read
  (R294). -/
  | mwait (pc va : DWord) (eq : Bool) (b : DWord) (d : Nat) (any : Bool)
  /-- SIGW at `pc` with threshold `th`, to pair `d` (R386). -/
  | sigw (pc va th : DWord) (d : Nat)
  /-- LDQ of `n` registers from `d` on channel `ch`, issued at step `at_` (R218, R286). -/
  | ldq (ch n d at_ : Nat)
  /-- STQ of these words on channel `ch`, issued at step `at_` (R218, R286). -/
  | stq (ch : Nat) (ws : List Word) (at_ : Nat)
  /-- A lock request that waits; its status goes to `h` (R107). -/
  | lock (n : LockName) (h : Nat)
  /-- A request held behind another thread's request of the same task on the same lock (R107). -/
  | lockHeld (r : LockReq)
  /-- LKRALL until every home agent has released (R306). -/
  | lkrall
  /-- XSUCC with the successor's record (R212). -/
  | xsucc (va : DWord)
  /-- TAIL until the tracker has room (R210). -/
  | tracker
  /-- LAUNCH at `pc` until ring `q` has room (R387). -/
  | launch (q : Nat) (pc va : DWord) (d : Nat)
  /-- RFENCE (R140). -/
  | rfence
  /-- RATOM at `pc` with this operation number, to pair `d`, an acquire or not, of peer-window address `p` (R404). -/
  | ratom (op d : Nat) (acq : Bool) (pc p : DWord)
  /-- SKREL of a slot until its contexts are done (R428). -/
  | skrel (slot h : Nat)
  /-- PAGE under a token; the trap it becomes on FAIL (R389). -/
  | page (token : Nat) (t : TrapInfo)
  /-- A deferred-lane trap that waits for the task's other threads (R376). -/
  | deferred (t : TrapInfo)
  /-- The word is tried again once this clears. -/
  | retry (r : Retry)
  deriving DecidableEq, Repr

/-- Where a thread stands. -/
inductive Status
  | ready
  /-- YIELD has withdrawn it for 16 cycles (R277). -/
  | yielded
  | parked (w : Wait)
  /-- EXIT has issued and outstanding work completes (R210). -/
  | exiting
  | ended
  deriving DecidableEq, Repr

/-- What the words of an issue group read: the registers as they stood before the group (R232). -/
structure OldRegs where
  regs : Tbl Word
  flags : BitVec 7
  fcr : Word
  dead : BitVec 64
  pend : List (List (Nat × Word))
  deriving DecidableEq, Repr

/-- A thread (R200, R214). -/
structure Thread where
  task : Nat := 0
  tid : Nat := 0
  pc : DWord := 0
  regionPc : DWord := 0
  /-- g0-g63; an unlisted register holds zero (R214). -/
  regs : Tbl Word := []
  /-- f0-f6; f7 reads 1 (R227). -/
  flags : BitVec 7 := 0
  fcr : Word := 0
  /-- Registers whose last use has been read (R234). -/
  dead : BitVec 64 := 0
  /-- Registers live into the current region; a rollback keeps them, their frees being deferred (R234, R388). -/
  liveIn : BitVec 64 := BitVec.allOnes 64
  /-- Variable-latency results that have not returned, oldest first (R233). -/
  pend : List (List (Nat × Word)) := []
  status : Status := .ready
  handler : Bool := false
  trapRec : FaultRec := {}
  /-- Asynchronous traps pending: STORE records oldest first (R391). -/
  stores : List FaultRec := []
  /-- A WOUND trap is pending (R106), with REGIONPC when it arose (R380). -/
  wound : Option DWord := none
  triggered : Bool := false
  /-- The step in which it last issued or became ready (R202). -/
  since : Nat := 0
  /-- A region boundary has been passed at which asynchronous traps have not been looked for yet (R391). -/
  boundary : Bool := false
  /-- The current word has transferred control (R228). -/
  jumped : Bool := false
  /-- FCR.RM at the region's entry, to which a rollback returns it (R190). -/
  regionRm : BitVec 2 := 0
  /-- Set while a chained group issues. -/
  old : Option OldRegs := none
  /-- Where the CTL word of its issue group leaves it, while the wait of another word of the group goes on (log 27). -/
  second : Option Status := none
  /-- Remote operations issued and not complete (R140). -/
  remote : List Nat := []
  deriving DecidableEq, Repr

/-- What a member supplies at a lane collective (R206, R270-R272, R295). -/
structure LaneOperand where
  a : Word := 0
  b : Word := 0
  key : DWord := 0
  flag : Bool := false
  dst : Nat := 0
  dst2 : Nat := 0
  pc : DWord := 0
  deriving DecidableEq, Repr

/-- The hidden phase state of a mask (R205): ARRIVED, KIND, the operands, and the progress of a suspended stream (R296). -/
structure Phase where
  arrived : Word := 0
  kind : Nat := 0
  ops : Tbl LaneOperand := []
  rank : Nat := 0
  susp : Option (Nat × TrapInfo) := none
  deriving DecidableEq, Repr

/-- Where a task stands. -/
inductive TaskStatus
  | resident
  /-- A pre-emption has stopped its issue (R392). -/
  | saving
  | saved
  /-- Its last thread has ended (R211). -/
  | ended
  /-- An XSUCC has ended it and the successor waits for registers (R212). -/
  | succeeding
  deriving DecidableEq, Repr

/-- The successor record of XSUCC (R212). -/
structure Successor where
  entry : DWord
  threads : Nat
  regs : Nat
  arg : DWord
  deriving DecidableEq, Repr

/-- The MX configuration (R328). -/
structure MxConfig where
  opt : Nat
  apitch : Nat
  bpitch : Nat
  cpitch : Nat
  deriving DecidableEq, Repr

/-- Tile memory of a core and its MXGO report (R326, R337): elements at key 128 × row + column. -/
structure Tmem where
  lease : Option Nat := none
  config : Option MxConfig := none
  active : Tbl (BitVec 16) := []
  shadow : Tbl (BitVec 16) := []
  acc0 : Tbl Word := []
  acc1 : Tbl Word := []
  p : Word := 0
  done : Bool := false
  error : Bool := false
  status : Nat := 0
  deriving DecidableEq, Repr

/-- A task (R200). -/
structure Task where
  /-- AGE, which also names the task (R101). -/
  age : Nat := 0
  lseq : Nat := 0
  /-- Its launch sequence number at dispatch, which a successor keeps as LAUNCHID (R213). -/
  launch : Nat := 0
  stage : Nat := 0
  num : Nat := 0
  x : Nat := 0
  y : Nat := 0
  z : Nat := 0
  func : Nat := 0
  asid : Nat := 0
  /-- CORE, the logical core, and the physical core it is on. -/
  core : Nat := 0
  phys : Nat := 0
  threads : Nat := 1
  regs : Nat := 64
  strict : Bool := false
  access : Bool := false
  spmBase : Nat := 0
  spmSize : Nat := 0
  spm : Memory := []
  trapLo : Word := 0
  trapHi : Word := 0
  wounded : Bool := false
  /-- The grace timer runs (R105). -/
  grace : Bool := false
  /-- Tensor table: handle to layout state (R45, R157). -/
  handles : Tbl Nat := []
  /-- k0-k11 of posy q at key 12q + k (R205). -/
  masks : Tbl Word := []
  phases : Tbl Phase := []
  /-- Write pointers of the copy channels the task has bound (R287). -/
  wps : Tbl Nat := []
  xsucc : Option Successor := none
  killed : Bool := false
  status : TaskStatus := .resident
  /-- Fills held while it is saved: SPM offset, byte (R393). -/
  held : List (Nat × Byte) := []
  heldCounts : List (Nat × Nat × Bool) := []
  /-- Its tile memory while it is saved with the lease (R395). -/
  savedTmem : Option Tmem := none
  /-- SPM offsets of barrier objects whose fields the device keeps: BINIT has written them and no other access has (R299). -/
  bars : List Nat := []
  /-- Ages of the tasks it succeeds (R213). -/
  earlier : List Nat := []
  deriving DecidableEq, Repr

/-- A launch record read by the device (R360). -/
structure LaunchRec where
  stages : Nat := 1
  entry : List DWord := [0]
  kind : List Bool := [false]
  threads : List Nat := [1]
  regs : List Nat := [64]
  nchan : Nat := 0
  chmap : List (Nat × Nat) := []
  gridx : Nat := 1
  gridy : Nat := 1
  gridz : Nat := 1
  scratch : Nat := 0
  coresLog2 : Nat := 0
  cls : Nat := 0
  donate : Bool := false
  inorder : Bool := false
  strict : Bool := false
  poruf : Bool := false
  doneSig : DWord := 0
  doneDec : DWord := 0
  trigSig : DWord := 0
  deps : List (DWord × DWord) := []
  collid : Nat := 0
  collop : Nat := 0
  result : Nat := 0
  chunkmap : DWord := 0
  group : DWord := 0
  ovf : DWord := 0
  arg : DWord := 0
  deriving DecidableEq, Repr

/-- The peer-group descriptor of a launch (R414). -/
structure Group where
  log2n : Nat
  self : Nat
  win : Nat
  jobkey : Word
  slot : Nat
  sepv : Bool
  members : List Nat
  deriving DecidableEq, Repr

/-- A stage channel (R217, R225): entries oldest first; those past the hardware queue are in the overflow part. -/
structure Chan where
  entries : List (List Word) := []
  overflowing : Bool := false
  /-- Its fill summed over the cycles of the present window, up to the clock count `at_` (R369). -/
  sum : Nat := 0
  at_ : Nat := 0
  deriving DecidableEq, Repr

/-- The fields of a tensor record that the device keeps (R148). -/
structure TRec where
  etype : Nat := 4
  rank : Nat := 1
  n : Nat := 1
  trim : Bool := false
  fill : Bool := false
  strict : Bool := false
  laneb : Nat := 0
  coreb : Nat := 0
  dieb : Nat := 0
  peerb : Nat := 0
  ext : List Nat := [1]
  tilemask : BitVec 48 := 0
  base : Nat := 0
  spm : Bool := false
  stage : Nat := 0
  sv : Bool := false
  fillval : DWord := 0
  deriving DecidableEq, Repr

/-- A collective that this member has armed (R416-R418). -/
structure Coll where
  /-- Its receive counters, one for each step, and the first byte of its staging, once they are reserved (R416). -/
  reserved : Bool := false
  counters : List Nat := []
  base : Nat := 0
  /-- Steps of its ready exchange whose message has been sent (R89, R416). -/
  told : Nat := 0
  /-- The result record, once a task has ended with it; the tasks that have ended. -/
  result : Option TRec := none
  tasks : List Nat := []
  /-- Exchange step reached per chunk; the (chunk, step) pairs whose value has been sent. -/
  step : Tbl Nat := []
  sent : List (Nat × Nat) := []
  /-- The pieces that have arrived: step, local address, number of bytes sent, and the bytes delivered (R417). -/
  got : List (Nat × Nat × Nat × List Byte) := []
  failed : Bool := false
  finished : Bool := false
  deriving DecidableEq, Repr

/-- A ready message of a collective: job, COLLID, the member's peer id, and the counter that the member has reserved for the step in
which the two are partners (R416, R417, log 62). -/
structure Ready where
  job : Nat
  id : Nat
  member : Nat
  counter : Nat
  deriving DecidableEq, Repr

/-- A task placed on a logical core that waits for admission (R367). -/
structure WaitTask where
  num : Nat
  stage : Nat
  core : Nat
  phys : Nat
  deriving DecidableEq, Repr

/-- A dispatched launch. -/
structure Launch where
  lseq : Nat := 0
  q : Nat := 0
  func : Nat := 0
  asid : Nat := 0
  rcd : LaunchRec := {}
  /-- Physical core of each logical core (R366, R396). -/
  cores : List Nat := [0]
  pinned : Bool := false
  /-- The EXEC stage each logical core serves (R368). -/
  serves : List Nat := []
  chans : Tbl Chan := []
  waiting : List WaitTask := []
  /-- Tasks whose resources have been freed (R215). -/
  done : Nat := 0
  triggeredTasks : List Nat := []
  trigDone : Bool := false
  killed : Bool := false
  group : Option Group := none
  coll : Option Coll := none
  /-- Logical cores that move to another stage, and that stage, while they still run tasks of the old one (R369). -/
  moved : List (Nat × Nat) := []
  /-- Clock count at which the present window of R369 began. -/
  window : Nat := 0
  /-- RROTs issued so far on each physical core (R308). -/
  rrots : Tbl Nat := []
  /-- Cores of the map from which every task has been saved while the launch used no other (R396). -/
  emptied : List Nat := []
  deriving DecidableEq, Repr

/-- A launch whose slot the device holds (R362, R363). -/
structure Pending where
  q : Nat
  count : Nat
  rcd : LaunchRec
  group : Option Group
  /-- Checked at the arbiter (R361). -/
  ready : Bool
  /-- Dependences found met (R363). -/
  met : List Bool
  coll : Option Coll
  deriving DecidableEq, Repr

/-- State of a word in an L1 (R56); INV is no entry. -/
inductive L1St
  | shr | pnd | own | par
  deriving DecidableEq, Repr

/-- A word held in an L1. -/
structure L1Word where
  st : L1St
  val : Word
  deriving DecidableEq, Repr

/-- The store that an outstanding registration or a retirement-tracker entry belongs to (R210, R284); `seq` tells apart the
stores that one word makes. -/
structure TrackEntry where
  seq : Nat
  task : Nat
  tid : Nat
  num : Nat
  lseq : Nat
  func : Nat
  asid : Nat
  pc : DWord
  regionPc : DWord
  va : DWord
  deriving DecidableEq, Repr

/-- What one store writes to a word that is being registered: its bytes and their mask. -/
structure Put where
  src : TrackEntry
  mask : BitVec 4
  val : Word
  deriving DecidableEq, Repr

/-- A registration on its way (R58): word address, byte mask of a narrow store, accepted but not acknowledged, what each of the
stores that it registers writes, the first one's first, and the word's value before it was accepted. -/
structure Reg where
  word : Nat
  mask : BitVec 4
  accepted : Bool
  puts : List Put
  old : Word := 0
  deriving DecidableEq, Repr

/-- A store to host memory on its way to the I/O-switch die, which issues a core's writes in order (R63). -/
structure HostWrite where
  core : Nat
  addr : Nat
  bytes : List Byte
  src : TrackEntry
  deriving DecidableEq, Repr

/-- A die's state of a line (R70). -/
inductive DieSt
  | s | e | m | o | u
  deriving DecidableEq, Repr

/-- A line in a slice (R65, R74): its way in the set (R64, R68), V and D by sector, WM by word, the 64 slots, and in U the
holders and the spilled. -/
structure SliceLine where
  st : DieSt
  way : Nat := 0
  v : BitVec 4 := 0
  d : BitVec 4 := 0
  wm : BitVec 64 := 0
  slots : Tbl Word := []
  holders : BitVec 128 := 0
  spilled : BitVec 128 := 0
  deriving DecidableEq, Repr

/-- A translation held in a TLB (R27). -/
structure Tlb where
  /-- log2 of the page size: 12, 16, 21 or 30. -/
  log2 : Nat
  frame : Nat
  r : Bool
  w : Bool
  a : Bool
  x : Bool
  host : Bool
  deriving DecidableEq, Repr

/-- A lock entry's state (R107). -/
inductive LockSt
  | wait (m : Nat)
  | held (m : Nat)
  | upg (m m' : Nat)
  deriving DecidableEq, Repr

/-- One task's entry on one lock (R109). -/
structure Lock where
  name : LockName
  task : Nat
  st : LockSt
  /-- The thread parked in the request. -/
  tid : Nat
  home : Nat
  /-- The parent's name (R100); none at tensor level. -/
  parent : Option LockName
  /-- Physical line of a line-level lock (R110). -/
  line : Option Nat
  /-- Last request, for the least recently used entry (R109). -/
  used : Nat
  overflowed : Bool
  /-- The domain's matrix as the waiting request found it on arrival (R99). -/
  cfg : DWord
  deriving DecidableEq, Repr

/-- A layout state (R157). -/
structure Layout where
  lseq : Nat
  va : Nat
  asid : Nat
  /-- Stage of the task that created it (R152). -/
  stage : Nat
  rcd : TRec
  mat : List (BitVec 48)
  m1 : List (BitVec 48) := []
  m2 : List (BitVec 48) := []
  matno : Nat := 0
  inflight : Bool := false
  passes : Nat := 0
  stepping : Bool := false
  broken : Bool := false
  last : Nat := 0
  /-- Decode table (R355). -/
  table : List DWord := []
  /-- The latest operation that has reported progress here, and its progress (R344). -/
  progOp : Nat := 0
  prog0 : Word := 0
  prog1 : Word := 0
  /-- Bytes that accesses have written since its pass began, which compete with it where they lie in its storage or its staging
  area: the unit and the offset in scratchpad; in memory 0 for the device's or 1 for the host's, and the physical address; the
  count of bytes (R135). -/
  hits : List (Nat × Nat × Nat) := []
  deriving DecidableEq, Repr

/-- The kinds of engine operation (R131), operands as layout-state keys. -/
inductive EngKind
  | tcopy (src dst : Nat) (ovl mcast follow chv : Bool) (chan red mask foloff : Nat)
  | remap (lay : Nat) (all : Bool)
  | tmerge (a b d : Nat) (signed : Bool) (na nb : Nat)
  | fill (d : Nat) (value : DWord)
  | gather (d s i : Nat)
  | scatter (d s i : Nat)
  | decode (d s : Nat) (start : Nat)
  | undelta (d s : Nat) (value : DWord)
  | mxgo (a b c : Nat) (accum : Bool) (tile : Nat)
  | rrot (src dst n : Nat) (index : Nat) (got : Option (List Byte)) (started : Bool)
  | rget (loc : Nat) (spm : Bool) (remote : DWord) (len : Nat)
  | rput (loc : Nat) (spm : Bool) (remote : DWord) (len : Nat) (cntv incmode : Bool) (dcnt : Nat)
  | tsend (src : Nat) (remote : DWord) (len : Nat) (cntv incmode : Bool) (dcnt : Nat)
  | coll (lseq chunk step : Nat) (src : Nat) (remote : DWord) (len : Nat)
  deriving DecidableEq, Repr

/-- An engine operation that has started and not completed. -/
structure EngineOp where
  kind : EngKind
  task : Nat
  tid : Nat
  pc : DWord
  lseq : Nat
  num : Nat
  asid : Nat
  func : Nat
  core : Nat
  /-- SPM offset of its barrier object, if it counts on one. -/
  bar : Option Nat
  /-- Bytes added to PENDB and not yet subtracted (R302). -/
  remain : Nat
  /-- Next chunk, element or step; `prog2`/`prog3` as the kind needs. -/
  prog : Nat
  stop : Nat
  prog2 : Nat := 0
  prog3 : Nat := 0
  /-- Suspended under a page-fault token, with the trap it becomes on FAIL (R30, R389). -/
  susp : Option (Nat × TrapInfo) := none
  /-- Pieces still to be sent, and pieces sent and not answered (R403). -/
  queue : List Nat := []
  left : List Nat := []
  /-- The target address, and what the window tables gave for it (R36, R37), once they have been read. -/
  target : Option Nat := none
  key : Word := 0
  jobkey : Word := 0
  cls : Nat := 0
  /-- An invalidation has discarded what the window tables gave: they are read anew before the next piece (R32, R41). -/
  stale : Bool := false
  /-- The launch whose completion waits for it (R143). -/
  launch : Option Nat := none
  /-- The saved task for whose part it waits (R396). -/
  wants : Option Nat := none
  deriving DecidableEq, Repr

/-- Gating of a petal (R222). -/
inductive Gate
  | clock | power
  deriving DecidableEq, Repr

/-- An armed entry of the FXE (R409, R411). -/
inductive ArmedKind
  | send (incmode cntv : Bool) (src : Nat) (dst : DWord) (len dcnt : Nat)
  | carm
  deriving DecidableEq, Repr

/-- An armed entry with what its firing needs. -/
structure Armed where
  counter : Nat
  thresh : DWord
  kind : ArmedKind
  bar : Option Nat
  task : Nat
  tid : Nat
  pc : DWord
  lseq : Nat
  num : Nat
  asid : Nat
  func : Nat
  core : Nat
  launch : Nat
  deriving DecidableEq, Repr

/-- An operation whose pieces arrive at this device: pieces handled, and the increments its pieces contribute (R403, R442). -/
structure Arrival where
  src : Nat
  op : Nat
  pieces : Nat
  got : List Nat
  /-- The packets, without their data, of the pieces that were written and are acknowledged when the operation is complete. -/
  acks : List Packet
  failed : Bool
  adds : Tbl Nat
  /-- Pieces that a kernel has forwarded and whose outcome has not come back (R433). -/
  away : List Nat
  deriving DecidableEq, Repr

/-- A page-fault token (R389). -/
structure Token where
  func : Nat
  asid : Nat
  page : Nat
  kind : Access
  deriving DecidableEq, Repr

/-- A kernel slot (R426, R427). -/
structure Slot where
  asid : Nat
  func : Nat
  jobkey : Word
  fclass : Nat
  ports : Word
  budget : Nat
  words : List Word
  flowBase : Nat
  flowb : Nat
  flow : Memory := []
  code : DWord
  disabled : Bool := false
  /-- SKREL has issued: no packet is matched any more. -/
  releasing : Bool := false
  task : Nat
  num : Nat
  tid : Nat
  lseq : Nat
  deriving DecidableEq, Repr

/-- What becomes of a packet (R433). -/
inductive Disposition
  | deliver
  | fwd (port : Nat)
  | drop
  deriving DecidableEq, Repr

/-- A packet context of a sepal (R426). -/
structure Ctx where
  slot : Nat
  pkt : Packet
  pc : Nat := 0
  y : Tbl Word := []
  /-- Lane i of w register r at key 16r + i. -/
  w : Tbl Word := []
  c : BitVec 4 := 0
  /-- Open loops, innermost first: first body word, last body word, passes left. -/
  loops : List (Nat × Nat × Nat) := []
  disp : Disposition := .deliver
  mirrors : List Nat := []
  cycles : Nat := 0
  deriving DecidableEq, Repr

/-- A region's move or replication in progress (R49). -/
structure Migration where
  asid : Nat
  region : Nat
  from_ : Nat
  to_ : Nat
  /-- First 4 KiB frame of the new 64 KiB frame. -/
  frame : Nat
  /-- The address of the first of the 16 entries, and the entries as the placement unit left them, MIG set. -/
  addr : Nat
  entries : List DWord
  /-- Stores with a number below this one may have translated before (R51). -/
  seq : Nat
  deriving DecidableEq, Repr

/-- Accesses of the dies that have reached a home agent (R48). -/
structure AccessCount where
  rd : List Nat := [0, 0, 0, 0]
  wr : List Nat := [0, 0, 0, 0]
  deriving DecidableEq, Repr

/-- A region's replica on a die: first 4 KiB frame, and once REP has been found clear the number of the epoch at whose end it is
released (R52). -/
structure Replica where
  asid : Nat
  region : Nat
  die : Nat
  frame : Nat
  dropped : Option Nat
  deriving DecidableEq, Repr

/-- Names of the registers of the global block and of the queue counters (R445, R362). -/
inductive GReg
  | peerid | expbase | expcount | c0res | timer (i : Nat) | rtimeout | plcthr | regwerr | lkcfgerr | ctxbase
  | lkcfg (d : Nat) | fweight (f : Nat) | framepool (h : Nat) | spill (h : Nat) | lkovf (h : Nat) | frameidx (h : Nat)
  | frameret (h : Nat) | retidx (h : Nat) | uforced (h : Nat) | savepool | collpool | collcnt
  | qcfg (q : Nat) | qbase (q : Nat) | cntcfg (i : Nat) | c0rate (f : Nat) | qtail (q : Nat) | qhead (q : Nat)
  deriving DecidableEq, Repr

/-- Names of the registers of a function page (R446). -/
inductive FReg
  | invq | invtail | invhead | fq | fqtail | fqhead | pfq | pfqtail | pfqhead | fqlost | attest | werr
  deriving DecidableEq, Repr

/-- Start-up (R449). -/
inductive Boot
  /-- The keeper waits for the service firmware. -/
  | waitLoad
  /-- A LOAD request is being verified. -/
  | verifying
  /-- Units powered up; the home agents clear memory. -/
  | clearing
  | running
  | failed
  deriving DecidableEq, Repr

/-- An invalidation command read and not complete (R31, R32). -/
structure Inval where
  func : Nat
  asid : Nat
  sig : DWord
  dropped : Bool
  /-- Stores with a number below this one may have translated through a discarded entry, and with PEER = 1 remote operations with a
  number below `ops`. -/
  seq : Nat
  peer : Bool
  ops : Nat
  deriving DecidableEq, Repr

/-- A decrement of a signal object that waits for a migrating page (R50, R454). -/
structure HeldSignal where
  func : Nat
  asid : Nat
  lseq : Nat
  va : DWord
  err : Bool
  n : DWord
  deriving DecidableEq, Repr

/-- Which agent the current word runs for: the model's own. -/
inductive Actor
  | none
  /-- The lanes of one issue, ascending (TASK, TID) (R204, R218). -/
  | lanes (l : List ThreadRef)
  /-- A packet context: 4 × sepal + context. -/
  | sepal (k : Nat)
  deriving DecidableEq, Repr

/-- What the schedule says comes next: the model's own (log 1). -/
inductive Turn
  | event (i : Instr)
  | issue (l : List ThreadRef)
  | sepal (k : Nat)
  deriving DecidableEq, Repr

/-- The package. Default values are the values after reset; INVENTORY.md names the rule of each field. -/
structure State where
  -- the model's own schedule and counters
  tick : Nat := 0
  fresh : Nat := 0
  agenda : List Turn := []
  actor : Actor := .none
  /-- While a chained group is tried, its lanes' stops are collected here with their words' PCs and not taken (R232). -/
  collect : Option (List (ThreadRef × DWord × Stop)) := none
  /-- Barrier objects changed in this cycle whose completion has not been tested yet (R303): task, SPM offset. -/
  touched : List (Nat × Nat) := []
  -- power, start-up, health
  powered : Bool := true
  boot : Boot := .waitLoad
  memReady : Bool := false
  bootFail : Bool := false
  replace : Bool := false
  degraded : Bool := false
  fencedCores : List Nat := []
  fencedSlices : List (Bool × Nat × Nat) := []
  fencedPorts : List Nat := []
  corrected : List (FenceUnit × Nat) := []
  uncorrected : Nat := 0
  firmwareHash : BitVec 256 := 0
  /-- Step at which the last cold start began: the clock counts from there (R279). -/
  clockBase : Nat := 0
  -- registers
  gregs : List (GReg × DWord) := []
  fregs : List ((Nat × FReg) × DWord) := []
  buckets : Tbl Nat := []
  -- memories
  mem : Memory := []
  hostMem : Memory := []
  metas : Tbl (BitVec 16) := []
  slices : Tbl SliceLine := []
  /-- Tree pseudo-LRU bits of a slice's set, node n at bit n (R68). -/
  plru : Tbl (BitVec 16) := []
  l1 : Tbl L1Word := []
  regq : Tbl (List Reg) := []
  hostq : List HostWrite := []
  /-- Stores made so far: the model's own numbers for them. -/
  nextStore : Nat := 0
  spills : Tbl Word := []
  -- translation
  ctxs : Tbl (List DWord) := []
  tlbs : Tbl (List (Nat × Nat × Tlb)) := []
  twe : Tbl (List (Nat × Nat × Tlb)) := []
  peerCache : List ((Nat × Nat × Nat) × List DWord) := []
  /-- Host translations: ASID, PASID and page; frame (R27, R33). -/
  atc : List ((Nat × Nat × Nat) × Nat) := []
  atsPending : List (Nat × Nat × Nat) := []
  priPending : List (Nat × Nat) := []
  priDenied : List (Nat × Nat) := []
  invals : List Inval := []
  heldSignals : List HeldSignal := []
  -- placement
  /-- Accesses to each 4 KiB frame, and the regions whose entries a walk has found placed (R47, R48). -/
  counts : Tbl AccessCount := []
  regions : List (Nat × Nat) := []
  migrations : List Migration := []
  replicas : List Replica := []
  plogSeq : Tbl Nat := []
  epochs : Tbl Nat := []
  -- faults
  tokens : Tbl Token := []
  nextToken : Nat := 1
  heldPage : List (Nat × FaultRec) := []
  -- locks
  locks : List Lock := []
  -- scheduling
  launchSeq : BitVec 40 := 0
  pending : List Pending := []
  taken : Tbl Nat := []
  arbPtr : List Nat := [0, 0, 0, 0]
  arbCr : List Nat := [0, 0, 0, 0]
  lastQ : List ((Nat × Nat) × Nat) := []
  launches : Tbl Launch := []
  tasks : Tbl Task := []
  /-- Threads at key 1024 × AGE + TID. -/
  threads : Tbl Thread := []
  gates : Tbl Gate := []
  tracker : Tbl (List TrackEntry) := []
  -- tensors and engines
  layouts : Tbl Layout := []
  engines : Tbl EngineOp := []
  nextEngine : Nat := 1
  tmems : Tbl Tmem := []
  -- fabric
  counters : Tbl DWord := []
  armed : List Armed := []
  fabricOut : List Packet := []
  responses : List (Nat × Response) := []
  arrivals : List Arrival := []
  /-- Data of REMAP passes that partners have sent: job, BASE, sender, elements (R166, R168). -/
  exchange : List ((Nat × Nat × Nat) × List Byte) := []
  /-- Ready messages of collectives that have arrived (R416). -/
  readies : List Ready := []
  linksDown : List Nat := []
  /-- Kernel-memory jobs and ports the host has granted to an ASID (R420). -/
  grants : List (Nat × Word × Word) := []
  slots : Tbl Slot := []
  ctxts : Tbl Ctx := []
  /-- The packet context that ran last (R431). -/
  lastCtx : Nat := 0
  sepalQ : List (Nat × Packet) := []
  /-- What the last HOST_READ returned: bytes and the EP mark (R80). -/
  hostRead : List Byte × Bool := ([], false)
  deriving DecidableEq, Repr

/-- Why the machine stops. -/
inductive Fault
  /-- Raised by the events that name a device physical address (host reads and writes, home and slice requests) at or above
  512 GiB, where R15 says there is no memory. Safe: the manual gives such a request no effect. -/
  | noDeviceMemory (pa : Nat)
  deriving DecidableEq, Repr

/-- Why an instruction has no meaning. -/
inductive Refusal
  /-- Raised by Dispatch for an instruction that has no meaning yet. Safe: it runs nothing. -/
  | notModelled (mnemonic : String)
  deriving DecidableEq, Repr

/-- The state right after power-on, once the boot ROM has started the keeper (R449 step 1): every field at the default its
declaration above gives, each with its rule in INVENTORY.md; the metadata words, for which R69 gives no reset value, read 0 (log
105). -/
def State.reset : State := {}

end Sys2Proof.Machine
end

