-- ==== Sys2Proof/Machine/Base.lean ====
section
/-! DEFINITION. Accessors of the state: device registers, threads, tasks, launches and the model's own counters. -/
namespace Sys2Proof.Machine

/-- The value at a name of an association list. -/
def assoc {α β : Type} [DecidableEq α] (l : List (α × β)) (a : α) : Option β :=
  match l with
  | [] => none
  | (x, v) :: r => if x = a then some v else assoc r a
/-- The list with the value at a name replaced. -/
def assocSet {α β : Type} [DecidableEq α] (l : List (α × β)) (a : α) (v : β) : List (α × β) :=
  match l with
  | [] => [(a, v)]
  | (x, w) :: r => if x = a then (a, v) :: r else (x, w) :: assocSet r a v

/-- The last `n` of a list. -/
def keepLast {α : Type} (n : Nat) (l : List α) : List α := l.drop (l.length - n)

/-! ## Registers of the global block and the function pages (R445, R446) -/

/-- The reset value of a global-block register (R445, R98). -/
def GReg.reset : GReg → DWord
  | .timer i => if i = 0 then 10 else if i = 1 then 50 else 1000000
  | .rtimeout => 100
  | .plcthr => 0x00004004000800C0
  | .lkcfg _ => 0x8C00458EF ||| (20 : DWord) <<< 48
  | .fweight _ => 1
  | _ => 0
/-- A register of the global block. -/
def State.greg (s : State) (r : GReg) : DWord := (assoc s.gregs r).getD r.reset
/-- Write a register of the global block, its range already checked. -/
def State.setGreg (s : State) (r : GReg) (v : DWord) : State := { s with gregs := assocSet s.gregs r v }
/-- A register of function `f`'s page; every one resets to zero (R446). -/
def State.freg (s : State) (f : Nat) (r : FReg) : DWord := (assoc s.fregs (f, r)).getD 0
/-- Write a register of a function page. -/
def State.setFreg (s : State) (f : Nat) (r : FReg) (v : DWord) : State :=
  { s with fregs := assocSet s.fregs (f, r) v }
/-- Add one to a 32-bit counter register of the global block. -/
def State.bumpG (s : State) (r : GReg) : State :=
  s.setGreg r (((s.greg r).truncate 32 + 1 : Word).zeroExtend 64)
/-- Add one to a 32-bit counter register of a function page. -/
def State.bumpF (s : State) (f : Nat) (r : FReg) : State :=
  s.setFreg f r (((s.freg f r).truncate 32 + 1 : Word).zeroExtend 64)

/-- The device answers on its registers and ports: the service firmware runs and no signature has failed (R449). -/
def State.up (s : State) : Bool := s.powered && (s.boot == .clearing || s.boot == .running)

/-- Arithmetic-clock cycles since cold start (R279). -/
def State.clock (s : State) : Nat := Config.clockAt s.tick - Config.clockAt s.clockBase

/-! ## Launches, tasks, threads -/

/-- The launch with sequence number `l`. -/
def State.launch? (s : State) (l : Nat) : Option Launch := s.launches.find? l
/-- Change a launch. -/
def State.modLaunch (s : State) (l : Nat) (f : Launch → Launch) : State :=
  { s with launches := s.launches.modify l f }
/-- The task with age `a`; what no task is reads as an empty one. -/
def State.task (s : State) (a : Nat) : Task := (s.tasks.find? a).getD {}
/-- Change a task. -/
def State.modTask (s : State) (a : Nat) (f : Task → Task) : State := { s with tasks := s.tasks.modify a f }
/-- A launch is pinned for good: its tasks are not donated any more (R371). -/
def State.pin (s : State) (l : Nat) : State := s.modLaunch l (fun l => { l with pinned := true })
/-- The key of a thread. -/
def tkey (t : ThreadRef) : Nat := 1024 * t.task + t.tid
/-- A thread. -/
def State.thread (s : State) (t : ThreadRef) : Thread := (s.threads.find? (tkey t)).getD {}
/-- Change a thread. -/
def State.modThread (s : State) (t : ThreadRef) (f : Thread → Thread) : State :=
  { s with threads := s.threads.modify (tkey t) f }
/-- The thread's reference from its record. -/
def Thread.ref (t : Thread) : ThreadRef := ⟨t.task, t.tid⟩
/-- The threads of a task, ascending TID. -/
def State.threadsOf (s : State) (task : Nat) : List Thread :=
  (s.threads.map Prod.snd).filter (fun t => t.task == task)
/-- The threads of a task that have not ended. -/
def State.liveOf (s : State) (task : Nat) : List Thread :=
  (s.threadsOf task).filter (fun t => t.status != .ended)
/-- The launch of a task; a successor stays with the launch it came from (R213). -/
def State.launchOf (s : State) (task : Nat) : Launch := (s.launch? (s.task task).launch).getD {}
/-- Physical core, die and bed of a task (R279, R86). -/
def Task.die (k : Task) : Nat := k.phys / 128
/-- The posy of a thread and its lane (R200). -/
def posyOf (t : ThreadRef) : Nat := t.tid / 32
/-- Home lane. -/
def laneOf (t : ThreadRef) : Nat := t.tid % 32

/-- The channel of a launch. -/
def Launch.chan (l : Launch) (i : Nat) : Chan := Tbl.get {} l.chans i
/-- Entries that the hardware queue of a channel holds (R369). -/
def Chan.fill (c : Chan) : Nat := min 32 c.entries.length
/-- A channel's fill summed over the cycles of its window up to a clock count. -/
def Chan.filled (c : Chan) (now : Nat) : Nat := c.sum + (now - c.at_) * c.fill

/-! ## The model's own counters -/

/-- A fresh number for a free value. -/
def State.draw (s : State) : Nat × State := (s.fresh, { s with fresh := s.fresh + 1 })
/-- A free word (a value the manual calls unspecified). -/
def State.freeWord (s : State) : Word × State := (Config.freeWord s.fresh, { s with fresh := s.fresh + 1 })
/-- Free bytes. -/
def State.freeBytes (s : State) (n : Nat) : List Byte × State :=
  (((List.range ((n + 3) / 4)).flatMap (fun i => bytesOfWord (Config.freeWord (s.fresh + i)))).take n,
    { s with fresh := s.fresh + (n + 3) / 4 })
/-- One triple of numbers comes before another, the first number deciding, then the second, then the third. -/
def admitBefore (a b : Nat × Nat × Nat) : Bool :=
  decide (a.1 < b.1) || (a.1 == b.1 && (decide (a.2.1 < b.2.1) || (a.2.1 == b.2.1 && decide (a.2.2 < b.2.2))))

end Sys2Proof.Machine
end

