-- ==== Sys2Proof/Machine/Coherence.lean ====
section
/-! DEFINITION. L1 word registration, slices, metadata words, home agents, partials and merges (02_memory_hierarchy
R55-R80). Every request of R73 is one function, a whole transaction (log 8). -/
namespace Sys2Proof.Machine

/-! ## Names of lines, words and dies (R15, R64, R86) -/

/-- First byte past device memory (R15). -/
def devTop : Nat := 2 ^ 39
/-- Home die of a line number: PA[38:37]. -/
def homeDie (line : Nat) : Nat := line / 2 ^ 29 % 4
/-- Home agent of a line number: PA[38:36]. -/
def homeAgent (line : Nat) : Nat := line / 2 ^ 28 % 8
/-- Slice number of a line (R64). -/
def sliceNo (line : Nat) : Nat := (line % 64) ^^^ (line / 64 % 64) ^^^ (line / 4096 % 64) ^^^ (line / 262144 % 64)
/-- Key of a die's entry for a line. -/
def sliceKey (die line : Nat) : Nat := die * 2 ^ 32 + line
/-- Key of a word in a core's L1; `word` is PA / 4, or `hostWord` of a host bus address. -/
def l1Key (core word : Nat) : Nat := core * 2 ^ 52 + word
/-- Word number of a host bus address. -/
def hostWord (a : Nat) : Nat := 2 ^ 50 + a / 4
/-- Key of a spilled word (R74). -/
def spillKey (line die core i : Nat) : Nat := ((line * 4 + die) * 128 + core) * 64 + i
/-- Die of a physical core. -/
def dieOf (core : Nat) : Nat := core / 128

/-! ## The metadata word (R69-R71) -/

/-- STATE of a metadata word, in code order. -/
inductive MSt
  | i | s | e | m | o | u
  deriving DecidableEq, Repr

/-- A metadata word's fields. -/
structure Meta where
  st : MSt := .i
  sharers : BitVec 4 := 0
  owner : BitVec 2 := 0
  uop : BitVec 3 := 0
  poison : Bool := false
  hint : Bool := false
  deriving DecidableEq, Repr

/-- The code of a state. -/
def MSt.code : MSt → BitVec 3
  | .i => 0 | .s => 1 | .e => 2 | .m => 3 | .o => 4 | .u => 5
/-- The state of a code below 6. -/
def MSt.ofCode (c : Nat) : MSt :=
  match c with
  | 1 => .s | 2 => .e | 3 => .m | 4 => .o | 5 => .u | _ => .i
/-- A metadata word (R69). -/
def Meta.pack (m : Meta) : BitVec 16 :=
  (0 : BitVec 2) ++ BitVec.ofBool m.hint ++ BitVec.ofBool m.poison ++ m.uop ++ m.owner ++ m.sharers ++ m.st.code
/-- The fields of a metadata word. -/
def Meta.unpack (w : BitVec 16) : Meta :=
  { st := MSt.ofCode (w.extractLsb' 0 3).toNat, sharers := w.extractLsb' 3 4, owner := w.extractLsb' 7 2,
    uop := w.extractLsb' 9 3, poison := w.getLsbD 12, hint := w.getLsbD 13 }
/-- One sharer. -/
def shr1 (d : Nat) : BitVec 4 := 1#4 <<< d
/-- A valid metadata word (R71). -/
def metaValid (w : BitVec 16) : Bool :=
  let m := Meta.unpack w
  decide (w.extractLsb' 0 3 < 6) && decide (w.extractLsb' 14 2 = 0) &&
    (if m.st = .u then decide (m.uop < 5) else decide (m.uop = 0)) &&
    (match m.st with
      | .i => true
      | .s | .u => decide (m.sharers ≠ 0)
      | .e | .m => decide (m.sharers = shr1 m.owner.toNat)
      | .o => m.sharers.getLsbD m.owner.toNat)

/-- A line's metadata fields. -/
def State.lineMeta (s : State) (line : Nat) : Meta := Meta.unpack (Tbl.get 0 s.metas line)
/-- Write a line's metadata fields. -/
def State.setMeta (s : State) (line : Nat) (m : Meta) : State := { s with metas := Tbl.set 0 s.metas line m.pack }
/-- An uncorrectable error is counted (R71, R73). -/
def State.countError (s : State) : State := { s with uncorrected := s.uncorrected + 1 }
/-- A line whose metadata word is invalid becomes poisoned and I (R71); what dies hold of it stays as it is (log 92). -/
def State.checkMeta (s : State) (line : Nat) : State :=
  let w := Tbl.get 0 s.metas line
  if metaValid w then s
  else (s.setMeta line { poison := true, hint := w.getLsbD 13 }).countError
/-- The line of a byte carries POISON (R80), as the home finds it when it reads the metadata word (R71). -/
def State.poisoned (s : State) (pa : Nat) : Bool :=
  (s.lineMeta (pa / 256)).poison || !metaValid (Tbl.get 0 s.metas (pa / 256))
/-- Mark the line of a byte. -/
def State.poison (s : State) (pa : Nat) : State := s.setMeta (pa / 256) { s.lineMeta (pa / 256) with poison := true }

/-! ## Slices and L1 entries -/

/-- A die's entry for a line. -/
def State.slice? (s : State) (die line : Nat) : Option SliceLine := s.slices.find? (sliceKey die line)
/-- Put a die's entry for a line. -/
def State.putSlice (s : State) (die line : Nat) (e : SliceLine) : State :=
  { s with slices := s.slices.put (sliceKey die line) e }
/-- Drop a die's entry for a line. -/
def State.dropSlice (s : State) (die line : Nat) : State := { s with slices := s.slices.erase (sliceKey die line) }
/-- A word of a core's L1. -/
def State.l1? (s : State) (core word : Nat) : Option L1Word := s.l1.find? (l1Key core word)
/-- Put a word into a core's L1. -/
def State.putL1 (s : State) (core word : Nat) (x : L1Word) : State := { s with l1 := s.l1.put (l1Key core word) x }
/-- Take a word out of a core's L1 (INV). -/
def State.dropL1 (s : State) (core word : Nat) : State := { s with l1 := s.l1.erase (l1Key core word) }
/-- A word of device memory. -/
def State.memWord (s : State) (word : Nat) : Word := Memory.word s.mem (4 * word)
/-- Write a word of device memory. -/
def State.setMemWord (s : State) (word : Nat) (v : Word) : State :=
  { s with mem := Memory.write s.mem (4 * word) (bytesOfWord v) }

/-! ## Sets and ways (R55, R64, R68) -/

/-- Set of a line in its slice of a die: PA[23:14] in L2, PA[21:14] in RDC (R64). -/
def setOf (die line : Nat) : Nat := if die = homeDie line then line / 64 % 1024 else line / 64 % 256
/-- Key of that set over the package. -/
def setKey (die line : Nat) : Nat := ((die * 2 + b2n (die != homeDie line)) * 64 + sliceNo line) * 1024 + setOf die line
/-- Ways of a slice's set (R55). -/
def sliceWays : Nat := 16
/-- The way that the tree names: the children of node n are 2n and 2n + 1, way w is leaf 16 + w, and a node's bit names the child
that gives way (R68). -/
def plruVictim (b : BitVec 16) : Nat := (List.range 4).foldl (fun n _ => 2 * n + b2n (b.getLsbD n)) 1 - sliceWays
/-- The tree after an access to a way: every node on its path names the other child. -/
def plruTouch (b : BitVec 16) (w : Nat) : BitVec 16 :=
  (List.range 4).foldl (fun b i => let n := (sliceWays + w) / 2 ^ i; putBit b (n / 2) (n % 2 == 0)) b
/-- The lines that share a set with a line. -/
def State.setLines (s : State) (die line : Nat) : List (Nat × SliceLine) :=
  s.slices.filter (fun e => e.1 / 2 ^ 32 == die && setKey die (e.1 % 2 ^ 32) == setKey die line)
/-- The lowest way of a line's set that holds no line; R68 names none (log 84). -/
def State.freeWay (s : State) (die line : Nat) : Nat :=
  ((List.range sliceWays).find? (fun w => !(s.setLines die line).any (fun e => e.2.way == w))).getD 0
/-- Put an entry for a line where the line's entry stands, else into a free way. -/
def State.fillSlice (s : State) (die line : Nat) (e : SliceLine) : State :=
  s.putSlice die line { e with way := match s.slice? die line with
    | some x => x.way
    | none => s.freeWay die line }
/-- The slice has accessed a line (R68). -/
def State.touch (s : State) (die line : Nat) : State :=
  match s.slice? die line with
  | none => s
  | some e =>
    let k := setKey die line
    { s with plru := Tbl.set 0 s.plru k (plruTouch (Tbl.get 0 s.plru k) e.way) }

/-! ## The fields of an entry -/

/-- V of the sector of word `i`. -/
def SliceLine.vOf (e : SliceLine) (i : Nat) : Bool := e.v.getLsbD (i / 16)
/-- Word `i` is registered (R65). -/
def SliceLine.registered (e : SliceLine) (i : Nat) : Bool := e.vOf i && e.wm.getLsbD i
/-- Word `i` is held here. -/
def SliceLine.has (e : SliceLine) (i : Nat) : Bool := e.vOf i || e.wm.getLsbD i
/-- The slot of word `i`. -/
def SliceLine.slot (e : SliceLine) (i : Nat) : Word := Tbl.get 0 e.slots i
/-- Write a slot. -/
def SliceLine.setSlot (e : SliceLine) (i : Nat) (v : Word) : SliceLine := { e with slots := Tbl.set 0 e.slots i v }
/-- Word `i` becomes plain data newer than the home. -/
def SliceLine.setData (e : SliceLine) (i : Nat) (v : Word) : SliceLine :=
  { e.setSlot i v with wm := putBit e.wm i (!e.vOf i), d := putBit e.d (i / 16) true }
/-- The entry holds anything newer than the home. -/
def SliceLine.dirty (e : SliceLine) : Bool := decide (e.d ≠ 0) || decide (e.wm ≠ 0)

/-- The core of die `die` that has word `i` registered. -/
def SliceLine.ownerCore (e : SliceLine) (die i : Nat) : Nat := die * 128 + (e.slot i).toNat % 128
/-- The current value of a word that the entry holds: the owner's, where it is registered (R66). -/
def State.heldWord (s : State) (die line : Nat) (e : SliceLine) (i : Nat) : Word :=
  if e.registered i then
    match s.l1? (e.ownerCore die i) (line * 64 + i) with
    | some x => x.val
    | none => s.memWord (line * 64 + i)
  else e.slot i
/-- A word that the entry does not hold: from the O owner's slice, else from memory (R70). -/
def State.homeWord (s : State) (die line i : Nat) : Word :=
  let m := s.lineMeta line
  if m.st = .o ∧ m.owner.toNat ≠ die then
    match s.slice? m.owner.toNat line with
    | some e => if e.has i then s.heldWord m.owner.toNat line e i else s.memWord (line * 64 + i)
    | none => s.memWord (line * 64 + i)
  else s.memWord (line * 64 + i)

/-- Fetch a sector: words already written keep their data, and only then V becomes 1 (R65). -/
def State.fetchSector (s : State) (die line sec : Nat) : State :=
  match s.slice? die line with
  | none => s
  | some e =>
    if e.v.getLsbD sec then s
    else
      let e' := (List.range 16).foldl (fun e j =>
        let i := sec * 16 + j
        if e.wm.getLsbD i then { e with wm := putBit e.wm i false } else e.setSlot i (s.homeWord die line i)) e
      s.putSlice die line { e' with v := putBit e.v sec true }

/-- Recall a line's registered words from the cores of a die into its slice; the cores keep no copy (R66, R73, log 9). -/
def State.recall (s : State) (die line : Nat) : State :=
  match s.slice? die line with
  | none => s
  | some e =>
    (List.range 64).foldl (fun s i =>
      match s.slice? die line with
      | none => s
      | some e =>
        if e.registered i then
          let v := s.heldWord die line e i
          (s.putSlice die line { e.setSlot i v with wm := putBit e.wm i false, d := putBit e.d (i / 16) true }).dropL1
            (e.ownerCore die i) (line * 64 + i)
        else s) (s.putSlice die line e)
/-- The die discards its copy, its registered words recalled and discarded (R73). -/
def State.invalidate (s : State) (die line : Nat) : State := (s.recall die line).dropSlice die line
/-- Every die of a set discards its copy. -/
def State.invalidateAll (s : State) (line : Nat) (dies : List Nat) : State :=
  dies.foldl (fun s d => s.invalidate d line) s
/-- Write the newer words of a die's entry to memory. -/
def State.flush (s : State) (die line : Nat) : State :=
  match s.slice? die line with
  | none => s
  | some e =>
    (List.range 64).foldl (fun s i =>
      if (e.vOf i && e.d.getLsbD (i / 16)) || (!e.vOf i && e.wm.getLsbD i) then s.setMemWord (line * 64 + i) (e.slot i)
      else s) s

/-! ## Merges (R75-R77) -/

/-- One more access of a die. -/
def AccessCount.bump (c : AccessCount) (die : Nat) (wr : Bool) : AccessCount :=
  let up := fun (l : List Nat) => (List.range 4).map (fun d => l.getD d 0 + b2n (d == die))
  if wr then { c with wr := up c.wr } else { c with rd := up c.rd }
/-- A die's read or write of a line reaches the home agent, which counts it; a RED flush is a write (R48, log 106). -/
def State.countHome (s : State) (die line : Nat) (wr : Bool) : State :=
  { s with counts := s.counts.put (line / 16) ((Tbl.get {} s.counts (line / 16)).bump die wr) }

/-- The partial of one core on words i and, at 64 bits, i + 1: its L1's PAR words, or its spill entry. -/
def State.partial? (s : State) (line die core i : Nat) (wide : Bool) : Option DWord :=
  let at_ := fun (j : Nat) =>
    match s.spills.find? (spillKey line die core j) with
    | some v => some v
    | none =>
      match s.l1? (die * 128 + core) (line * 64 + j) with
      | some ⟨.par, v⟩ => some v
      | _ => none
  match at_ i with
  | none => none
  | some lo => some (if wide then pairOf lo ((at_ (i + 1)).getD 0) else lo.zeroExtend 64)
/-- Combine a core's partial into the die's value. -/
def combine (r : RedOp) (acc : Option DWord) (p : DWord) : Option DWord :=
  some (match acc with
    | none => p
    | some v => redNew r.op r.wide v p)
/-- Cores of a die that hold a partial of a line or have spilled one. -/
def State.partialCores (s : State) (line die : Nat) : List Nat :=
  match s.slice? die line with
  | some e => (List.range 128).filter (fun c => e.holders.getLsbD c || e.spilled.getLsbD c ||
      (List.range 64).any (fun i => (s.spills.find? (spillKey line die c i)).isSome))
  | none => (List.range 128).filter (fun c => (List.range 64).any (fun i => (s.spills.find? (spillKey line die c i)).isSome))
/-- Merge a U line: each word in ascending die and core order; then every partial is gone and the line is in I (R76). -/
def State.merge (s : State) (line : Nat) : State :=
  let m := s.lineMeta line
  let r := redOfUop m.uop.toNat
  let dies := (bitsSet m.sharers).map (fun d => (d, s.partialCores line d))
  let step := if r.wide then 2 else 1
  let s1 := (List.range (64 / step)).foldl (fun (t : State) k =>
    let i := k * step
    let w := line * 64 + i
    dies.foldl (fun (t : State) (dc : Nat × List Nat) =>
      match dc.2.foldl (fun acc c => match s.partial? line dc.1 c i r.wide with
          | none => acc
          | some p => combine r acc p) none with
      | none => t
      | some p =>
        let old := if r.wide then pairOf (t.memWord w) (t.memWord (w + 1)) else (t.memWord w).zeroExtend 64
        let v := redNew r.op r.wide old p
        let t := t.setMemWord w (loWord v)
        if r.wide then t.setMemWord (w + 1) (hiWord v) else t) t) s
  let s2 := dies.foldl (fun (t : State) (dc : Nat × List Nat) =>
    let t := if dc.2.any (fun c => (List.range 64).any (fun i => (t.l1? (dc.1 * 128 + c) (line * 64 + i)).map L1Word.st == some .par))
      then t.countHome dc.1 line true else t
    let t := dc.2.foldl (fun (t : State) c => (List.range 64).foldl (fun (t : State) i =>
      let t := { t with spills := t.spills.erase (spillKey line dc.1 c i) }
      match t.l1? (dc.1 * 128 + c) (line * 64 + i) with
      | some ⟨.par, _⟩ => t.dropL1 (dc.1 * 128 + c) (line * 64 + i)
      | _ => t) t) t
    t.dropSlice dc.1 line) s1
  s2.setMeta line { poison := m.poison, hint := m.hint }

/-! ## The home agent's requests (R73) -/

/-- A request that the table does not list is dropped and counted. -/
def State.unlisted (s : State) : State := s.countError
/-- Sharers but one. -/
def without (x : BitVec 4) (d : Nat) : BitVec 4 := putBit x d false

/-- The line leaves S, E, M or O for I: everything recalled, written to memory and invalidated. -/
def State.toI (s : State) (line : Nat) : State :=
  let s := s.checkMeta line
  let m := s.lineMeta line
  match m.st with
  | .i => s
  | .u => s.merge line
  | .s => (s.invalidateAll line (bitsSet m.sharers)).setMeta line { poison := m.poison, hint := m.hint }
  | .e | .m | .o =>
    let s := (s.recall m.owner.toNat line).flush m.owner.toNat line
    (s.invalidateAll line (bitsSet m.sharers)).setMeta line { poison := m.poison, hint := m.hint }

/-- A die comes to hold the line in a state, keeping sectors it holds. -/
def State.hold (s : State) (die line : Nat) (st : DieSt) : State :=
  match s.slice? die line with
  | some e => s.putSlice die line { e with st := st }
  | none => s.fillSlice die line { st := st }
/-- From I: exclusive to die `d`, data from memory. -/
def State.grantE (s : State) (line d : Nat) : State :=
  let m := s.lineMeta line
  ((s.dropSlice d line).hold d line .e).setMeta line
    { m with st := .e, sharers := shr1 d, owner := BitVec.ofNat 2 d, uop := 0 }

/-- A die that holds the line fetches a sector of it from the home (R48). -/
def State.countFetch (s : State) (die line sec : Nat) (wr : Bool) : State :=
  match s.slice? die line with
  | some e => if e.st == .u || e.v.getLsbD sec then s else s.countHome die line wr
  | none => s
/-- A die that holds the line alone asks the home for some of its sectors to write to them: one write (R48, log 106). -/
def State.countOwned (s : State) (die line : Nat) (secs : List Nat) : State :=
  match s.slice? die line with
  | some e => if (e.st == .e || e.st == .m) && secs.any (fun k => !e.v.getLsbD k) then s.countHome die line true else s
  | none => s
/-- RdS(d). -/
def State.rdS (s : State) (line d : Nat) : State :=
  let s := s.checkMeta line
  let m := s.lineMeta line
  let s := if (m.st = .e ∨ m.st = .m) ∧ d = m.owner.toNat then s else s.countHome d line false
  match m.st with
  | .i => s.grantE line d
  | .u => (s.merge line).grantE line d
  | .s => (s.hold d line .s).setMeta line { m with sharers := m.sharers ||| shr1 d }
  | .o => (s.hold d line (if d = m.owner.toNat then .o else .s)).setMeta line { m with sharers := m.sharers ||| shr1 d }
  | .e | .m =>
    let o := m.owner.toNat
    if d = o then s.unlisted
    else
      let s := s.recall o line
      let dirty := m.st = .m || ((s.slice? o line).map SliceLine.dirty).getD false
      let m' := { m with sharers := shr1 o ||| shr1 d }
      if dirty then ((s.hold o line .o).hold d line .s).setMeta line { m' with st := .o }
      else ((s.hold o line .s).hold d line .s).setMeta line { m' with st := .s, owner := 0 }

/-- RdX(d). -/
def State.rdX (s : State) (line d : Nat) : State :=
  let s := s.checkMeta line
  let m := s.lineMeta line
  let own := { m with sharers := shr1 d, owner := BitVec.ofNat 2 d }
  let s := if (m.st = .e ∨ m.st = .m) ∧ d = m.owner.toNat then s else s.countHome d line true
  match m.st with
  | .i => s.grantE line d
  | .u => (s.merge line).grantE line d
  | .s =>
    ((s.invalidateAll line ((bitsSet m.sharers).filter (· ≠ d))).hold d line .e).setMeta line { own with st := .e }
  | .e | .m | .o =>
    let o := m.owner.toNat
    if d = o then
      if m.st = .o then
        ((s.invalidateAll line ((bitsSet m.sharers).filter (· ≠ d))).hold d line .m).setMeta line { own with st := .m }
      else s.unlisted
    else
      let s := s.recall o line
      let e := (s.slice? o line).getD { st := .e }
      let dirty := m.st ≠ .e || e.dirty
      let s := s.invalidateAll line (bitsSet m.sharers)
      if dirty then (s.fillSlice d line { e with st := .m }).setMeta line { own with st := .m }
      else (s.hold d line .e).setMeta line { own with st := .e }

/-- WB(d): a dirty write-back of the die's entry, which leaves the slice. -/
def State.wb (s : State) (line d : Nat) : State :=
  let s := s.checkMeta line
  let m := s.lineMeta line
  if (m.st = .e ∨ m.st = .m ∨ m.st = .o) ∧ m.owner.toNat = d ∧ (s.slice? d line).isSome then
    let s := (s.recall d line).flush d line
    let s := s.dropSlice d line
    let rest := without m.sharers d
    if m.st = .o ∧ rest ≠ 0 then s.setMeta line { m with st := .s, sharers := rest, owner := 0 }
    else s.setMeta line { m with st := .i, sharers := 0, owner := 0 }
  else s.unlisted

/-- EvC(d): notice of a clean eviction. -/
def State.evC (s : State) (line d : Nat) : State :=
  let s := s.checkMeta line
  let m := s.lineMeta line
  let rest := without m.sharers d
  if !m.sharers.getLsbD d then s.unlisted
  else
    match m.st with
    | .s => (s.dropSlice d line).setMeta line (if rest = 0 then { m with st := .i, sharers := 0 } else { m with sharers := rest })
    | .e => (s.invalidate d line).setMeta line { m with st := .i, sharers := 0, owner := 0 }
    | .o =>
      if m.owner.toNat = d then s.unlisted
      else if rest = shr1 m.owner.toNat then
        ((s.dropSlice d line).hold m.owner.toNat line .m).setMeta line { m with st := .m, sharers := rest }
      else (s.dropSlice d line).setMeta line { m with sharers := rest }
    | _ => s.unlisted

/-- Cores of a die whose partials of a line are in the spill area. -/
def State.spilledCores (s : State) (line die : Nat) : BitVec 128 :=
  (List.range 128).foldl (fun b c =>
    if (List.range 64).any (fun i => (s.spills.find? (spillKey line die c i)).isSome) then putBit b c true else b) 0
/-- A die enters U under a UOP code, from I or from U under the same code. -/
def State.admitU (s : State) (line d uop : Nat) : State :=
  let m := s.lineMeta line
  let kept := match s.slice? d line with
    | some e => if e.st == .u then e else { st := .u, spilled := s.spilledCores line d }
    | none => { st := .u, spilled := s.spilledCores line d }
  (s.fillSlice d line kept).setMeta line
    { m with st := .u, sharers := (if m.st = .u then m.sharers else 0) ||| shr1 d, owner := 0, uop := BitVec.ofNat 3 uop }
/-- RedU(d, op): admission to U under a UOP code. -/
def State.redU (s : State) (line d uop : Nat) : State :=
  let s := s.checkMeta line
  let m := s.lineMeta line
  match m.st with
  | .u => (if m.uop.toNat = uop then s else s.merge line).admitU line d uop
  | .i | .s => (s.toI line).admitU line d uop
  | .e | .m | .o => s.unlisted

/-- Bytes written into a list of words of a line held in a slice. -/
def lineBytes (line : Nat) (bytes : List (Nat × Byte)) (i : Nat) : BitVec 4 × Word :=
  (List.range 4).foldl (fun acc j =>
    match assoc bytes (line * 256 + 4 * i + j) with
    | some b => (putBit acc.1 j true, acc.2 ||| (b.zeroExtend 32 <<< (8 * j)))
    | none => acc) (0, 0)
/-- WrN of bytes that lie in one line (R72): into the slice of a die where that die holds the line alone, else at the home (R73,
log 10). -/
def State.wrnLine (s : State) (hd line : Nat) (pa : Nat) (data : List Byte) : State :=
  let s := s.checkMeta line
  let whole := decide (data.length = 256)
  let clean := fun (s : State) => if whole then s.setMeta line { s.lineMeta line with poison := false } else s
  let alone : Bool := match s.slice? hd line with
    | some e => e.st == .e || e.st == .m
    | none => false
  if alone then
    let cells := (List.range data.length).map (fun k => (pa + k, data.getD k 0))
    let s := (List.range 64).foldl (fun (s : State) i =>
      let mv := lineBytes line cells i
      if mv.1 = 0 then s
      else
        let s := match s.slice? hd line with
          | some e => if mv.1 = 15 || e.has i then s else (s.countOwned hd line [i / 16]).fetchSector hd line (i / 16)
          | none => s
        match s.slice? hd line with
        | none => s
        | some e =>
          let old := s.heldWord hd line e i
          let s := if e.registered i then s.dropL1 (e.ownerCore hd i) (line * 64 + i) else s
          s.putSlice hd line (e.setData i (mergeBytes mv.1 mv.2 old))) s
    let s := (List.range 4).foldl (fun (s : State) sec =>
      if (List.range 16).all (fun j => (lineBytes line cells (sec * 16 + j)).1 = 15) then
        match s.slice? hd line with
        | none => s
        | some e => s.putSlice hd line
            { e with v := putBit e.v sec true, d := putBit e.d sec true,
                     wm := (List.range 16).foldl (fun w j => putBit w (sec * 16 + j) false) e.wm }
      else s) s
    clean (s.touch hd line)
  else
    let s := s.toI line
    clean { s with mem := Memory.write s.mem pa data }
/-- A write competes with the REMAP passes in flight over the layout states that `on_` names, which note the bytes it writes
(R135). -/
def State.compete (s : State) (on_ : Layout → Bool) (h : Nat × Nat × Nat) : State :=
  if s.layouts.any (fun e => e.2.inflight) then
    { s with layouts := s.layouts.map (fun e =>
        if e.2.inflight && on_ e.2 then (e.1, { e.2 with hits := h :: e.2.hits }) else e) }
  else s
/-- A write to bytes of the device's memory, or of host memory, competes with the REMAP passes that run over them, by whatever
address it came (R135). -/
def State.competeMem (s : State) (host : Bool) (pa n : Nat) : State :=
  s.compete (fun l => !l.rcd.spm) (b2n host, pa, n)
/-- WrN of any bytes of device memory, line by line, through the slices that `via` names for their lines. -/
def State.wrNVia (s : State) (via : Nat → Nat) (pa : Nat) (data : List Byte) : State :=
  if data.isEmpty then s
  else
    let s := s.competeMem false pa data.length
    let first := pa / 256
    let last := (pa + data.length - 1) / 256
    (List.range (last + 1 - first)).foldl (fun s k =>
      let line := first + k
      let lo := max pa (line * 256)
      let hi := min (pa + data.length) (line * 256 + 256)
      s.wrnLine (via line) line lo ((data.drop (lo - pa)).take (hi - lo))) s
/-- WrN of a host, of arriving data and of the device itself: through the slices of the lines' home dies. -/
def State.wrN (s : State) (pa : Nat) (data : List Byte) : State := s.wrNVia homeDie pa data
/-- WrN of an engine on a die: through that die's slices (R64, R72), what goes on to a home being counted there (R48). -/
def State.wrNAt (s : State) (die pa : Nat) (data : List Byte) : State :=
  let first := pa / 256
  let s := (List.range ((pa + data.length + 255) / 256 - first)).foldl (fun (s : State) k =>
    match s.slice? die (first + k) with
    | some e => if e.st == .e || e.st == .m then s else s.countHome die (first + k) true
    | none => s.countHome die (first + k) true) s
  s.wrNVia (fun _ => die) pa data

/-- RedF: the operator applied to the word at memory, once (R78). -/
def State.redF (s : State) (pa : Nat) (r : RedOp) (v : DWord) : State :=
  let s := s.toI (pa / 256)
  let w := pa / 4
  let old := if r.wide then pairOf (s.memWord w) (s.memWord (w + 1)) else (s.memWord w).zeroExtend 64
  let new := redNew r.op r.wide old v
  let s := s.setMemWord w (loWord new)
  if r.wide then s.setMemWord (w + 1) (hiWord new) else s

/-! ## Spills and evictions (R62, R68, R74, R79) -/

/-- Bytes of one spill entry: the 64 words of a line for one core (log 17). -/
def spillBytes : Nat := 256
/-- Spill entries a home agent holds now. -/
def State.spillUse (s : State) (h : Nat) : Nat :=
  ((s.spills.map (fun (e : Nat × Word) => e.1 / 64)).eraseDups.filter (fun k => homeAgent (k / 512) = h)).length
/-- Room for one more entry in the spill area that the host gave home agent `h` (R447). -/
def State.spillRoom (s : State) (h : Nat) : Bool :=
  decide ((s.spillUse h + 1) * spillBytes ≤ ((s.greg (.spill h)).truncate 16 : BitVec 16).toNat * 65536)
/-- Spill(d, c): the core's partials of a line go to the home; a full area forces a merge (R74, R79). -/
def State.spill (s : State) (line die core : Nat) : State :=
  let s := s.checkMeta line
  let m := s.lineMeta line
  let par := (List.range 64).filter (fun i => match s.l1? (die * 128 + core) (line * 64 + i) with
    | some ⟨.par, _⟩ => true
    | _ => false)
  if m.st ≠ .u ∨ !m.sharers.getLsbD die ∨ par.isEmpty then s.unlisted
  else if !s.spillRoom (homeAgent line) then (s.merge line).bumpG (.uforced (homeAgent line))
  else
    let s := s.countHome die line true
    let s := par.foldl (fun (s : State) i =>
      match s.l1? (die * 128 + core) (line * 64 + i) with
      | some x => { s with spills := s.spills.put (spillKey line die core i) x.val }.dropL1 (die * 128 + core) (line * 64 + i)
      | none => s) s
    match s.slice? die line with
    | some e => s.putSlice die line { e with holders := putBit e.holders core false, spilled := putBit e.spilled core true }
    | none => s
/-- A slice drops a line: words recalled, partials spilled, written back or notified (R68). -/
def State.sliceEvict (s : State) (die line : Nat) : State :=
  match s.slice? die line with
  | none => s
  | some e =>
    if e.st = .u then
      -- a forced merge takes the other cores' partials with it (R79)
      let s := (bitsSet e.holders).foldl (fun s c => if (s.slice? die line).isSome then s.spill line die c else s) s
      match s.slice? die line with
      | some e => if e.holders = 0 then s.dropSlice die line else s
      | none => s
    else
      let s := s.recall die line
      if ((s.slice? die line).map SliceLine.dirty).getD false then s.wb line die
      else if (s.lineMeta line).st = .m ∨ ((s.lineMeta line).st = .o ∧ (s.lineMeta line).owner.toNat = die) then s.wb line die
      else s.evC line die
/-- A fenced slice holds no lines (R453). -/
def State.settle (s : State) (die line : Nat) : State :=
  if s.fencedSlices.contains (die != homeDie line, die, sliceNo line) then s.sliceEvict die line else s
/-- A core's L1 drops a line: OWN words are written back, PAR words spilled, PND words stay (R62). -/
def State.l1Evict (s : State) (core line : Nat) : State :=
  let die := dieOf core
  let s := (List.range 64).foldl (fun (s : State) i =>
    let w := line * 64 + i
    match s.l1? core w with
    | some ⟨.shr, _⟩ => s.dropL1 core w
    | some ⟨.own, v⟩ =>
      let s := s.dropL1 core w
      match s.slice? die line with
      | some e =>
        if e.registered i && e.ownerCore die i == core then
          s.putSlice die line { e.setSlot i v with wm := putBit e.wm i false, d := putBit e.d (i / 16) true }
        else s
      | none => s
    | _ => s) s
  if (List.range 64).any (fun i => match s.l1? core (line * 64 + i) with
      | some ⟨.par, _⟩ => true
      | _ => false) then s.spill line die (core % 128) else s

/-! ## What a core and an engine ask of a slice -/

/-- A slice whose set is full makes room for a line by the tree's victim (R68). -/
def State.makeRoom (s : State) (die line : Nat) : State :=
  let l := s.setLines die line
  if (s.slice? die line).isSome || decide (l.length < sliceWays) then s
  else match l.find? (fun e => e.2.way == plruVictim (Tbl.get 0 s.plru (setKey die line))) with
    | some e => s.sliceEvict die (e.1 % 2 ^ 32)
    | none => s
/-- The die holds the line in a state that serves loads. -/
def State.ensureRead (s : State) (die line : Nat) : State :=
  (match s.slice? die line with
    | some e => if e.st = DieSt.u then s.rdS line die else s
    | none => (s.makeRoom die line).rdS line die).touch die line
/-- The die holds the line alone (R67; from O by RdX(OWNER), log 9). -/
def State.ensureOwn (s : State) (die line : Nat) : State :=
  (match s.slice? die line with
    | some e => if e.st == DieSt.e || e.st == DieSt.m then s else s.rdX line die
    | none => (s.makeRoom die line).rdX line die).touch die line

/-- Read a word coherently at a die, without an L1: engines, walks, host reads (R29, R72). -/
def State.readAt (s : State) (die word : Nat) : Word × State :=
  let line := word / 64
  let s := ((s.countFetch die line (word % 64 / 16) false).ensureRead die line).fetchSector die line (word % 64 / 16)
  let v := match s.slice? die line with
    | some e => s.heldWord die line e (word % 64)
    | none => s.memWord word
  (v, s.settle die line)
/-- Read words coherently at a die. -/
def State.readWordsAt (s : State) (die word : Nat) : Nat → List Word × State
  | 0 => ([], s)
  | n + 1 =>
    let r := s.readAt die word
    let q := r.2.readWordsAt die (word + 1) n
    (r.1 :: q.1, q.2)
/-- Read `n` bytes of device memory coherently at a die. -/
def State.readBytesAt (s : State) (die pa n : Nat) : List Byte × State :=
  if n = 0 then ([], s)
  else
    let w := pa / 4
    let r := s.readWordsAt die w ((pa + n - 1) / 4 + 1 - w)
    (((r.1.flatMap bytesOfWord).drop (pa % 4)).take n, r.2)
/-- Read a 64-bit word coherently. -/
def State.readDwordAt (s : State) (die pa : Nat) : DWord × State :=
  let r := s.readBytesAt die pa 8
  (BitVec.ofNat 64 (natOfBytes r.1), r.2)

/-- The registrations of a core that are on their way. -/
def State.regs (s : State) (core : Nat) : List Reg := Tbl.get [] s.regq core
/-- The stores that a registration stands for. -/
def Reg.srcs (r : Reg) : List TrackEntry := r.puts.map Put.src
/-- A registration that has not been accepted and writes a part of its word only. -/
def Reg.narrow (r : Reg) : Bool := !r.accepted && r.mask != 15
/-- A store of an address space that is older than number `n` is still on its way to memory. -/
def State.storesBefore (s : State) (asid n : Nat) : Bool :=
  let old := fun (e : TrackEntry) => e.asid == asid && decide (e.seq < n)
  s.regq.any (fun x => x.2.any (fun r => r.srcs.any old)) || s.hostq.any (fun w => old w.src)
/-- Replace them. -/
def State.setRegs (s : State) (core : Nat) (l : List Reg) : State := { s with regq := Tbl.set [] s.regq core l }

/-- The slice accepts the registration of one word: earlier owners are revoked, a narrow store takes the bytes it did not
write from the current value (R58, R65-R67). The word's value before, and the state. -/
def State.accept (s : State) (core : Nat) (r : Reg) : Word × State :=
  let die := dieOf core
  let line := r.word / 64
  let i := r.word % 64
  let s := ((s.countOwned die line [i / 16]).ensureOwn die line).fetchSector die line (i / 16)
  match s.slice? die line with
  | none => (s.memWord r.word, s)
  | some e =>
    let cur := s.heldWord die line e i
    let prev := e.ownerCore die i
    if e.registered i && prev == core then (cur, s)
    else
      let s := if e.registered i then s.dropL1 prev r.word else s
      let s := match s.l1? core r.word with
        | some x => s.putL1 core r.word { x with val := mergeBytes r.mask x.val cur }
        | none => s.putL1 core r.word ⟨.pnd, cur⟩
      -- a copy of the other word of its 8 bytes may be older than the bytes taken here (R125)
      let s := match s.l1? core (r.word ^^^ 1) with
        | some ⟨.shr, _⟩ => s.dropL1 core (r.word ^^^ 1)
        | _ => s
      (cur, (s.putSlice die line { e.setSlot i (BitVec.ofNat 32 (core % 128)) with wm := putBit e.wm i true }).settle die line)
/-- A registration and those that follow it for the other word of an aligned 8 bytes in the same store, which go together (R125), and
the rest. -/
def regGroup : List Reg → List Reg × List Reg
  | [] => ([], [])
  | r :: l =>
    let same := fun (q : Reg) => q.word / 2 == r.word / 2 && q.srcs.head? == r.srcs.head? && !q.accepted
    (r :: l.takeWhile same, l.dropWhile same)
/-- Accept those of some registrations that are not accepted yet, in the order sent. -/
def State.acceptAll (s : State) (core : Nat) : List Reg → List Reg × State
  | [] => ([], s)
  | r :: l =>
    if r.accepted then let q := s.acceptAll core l; (r :: q.1, q.2)
    else
      let a := s.accept core r
      let q := a.2.acceptAll core l
      ({ r with accepted := true, old := a.1 } :: q.1, q.2)
/-- A store that has been performed needs no tracker entry any more (R210). -/
def State.performed (s : State) (core : Nat) (e : TrackEntry) : State :=
  if (s.regs core).any (fun q => q.srcs.contains e) || s.hostq.any (fun w => w.src == e) then s
  else { s with tracker := s.tracker.set [] core ((Tbl.get [] s.tracker core).filter (fun x => x != e)) }
/-- The I/O-switch die issues the oldest write to host memory that a core has sent (R63). -/
def State.issueHost (s : State) (core : Nat) : State :=
  match s.hostq.find? (fun w => w.core == core) with
  | none => s
  | some w =>
    { s with hostq := s.hostq.erase w, hostMem := Memory.write s.hostMem w.addr w.bytes }.performed core w.src
/-- Every write to host memory that a core has sent is issued (R60, R63). -/
def State.issueHosts (s : State) (core : Nat) : State := (List.range s.hostq.length).foldl (fun s _ => s.issueHost core) s
/-- The oldest registration of a core is accepted, with the other word of its 8 bytes where one store sent both; with none on its
way, the core's oldest write to host memory is issued (R58, R63, R125). -/
def State.acceptOne (s : State) (core : Nat) : State :=
  let l := s.regs core
  let done := l.takeWhile (fun r => r.accepted)
  match l.dropWhile (fun r => r.accepted) with
  | [] => s.issueHost core
  | rest =>
    let g := regGroup rest
    let a := s.acceptAll core g.1
    a.2.setRegs core (done ++ a.1 ++ g.2)
/-- How many registrations stand up to the last one of which `p` holds. -/
def throughLast (p : Reg → Bool) : List Reg → Nat
  | [] => 0
  | r :: l =>
    let n := throughLast p l
    if 0 < n then n + 1 else if p r then 1 else 0
/-- The registrations of a core up to the last one of which `p` holds are accepted in one step, in the order sent (R58, R87). -/
def State.acceptThrough (s : State) (core : Nat) (p : Reg → Bool) : State :=
  let l := s.regs core
  let n := throughLast p l
  if n = 0 then s
  else
    let a := s.acceptAll core (l.take n)
    a.2.setRegs core (a.1 ++ l.drop n)
/-- Take out the first accepted registration of a list. -/
def takeAccepted : List Reg → Option (Reg × List Reg)
  | [] => none
  | r :: l => if r.accepted then some (r, l) else (takeAccepted l).map (fun x => (x.1, r :: x.2))
/-- The oldest accepted registration is acknowledged: PND becomes OWN where the slice still records the core (R58). -/
def State.ackOne (s : State) (core : Nat) : State :=
  match takeAccepted (s.regs core) with
  | none => s
  | some (r, l) =>
    let s := r.srcs.foldl (fun s e => s.performed core e) (s.setRegs core l)
    let mine := match s.slice? (dieOf core) (r.word / 64) with
      | some e => e.registered (r.word % 64) && e.ownerCore (dieOf core) (r.word % 64) == core
      | none => false
    match s.l1? core r.word with
    | some ⟨.pnd, v⟩ =>
      if mine && !l.any (fun q => q.word == r.word) then s.putL1 core r.word ⟨.own, v⟩ else s
    | _ => s
/-- Accept and acknowledge everything a core has on its way, and issue its writes to host memory (R60, log 11). -/
def State.drain (s : State) (core : Nat) : State :=
  let n := (s.regs core).length
  let s := (List.range n).foldl (fun s _ => s.acceptOne core) s
  ((List.range n).foldl (fun s _ => s.ackOne core) s).issueHosts core

/-! ## Loads and stores of a core (R55, R57, R58) -/

/-- Lines of a core's L1 in the set of a line, of 128 sets: the line number modulo 128 names the set, for which R55 gives no index
(log 84). -/
def State.l1Lines (s : State) (core line : Nat) : List Nat :=
  ((s.l1.filter (fun e => e.1 / 2 ^ 52 == core && e.1 % 2 ^ 52 / 64 % 128 == line % 128)).map
    (fun e => e.1 % 2 ^ 52 / 64)).eraseDups
/-- An L1 set holds 8 lines: a ninth takes the place of one of them, whose PND words are registered first (R55, R62, log 84). -/
def State.l1Room (s : State) (core line : Nat) : State :=
  let l := s.l1Lines core line
  if l.contains line || decide (l.length < 8) then s
  else
    let v := l.getD (Config.l1Way s.tick line % l.length) 0
    (if (s.regs core).any (fun r => r.word / 64 == v) then s.drain core else s).l1Evict core v
/-- A sector read by a core: every valid word is installed in SHR, never over PND, OWN or PAR; an owner keeps its ownership, as R57
says and R61 does not (log 104). A word of the sector that waits with a part of its bytes written is accepted first, so that its other
bytes are no older than what comes in (R125, log 108). The read passes the core's registrations for other lines (log 109). -/
def State.sectorRead (s : State) (core word : Nat) : State :=
  let die := dieOf core
  let line := word / 64
  let sec := word % 64 / 16
  let s := (s.l1Room core line).acceptThrough core (fun r => r.narrow && r.word / 16 == word / 16)
  let s := ((s.countFetch die line sec false).ensureRead die line).fetchSector die line sec
  match s.slice? die line with
  | none => s
  | some e =>
    ((List.range 16).foldl (fun (s : State) j =>
      let i := sec * 16 + j
      match s.l1? core (line * 64 + i) with
      | some ⟨.pnd, _⟩ | some ⟨.own, _⟩ | some ⟨.par, _⟩ => s
      | _ => s.putL1 core (line * 64 + i) ⟨.shr, s.heldWord die line e i⟩) s).settle die line
/-- The core holds partials of a line in PAR: a load of the line is sent on (R75). -/
def State.holdsPar (s : State) (core line : Nat) : Bool :=
  match s.slice? (dieOf core) line with
  | some e => e.st == .u && e.holders.getLsbD (core % 128)
  | none => false
/-- A load of this word hits: SHR, PND or OWN, in a line of which the core holds no partial (R57, R75). -/
def State.hits (s : State) (core word : Nat) : Bool :=
  !s.holdsPar core (word / 64) && (match s.l1? core word with
    | some ⟨.shr, _⟩ | some ⟨.pnd, _⟩ | some ⟨.own, _⟩ => true
    | _ => false)
/-- A load's word: a hit, else through a sector read (R57). -/
def State.loadWord (s : State) (core word : Nat) : Word × State :=
  let s := if s.hits core word then s else s.sectorRead core word
  (match s.l1? core word with
    | some x => x.val
    | none => s.memWord word, s)

/-- Write a word, or bytes of it, as a store of a core (R58). -/
def State.storeWord (s : State) (core word : Nat) (mask : BitVec 4) (v : Word) (src : TrackEntry) : State :=
  match s.l1? core word with
  | some ⟨.own, old⟩ => s.putL1 core word ⟨.own, mergeBytes mask v old⟩
  | some ⟨.pnd, old⟩ =>
    (s.putL1 core word ⟨.pnd, mergeBytes mask v old⟩).setRegs core
      ((s.regs core).map (fun r => if r.word == word then
        { r with mask := if r.accepted then r.mask else r.mask ||| mask, puts := r.puts ++ [⟨src, mask, v⟩] } else r))
  | x =>
    -- a word that holds a partial: the merge recalls it before the store (R75)
    let s := match x with
      | some ⟨.par, _⟩ => s.ensureOwn (dieOf core) (word / 64)
      | _ => s.l1Room core (word / 64)
    let r := if mask = 15 then (v, s) else s.loadWord core word
    let s := r.2
    (s.putL1 core word ⟨.pnd, mergeBytes mask v r.1⟩).setRegs core (s.regs core ++ [{ word := word, mask := mask, accepted := false, puts := [⟨src, mask, v⟩] }])

/-- The registrations of two words stand one after the other, sent by one store. -/
def together (a b : Nat) : List Reg → Bool
  | x :: y :: l => (x.word == a && y.word == b && !x.accepted && !y.accepted && x.srcs.head? == y.srcs.head?) || together a b (y :: l)
  | _ => false
/-- Both words of a store of 8 aligned bytes are seen at one moment: where their registrations do not stand together, those up to
the later one are accepted now (R125, log 89). -/
def State.joinPair (s : State) (core word : Nat) : State :=
  if together word (word + 1) (s.regs core) then s else s.acceptThrough core (fun r => !r.accepted && r.word / 2 == word / 2)
/-- Both words of a load of 8 aligned bytes are read at one moment: a miss of either brings the sector in first (R57, R125). -/
def State.readyPair (s : State) (core word : Nat) : State :=
  if s.hits core word && s.hits core (word + 1) then s else s.sectorRead core word

/-- An acquire: every SHR word of the core becomes INV (R59). A word that waits with a part of its bytes written holds its other bytes
as they were read before: its registration is accepted first, which brings them up to date (R58, R122, R128, log 108). -/
def State.acquire (s : State) (core : Nat) : State :=
  let s := s.acceptThrough core Reg.narrow
  { s with l1 := s.l1.filter (fun e => e.1 / 2 ^ 52 != core || e.2.st != .shr) }

/-- The whole line is registered to the core in one step (R61). It passes the core's earlier registrations for other lines; those for
this line come first (log 109). -/
def State.atomLine (s : State) (core line : Nat) : State :=
  let s := if (s.regs core).any (fun r => r.word / 64 == line) then s.drain core else s
  let die := dieOf core
  let s := ((s.l1Room core line).countOwned die line [0, 1, 2, 3]).ensureOwn die line
  let s := (List.range 4).foldl (fun (s : State) sec => s.fetchSector die line sec) s
  (List.range 64).foldl (fun (s : State) i =>
    match s.slice? die line with
    | none => s
    | some e =>
      let w := line * 64 + i
      if e.registered i && e.ownerCore die i == core then s
      else
        let v := s.heldWord die line e i
        let s := if e.registered i then s.dropL1 (e.ownerCore die i) w else s
        (s.putL1 core w ⟨.own, v⟩).putSlice die line
          { e.setSlot i (BitVec.ofNat 32 (core % 128)) with wm := putBit e.wm i true }) s

/-- A core drops its copies in SHR of a word, or of a word and the next: what it has written elsewhere it reads there (R127). -/
def State.dropCopies (s : State) (core word : Nat) (wide : Bool) : State :=
  (if wide then [word, word + 1] else [word]).foldl (fun (s : State) w => match s.l1? core w with
    | some ⟨.shr, _⟩ => s.dropL1 core w
    | _ => s) s
/-- A die enters U for a RED: a line that dies hold in E, M or O goes to I first, for which R73 lists no RedU (log 9). -/
def State.admitRed (s : State) (die line uop : Nat) : State :=
  let m := s.lineMeta line
  let admitted : Bool := match s.slice? die line with
    | some e => e.st == .u && m.uop.toNat == uop
    | none => false
  (if admitted then s
  else
    let s := s.makeRoom die line
    (if m.st = .e ∨ m.st = .m ∨ m.st = .o then s.toI line else s).redU line die uop).touch die line
/-- Add an operand to a core's partial, or to its spill entry (R74). -/
def State.redPartial (s : State) (core word uop : Nat) (v : DWord) : State :=
  let die := dieOf core
  let line := word / 64
  let c := core % 128
  let s := if (s.regs core).any (fun r => r.word / 64 == line) then s.drain core else s
  let s := (s.l1Room core line).admitRed die line uop
  let r := redOfUop uop
  match s.slice? die line with
  | none => s
  | some e =>
    let spilled := e.spilled.getLsbD c
    let old := s.partial? line die c (word % 64) r.wide
    let new := match old with
      | none => v
      | some p => redNew r.op r.wide p v
    let s := s.dropCopies core word r.wide
    let put := fun (s : State) (i : Nat) (x : Word) =>
      if spilled then { s with spills := s.spills.put (spillKey line die c i) x } else s.putL1 core (line * 64 + i) ⟨.par, x⟩
    let s := put s (word % 64) (loWord new)
    let s := if r.wide then put s (word % 64 + 1) (hiWord new) else s
    (if spilled then s else s.putSlice die line { e with holders := putBit e.holders c true }).settle die line

end Sys2Proof.Machine
end

