-- ==== Sys2Proof/Machine/Translate.lean ====
section
/-! DEFINITION. Contexts, page walks, translation caches and host pages (01_address_spaces R14-R34, R50, R52). -/
namespace Sys2Proof.Machine

/-- Whose translation cache an access uses (R27). -/
inductive Via
  /-- The L1 TLB of a core. -/
  | core (p : Nat)
  /-- The walk-ahead TLB of a bed's TWE; beds are numbered over the package. -/
  | bed (b : Nat)
  /-- No cache of leaves: the device itself, and requests that arrive from the fabric. -/
  | device
  deriving DecidableEq, Repr

/-- The die from which a walk reads: the core's, or the bed's; the device's own walks read from die 0, and so use die 0's replicas,
which R52 leaves open (log 112). -/
def Via.die : Via → Nat
  | .core p => p / 128
  | .bed b => b / 16
  | .device => 0

/-- The outcome of checks 4 to 8 of R24. -/
inductive Xlate
  /-- A byte address, of device memory or of a host page. -/
  | ok (pa : Nat) (host : Bool)
  | page (sub : Nat)
  | prot (sub : Nat)
  /-- The walk read a poisoned line (R80). -/
  | corrupt
  | wait (r : Retry)
  deriving DecidableEq, Repr

/-! ## Contexts (R17, R18) -/

/-- One doubleword of a descriptor. -/
def dwAt (d : List DWord) (i : Nat) : Nat := (d.getD i 0).toNat
/-- V = 1 and every reserved field zero. -/
def ctxValid (d : List DWord) : Bool :=
  bitOf (dwAt d 0) 0 && decide (fld (dwAt d 0) 63 28 = 0) && decide (fld (dwAt d 1) 11 0 = 0) &&
    decide (fld (dwAt d 1) 63 52 = 0) && decide (fld (dwAt d 2) 13 1 = 0) && decide (fld (dwAt d 2) 63 52 = 0) &&
    decide (fld (dwAt d 3) 11 1 = 0) && decide (fld (dwAt d 3) 63 52 = 0) &&
    (List.range 4).all (fun i => decide (dwAt d (4 + i) = 0))
/-- FUNC of a descriptor. -/
def ctxFunc (d : List DWord) : Nat := fld (dwAt d 0) 7 1
/-- PASID of a descriptor. -/
def ctxPasid (d : List DWord) : Nat := fld (dwAt d 0) 27 8
/-- Physical address of the level-0 table. -/
def ctxPt (d : List DWord) : Nat := fld (dwAt d 1) 51 12 * 4096

/-- Read `n` doublewords of device memory coherently at a die. -/
def State.readDwordsAt (s : State) (die pa : Nat) : Nat → List DWord × State
  | 0 => ([], s)
  | n + 1 =>
    let r := s.readDwordAt die pa
    let q := r.2.readDwordsAt die (pa + 8) n
    (r.1 :: q.1, q.2)

/-- The descriptor of an ASID in the context table at CTXBASE; no table reads as zeros (R17, R445). -/
def State.ctxTable (s : State) (asid : Nat) : List DWord × State :=
  let base := (s.greg .ctxbase).toNat
  if base = 0 ∨ devTop < base + 64 * 4096 then ([], s)
  else s.readDwordsAt (homeDie ((base + 64 * asid) / 256)) (base + 64 * asid) 8
/-- The descriptor that a translation uses: the values kept while a launch of the ASID runs, else the table's (R17, R18). -/
def State.ctx (s : State) (asid : Nat) : List DWord × State :=
  match s.ctxs.find? asid with
  | some d => (d, s)
  | none => s.ctxTable asid
/-- FUNC of an ASID whose launch runs, else of its table entry. -/
def State.funcOf (s : State) (asid : Nat) : Nat := ctxFunc (s.ctx asid).1

/-! ## The walk (R19-R22) -/

/-- The end of a walk. -/
inductive Walked
  | leaf (log2 frame : Nat) (e : Nat)
  | bad (sub : Nat)
  | corrupt
  deriving DecidableEq, Repr

/-- A leaf at the level whose page size is 2^sh is well formed (R21). -/
def leafGood (sh e : Nat) : Bool :=
  let frame := fld e 51 12
  !bitOf e 11 && decide (fld e 63 52 = 0) && decide (sh ≠ 39) &&
    decide (frame % 2 ^ (sh - 12) = 0) && (!bitOf e 6 || decide (sh = 12)) &&
    (bitOf e 7 || decide (frame * 4096 + 2 ^ sh ≤ devTop)) &&
    !(bitOf e 7 && (bitOf e 8 || bitOf e 9 || bitOf e 10)) && !(bitOf e 10 && bitOf e 3)
/-- A run of 16 entries is valid, the reserved bits of each of them zero (R7, R20, R22, log 107). -/
def runGood (es : List DWord) : Bool :=
  let e0 := dwAt es 0
  decide (fld e0 51 12 % 16 = 0) && (List.range 16).all (fun i =>
    let e := dwAt es i
    bitOf e 0 && bitOf e 1 && bitOf e 6 && decide (fld e 11 2 = fld e0 11 2) && decide (fld e 63 52 = 0) &&
      decide (fld e 51 12 = fld e0 51 12 + i))

/-- Walk the levels whose index bits start at the listed positions, from the table at `base`; a table pointer with any bit set that
R20 marks as zero, bit 11 among them, is malformed (R7, log 107). -/
def State.walkFrom (s : State) (die va : Nat) : List Nat → Nat → Walked × State
  | [], _ => (.bad 2, s)
  | sh :: rest, base =>
    if devTop ≤ base then (.bad 2, s)
    else
      let ea := base + 8 * (va / 2 ^ sh % 512)
      if s.poisoned ea then (.corrupt, s)
      else
        let r := s.readDwordAt die ea
        let e := r.1.toNat
        let s := r.2
        if !bitOf e 0 then (.bad 1, s)
        else if !bitOf e 1 then
          if rest.isEmpty || decide (fld e 11 2 ≠ 0) || decide (fld e 63 52 ≠ 0) then (.bad 2, s)
          else s.walkFrom die va rest (fld e 51 12 * 4096)
        else if !leafGood sh e then (.bad 2, s)
        else if bitOf e 6 then
          let q := s.readDwordsAt die (ea / 128 * 128) 16
          if runGood q.1 then (.leaf 16 (fld (dwAt q.1 0) 51 12) e, q.2) else (.bad 2, q.2)
        else (.leaf sh (fld e 51 12) e, s)

/-- Walk an address of an ASID; a descriptor that is not valid finds no entry (R18). -/
def State.walk (s : State) (die asid va : Nat) : Walked × State :=
  let c := s.ctx asid
  if ctxValid c.1 then c.2.walkFrom die va [39, 30, 21, 12] (ctxPt c.1) else (.bad 1, c.2)

/-! ## Translation caches (R27, R28, R52) -/

/-- The leaves that a cache holds. -/
def State.tlbOf (s : State) (v : Via) : List (Nat × Nat × Tlb) :=
  match v with
  | .core p => Tbl.get [] s.tlbs p
  | .bed b => Tbl.get [] s.twe b
  | .device => []
/-- Put a leaf into a cache, which holds 192 of a core and 2,048 of a bed; the one that has been there longest gives way (R27,
log 84). -/
def State.addTlb (s : State) (v : Via) (e : Nat × Nat × Tlb) : State :=
  match v with
  | .core p => { s with tlbs := Tbl.set [] s.tlbs p ((e :: s.tlbOf v).take 192) }
  | .bed b => { s with twe := Tbl.set [] s.twe b ((e :: s.tlbOf v).take 2048) }
  | .device => s
/-- The cached leaf of an address: entries are (ASID, VA / page size, leaf). -/
def tlbFind (l : List (Nat × Nat × Tlb)) (asid va : Nat) : Option Tlb :=
  (l.find? (fun e => e.1 == asid && e.2.1 == va / 2 ^ e.2.2.log2)).map (fun e => e.2.2)
/-- The frame by which a die reaches a leaf: its replica where REP = 1 and it has one (R52). -/
def State.replicaFrame (s : State) (die asid va log2 frame e : Nat) : Nat :=
  if bitOf e 10 then
    match (s.replicas.find? (fun r => r.asid == asid && r.region == va / 65536 && r.die == die && r.dropped.isNone)).map Replica.frame with
    | some f => if log2 = 16 then f else f + va / 4096 % 16
    | none => frame
  else frame
/-- Permission of a leaf for a kind of access (R24 check 7): the PROT subcode of R25, if it fails. -/
def Tlb.denies (t : Tlb) (k : Access) : Option Nat :=
  match k with
  | .read => if t.r then none else some 2
  | .write => if t.w then none else some 3
  | .atomic => if t.a && t.w then none else some 4
  | .fetch => if t.x then none else some 5

/-- Check 8: the host page of a leaf, through the ATC (R27, R33). -/
def State.hostPage (s : State) (asid bus : Nat) : Xlate × State :=
  let c := s.ctx asid
  let s := c.2
  let key := (ctxPasid c.1, bus / 4096)
  match assoc s.atc (asid, key) with
  | some f => (.ok (f * 4096 + bus % 4096) true, s)
  | none =>
    if s.priDenied.contains key then (.prot 10, { s with priDenied := s.priDenied.erase key })
    else if s.priPending.contains key then (.page 3, s)
    else
      (.wait (.ats asid key.1 key.2),
        if s.atsPending.contains (asid, key) then s else { s with atsPending := s.atsPending ++ [(asid, key)] })

/-- Checks 7 and 8 on a leaf. -/
def State.useLeaf (s : State) (asid va : Nat) (t : Tlb) (k : Access) : Xlate × State :=
  match t.denies k with
  | some sub => (.prot sub, s)
  | none =>
    let a := t.frame * 4096 + va % 2 ^ t.log2
    if t.host then s.hostPage asid a else (.ok a false, s)

/-- Checks 4 to 6 of R24 for one byte address of local virtual space: a leaf of the cache, or one found by a walk, which is then
cached (R27, R28); a leaf with PLC makes its region known to the placement unit (R47, R48). -/
def State.leaf (s : State) (v : Via) (asid va : Nat) : Except Xlate Tlb × State :=
  match tlbFind (s.tlbOf v) asid va with
  | some t => (.ok t, s)
  | none =>
    let w := s.walk v.die asid va
    let s := w.2
    match w.1 with
    | .bad sub => (.error (.page sub), s)
    | .corrupt => (.error .corrupt, s)
    | .leaf log2 frame e =>
      if bitOf e 9 then (.error (.wait (.mig asid (va / 4096))), s)
      else
        let t : Tlb := ⟨log2, s.replicaFrame v.die asid va log2 frame e, bitOf e 2, bitOf e 3, bitOf e 4, bitOf e 5,
          bitOf e 7⟩
        let s := if bitOf e 8 && !s.regions.contains (asid, va / 65536) then { s with regions := s.regions ++ [(asid, va / 65536)] } else s
        (.ok t, s.addTlb v (asid, va / 2 ^ log2, t))
/-- Checks 4 to 8 of R24 for one byte address of local virtual space. -/
def State.translate (s : State) (v : Via) (asid va : Nat) (k : Access) : Xlate × State :=
  let x := s.leaf v asid va
  match x.1 with
  | .ok t => x.2.useLeaf asid va t k
  | .error e => (e, x.2)

/-- Bits [55:48] and [63:56] of an address (R14). -/
inductive Space
  | local_ | peer | bad
  deriving DecidableEq, Repr
/-- The space that an address names (R13, R14). -/
def spaceOf (va : Nat) : Space :=
  if va / 2 ^ 48 = 0 then .local_ else if va / 2 ^ 54 = 3 then .peer else .bad

/-- Discard the leaves of some pages of an ASID in every cache; a leaf that overlaps the range goes whole (R32). -/
def dropTlb (asid : Nat) (all : Bool) (lo hi : Nat) (l : List (Nat × Nat × Tlb)) : List (Nat × Nat × Tlb) :=
  l.filter (fun e => !(e.1 == asid && (all ||
    (decide (e.2.1 * 2 ^ e.2.2.log2 < hi) && decide (lo < (e.2.1 + 1) * 2 ^ e.2.2.log2)))))
/-- The same over a table of caches. -/
def dropTlbs (asid : Nat) (all : Bool) (lo hi : Nat) (m : Tbl (List (Nat × Nat × Tlb))) :
    Tbl (List (Nat × Nat × Tlb)) :=
  (m.map (fun e => (e.1, dropTlb asid all lo hi e.2))).filter (fun e => !e.2.isEmpty)

end Sys2Proof.Machine
end

