-- ==== Sys2Proof/Machine/Faults.lean ====
section
/-! DEFINITION. Trap codes, fault records and their queues, and signal objects (R215, R246, R380, R381, R447, R454). -/
namespace Sys2Proof.Machine

/-! ## Trap codes (R246) -/

/-- ILLEGAL. -/
def trapIllegal : Nat := 1
/-- ALIGN. -/
def trapAlign : Nat := 2
/-- PAGE. -/
def trapPage : Nat := 3
/-- PROT. -/
def trapProt : Nat := 4
/-- REMOTE. -/
def trapRemote : Nat := 5
/-- LAYOUT. -/
def trapLayout : Nat := 6
/-- EXTENT. -/
def trapExtent : Nat := 7
/-- DEADREG. -/
def trapDeadreg : Nat := 8
/-- WOUND. -/
def trapWound : Nat := 9
/-- STORE. -/
def trapStore : Nat := 10
/-- ENGINE. -/
def trapEngine : Nat := 11
/-- HANG. -/
def trapHang : Nat := 12
/-- LOCKPROTO. -/
def trapLock : Nat := 13
/-- SOFT. -/
def trapSoft : Nat := 14
/-- CORRUPT. -/
def trapCorrupt : Nat := 15
/-- PENDING. -/
def trapPending : Nat := 16
/-- HANDLE. -/
def trapHandle : Nat := 17

/-! ## Fault records and queues (R380, R381, R447) -/

/-- The 64 bytes of a fault record. -/
def FaultRec.pack (r : FaultRec) : List Byte :=
  let w0 := r.code % 256 + 256 * b2n r.precise + 512 * b2n r.exited + 1024 * b2n r.recoverable + 2048 * b2n r.killed +
    65536 * (r.sub % 65536) + 2 ^ 32 * (r.tid % 1024)
  let w4 := r.task % 2 ^ 24 + 2 ^ 24 * (r.peer % 1024)
  let w5 := r.lseq % 2 ^ 40 + 2 ^ 40 * (r.asid % 4096)
  [w0, r.va.toNat % 2 ^ 56, r.pc.toNat % 2 ^ 56, r.regionPc.toNat % 2 ^ 56, w4, w5, r.token % 2 ^ 32, 0].flatMap (bytesOfNat 8)
/-- log2 of the entries of a ring register; 0 names no ring. -/
def ringLog (v : DWord) : Nat := fld v.toNat 3 0
/-- Base of a ring register. -/
def ringBase (v : DWord) : Nat := fld v.toNat 51 12 * 4096
/-- Entries between head and tail. -/
def ringUse (tail head : DWord) : Nat := (tail.toNat + 2 ^ 32 - head.toNat % 2 ^ 32) % 2 ^ 32
/-- The ring names device memory and has room. -/
def ringRoom (ring tail head : DWord) (size : Nat) : Bool :=
  decide (ringLog ring ≠ 0) && decide (ringBase ring + size * 2 ^ ringLog ring ≤ devTop) &&
    decide (ringUse tail head < 2 ^ ringLog ring)
/-- Address of the entry that a tail names. -/
def ringSlot (ring tail : DWord) (size : Nat) : Nat := ringBase ring + size * (tail.toNat % 2 ^ ringLog ring)

/-- A record for a function's fault queue; a full or absent queue drops and counts it (R381). -/
def State.pushFault (s : State) (f : Nat) (r : FaultRec) : State :=
  let ring := s.freg f .fq
  let tail := s.freg f .fqtail
  if ringRoom ring tail (s.freg f .fqhead) 64 then
    (s.wrN (ringSlot ring tail 64) r.pack).bumpF f .fqtail
  else s.bumpF f .fqlost
/-- A record for a function's page-fault queue; it is held while there is no room, behind those already held (R381). -/
def State.pushPage (s : State) (f : Nat) (r : FaultRec) : State :=
  let ring := s.freg f .pfq
  let tail := s.freg f .pfqtail
  if s.heldPage.any (fun e => e.1 == f) || !ringRoom ring tail (s.freg f .pfqhead) 64 then
    { s with heldPage := s.heldPage ++ [(f, r)] }
  else (s.wrN (ringSlot ring tail 64) r.pack).bumpF f .pfqtail

/-! ## The device's own accesses (R454) -/

/-- Where checked bytes lie. -/
structure Loc where
  pa : Nat
  host : Bool
  deriving DecidableEq, Repr

/-- A word of memory as the device itself reads it. -/
def State.deviceRead (s : State) (l : Loc) (n : Nat) : List Byte × State :=
  if l.host then (Memory.bytes s.hostMem l.pa n, s) else s.readBytesAt (homeDie (l.pa / 256)) l.pa n
/-- The device's own write. -/
def State.deviceWrite (s : State) (l : Loc) (bytes : List Byte) : State :=
  if l.host then { s with hostMem := Memory.write s.hostMem l.pa bytes }.competeMem true l.pa bytes.length
  else s.wrN l.pa bytes
/-- An engine's write, from its die (R72). -/
def State.engineWrite (s : State) (die : Nat) (l : Loc) (bytes : List Byte) : State :=
  if l.host then { s with hostMem := Memory.write s.hostMem l.pa bytes }.competeMem true l.pa bytes.length
  else s.wrNAt die l.pa bytes
/-- The record of a signal that fails its checks (R454). -/
def signalRecord (code sub : Nat) (va : DWord) (asid lseq : Nat) : FaultRec :=
  { code := code, sub := sub, va := va, asid := asid, lseq := lseq, exited := true }
/-- What the checks of R454 find for a signal's address. -/
inductive SignalLoc
  | found (l : Loc)
  /-- A check failed, and its record is written. -/
  | bad
  /-- The access waits: its page migrates (R50), or a host page is not translated yet. -/
  | wait
  deriving DecidableEq, Repr
/-- The checks of R454 on a signal's address; a failure writes one record. -/
def State.signalLoc (s : State) (func asid lseq : Nat) (va : DWord) (k : Access) : SignalLoc × State :=
  let fail := fun (s : State) (c sub : Nat) => (SignalLoc.bad, s.pushFault func (signalRecord c sub va asid lseq))
  let a := va.toNat
  if spaceOf a = .bad then fail s trapProt 1
  else if a % 8 ≠ 0 then fail s trapAlign 0
  else if spaceOf a = .peer then fail s trapProt 6
  else
    let x := s.translate .device asid a k
    match x.1 with
    | .ok pa false => (.found ⟨pa, false⟩, x.2)
    | .ok pa true => if k = .read then (.found ⟨pa, true⟩, x.2) else fail x.2 trapProt 9
    | .page sub => fail x.2 trapPage sub
    | .prot sub => fail x.2 trapProt sub
    | .corrupt => fail x.2 trapCorrupt 0
    | .wait (.ats _ _ _) => if k = .read then (.wait, x.2) else fail x.2 trapProt 9
    | .wait _ => (.wait, x.2)
/-- Subtract from a signal object as one atomic release, after ORing bit 63 for an error; where the page migrates, the
decrement waits (R215, R31, R50). -/
def State.signalDec (s : State) (func asid lseq : Nat) (va : DWord) (err : Bool) (n : DWord) : State :=
  if va = 0 then s
  else
    let l := s.signalLoc func asid lseq va .atomic
    match l.1 with
    | .bad => l.2
    | .wait => { l.2 with heldSignals := l.2.heldSignals ++ [⟨func, asid, lseq, va, err, n⟩] }
    | .found p =>
      let r := l.2.deviceRead p 8
      let v := BitVec.ofNat 64 (natOfBytes r.1)
      let v := if err then v ||| (1 : DWord) <<< 63 else v
      r.2.deviceWrite p (bytesOfNat 8 (v - n).toNat)
/-- A decrement of a signal would wait for its page now (R50). -/
def State.signalWaits (s : State) (asid : Nat) (va : DWord) : Bool × State :=
  if va ≠ 0 ∧ spaceOf va.toNat = .local_ ∧ va.toNat % 8 = 0 then
    let x := s.translate .device asid va.toNat .atomic
    (match x.1 with
      | .wait (.mig _ _) => true
      | _ => false, x.2)
  else (false, s)
/-- Every decrement that waits is tried again, oldest first (R50). -/
def State.retrySignals (s : State) : State :=
  s.heldSignals.foldl (fun s h => s.signalDec h.func h.asid h.lseq h.va h.err h.n) { s with heldSignals := [] }

end Sys2Proof.Machine
end

