-- ==== Sys2Proof/Machine/Regs.lean ====
section
/-! DEFINITION. Registers, flags, masks, pending results, region bookkeeping and waiting of one thread (R227-R234, R388). -/
namespace Sys2Proof.Machine

/-! ## Where a thread stands -/

/-- Physical core of a thread. -/
def State.coreOf (s : State) (t : ThreadRef) : Nat := (s.task t.task).phys
/-- ASID of a thread. -/
def State.asidOf (s : State) (t : ThreadRef) : Nat := (s.task t.task).asid
/-- Key of a petal (R201). -/
def petalKey (core petal : Nat) : Nat := 4 * core + petal
/-- The petal of a thread (R201). -/
def State.petalOf (s : State) (t : ThreadRef) : Nat := petalKey (s.coreOf t) (posyOf t % 4)
/-- The launch runs under STRICT (R233, R360). -/
def State.strictOf (s : State) (t : ThreadRef) : Bool := (s.task t.task).strict

/-! ## Reading (R227, R233, R234) -/

/-- A register is the destination of a result that has not returned. -/
def pendHas (l : List (List (Nat × Word))) (n : Nat) : Bool := l.any (fun e => e.any (fun p => p.1 == n))
/-- What a word of the current group reads: within a chained group, the registers as they stood before it (R232). -/
def Thread.view (th : Thread) : OldRegs :=
  match th.old with
  | some o => o
  | none => { regs := th.regs, flags := th.flags, fcr := th.fcr, dead := th.dead, pend := th.pend }
/-- One register; a pending or dead one gives a free value (R233, R234, log 4). -/
def OldRegs.read (o : OldRegs) (tick key n : Nat) : Word :=
  if o.dead.getLsbD n || pendHas o.pend n then Config.freeRead tick key n else Tbl.get 0 o.regs n
/-- read_g. -/
def State.readG (s : State) (t : ThreadRef) (n : Nat) : Word := (s.thread t).view.read s.tick (tkey t) n
/-- read_pair (R4). -/
def State.readPair (s : State) (t : ThreadRef) (n : Nat) : DWord := pairOf (s.readG t n) (s.readG t (n + 1))
/-- `n` registers from `d`, ascending. -/
def State.readRun (s : State) (t : ThreadRef) (d n : Nat) : List Word := (List.range n).map (fun i => s.readG t (d + i))
/-- read_f: f7 reads 1. -/
def State.readF (s : State) (t : ThreadRef) (n : Nat) : Bool := n == 7 || (s.thread t).view.flags.getLsbD n
/-- FCR as a word of the current group reads it. -/
def State.readFcr (s : State) (t : ThreadRef) : Word := (s.thread t).view.fcr

/-! ## Writing -/

/-- write_g on a thread: the register is live again (R234). -/
def Thread.setG (th : Thread) (n : Nat) (v : Word) : Thread :=
  { th with regs := th.regs.set 0 n v, dead := putBit th.dead n false }
/-- Write words to ascending registers of a thread. -/
def Thread.setRun (th : Thread) (d : Nat) : List Word → Thread
  | [] => th
  | w :: r => (th.setG d w).setRun (d + 1) r
/-- write_g. -/
def State.writeG (s : State) (t : ThreadRef) (n : Nat) (v : Word) : State := s.modThread t (fun th => th.setG n v)
/-- Words to ascending registers. -/
def State.writeRun (s : State) (t : ThreadRef) (d : Nat) (ws : List Word) : State :=
  s.modThread t (fun th => th.setRun d ws)
/-- The two words of a pair. -/
def wordsOf (v : DWord) : List Word := [loWord v, hiWord v]
/-- write_pair. -/
def State.writePair (s : State) (t : ThreadRef) (n : Nat) (v : DWord) : State := s.writeRun t n (wordsOf v)
/-- write_f: f7 takes no write. -/
def State.writeF (s : State) (t : ThreadRef) (n : Nat) (b : Bool) : State :=
  if n = 7 then s else s.modThread t (fun th => { th with flags := putBit th.flags n b })
/-- Set the sticky flags of FCR (R189, R190): bits [12:8]. -/
def State.orFcr (s : State) (t : ThreadRef) (fl : Nat) : State :=
  s.modThread t (fun th => { th with fcr := th.fcr ||| (BitVec.ofNat 32 (fl % 32) <<< 8) })
/-- The registers of these runs have been read for the last time (R234). -/
def Thread.useRuns (th : Thread) (runs : List Run) : Thread :=
  { th with dead := (runRegs runs).foldl (fun d n => putBit d n true) th.dead }
/-- The registers of these runs have been read for the last time (R234). -/
def State.useLast (s : State) (t : ThreadRef) (runs : List Run) : State := s.modThread t (fun th => th.useRuns runs)

/-! ## Variable-latency results (R233) -/

/-- A result is on its way to ascending registers. -/
def State.result (s : State) (t : ThreadRef) (d : Nat) (ws : List Word) : State :=
  s.modThread t (fun th => { th with pend := th.pend ++ [(List.range ws.length).map (fun i => (d + i, ws.getD i 0))] })
/-- One returned result is written. -/
def Thread.land (th : Thread) (e : List (Nat × Word)) : Thread := e.foldl (fun th p => th.setG p.1 p.2) th
/-- The oldest result returns. -/
def Thread.returnOne (th : Thread) : Thread :=
  match th.pend with
  | [] => th
  | e :: r => { th with pend := r }.land e
/-- Every outstanding result returns, oldest first. -/
def Thread.drain (th : Thread) : Thread := { th.pend.foldl Thread.land th with pend := [] }
/-- Every outstanding result of a thread returns. -/
def State.drainPend (s : State) (t : ThreadRef) : State := s.modThread t Thread.drain

/-! ## Control -/

/-- The word after the current one. -/
def State.advance (s : State) (t : ThreadRef) : State := s.modThread t (fun th => { th with pc := th.pc + 4 })
/-- next_pc. -/
def State.jump (s : State) (t : ThreadRef) (target : DWord) : State :=
  s.modThread t (fun th => { th with pc := target, jumped := true })
/-- A region opens at an address (R388): REGIONPC, the registers live into it, and the rounding mode at its entry (R190). -/
def Thread.open_ (th : Thread) (pc : DWord) : Thread :=
  { th with regionPc := pc, liveIn := ~~~th.dead, regionRm := th.fcr.truncate 2, boundary := true }
/-- commit_point() of a word: the region that opens starts at the word after it. -/
def State.commit (s : State) (t : ThreadRef) : State := s.modThread t (fun th => th.open_ (th.pc + 4))
/-- commit_point() where the next word's address is already in the pc. -/
def State.commitHere (s : State) (t : ThreadRef) : State := s.modThread t (fun th => th.open_ th.pc)
/-- commit_point() of a word that transfers control. -/
def State.commitTo (s : State) (t : ThreadRef) (target : DWord) : State := s.modThread t (fun th => th.open_ target)
/-- A wait, or an end, that a CTL word's commit point comes before: those of R388 but for LAUNCH, whose commit point comes after. -/
def Status.committed : Status → Bool
  | .parked (.phase _) | .parked (.xsucc _) | .parked .tracker | .parked (.sigw _ _ _ _) | .exiting => true
  | _ => false
/-- Rollback (R388, R190): the region runs again from its entry; outstanding results are discarded, registers live into the
region keep their values, and RM returns to its value at entry. Where a CTL word has opened the region after its group and waits, the
thread waits there (log 27). -/
def Thread.rollback (th : Thread) (tick : Nat) : Thread :=
  { th with pc := th.regionPc, pend := [], dead := th.dead &&& ~~~th.liveIn,
            fcr := (th.fcr &&& ~~~(3 : Word)) ||| th.regionRm.zeroExtend 32, status := (th.second.filter Status.committed).getD .ready, since := tick, old := none, second := none }
/-- Roll a thread back. -/
def State.rollback (s : State) (t : ThreadRef) : State := s.modThread t (fun th => th.rollback s.tick)

/-! ## Waiting (R222) -/

/-- A thread that has not ended parks. -/
def State.park (s : State) (t : ThreadRef) (w : Wait) : State :=
  s.modThread t (fun th => if th.status == .ended then th else { th with status := .parked w })
/-- The word that runs leaves a thread in a state; where another word of its group has already made it wait, after that wait (R232,
log 27). -/
def State.stand (s : State) (t : ThreadRef) (st : Status) : State :=
  s.modThread t (fun th =>
    if th.status == .ended then th
    else if th.status != .ready && th.second.isSome then { th with second := some st }
    else { th with status := st })
/-- A thread's wait is over: it is ready, or as the CTL word of its group has left it; its petal wakes (R222). -/
def State.wake (s : State) (t : ThreadRef) : State :=
  { s.modThread t (fun th => { th with status := th.second.getD .ready, since := s.tick, second := none }) with
      gates := s.gates.erase (s.petalOf t) }
/-- One of the waits of a thread is over. -/
def State.release (s : State) (t : ThreadRef) (w : Wait) : State :=
  if (s.thread t).second = some (.parked w) then s.modThread t (fun th => { th with second := some .ready }) else s.wake t
/-- The thread waits so, by itself or after another word's wait. -/
def Thread.waitsFor (th : Thread) (w : Wait) : Bool := th.status == .parked w || th.second == some (.parked w)
/-- The thread waits, as R222 lists its waits. -/
def Status.waits : Status → Bool
  | .parked w =>
    match w with
    | .retry _ | .skrel _ _ | .lkrall => false
    | _ => true
  | _ => false
/-- The threads of a petal that have not ended. -/
def State.petalThreads (s : State) (core petal : Nat) : List Thread :=
  (s.threads.map Prod.snd).filter (fun th => th.status != .ended && (posyOf th.ref % 4 == petal) &&
    ((s.tasks.find? th.task).map (fun k => k.phys == core && (k.status == .resident || k.status == .saving))).getD false)
/-- A petal all of whose threads wait is clock-gated at once (R222). -/
def State.gatePetal (s : State) (key : Nat) : State :=
  let ths := s.petalThreads (key / 4) (key % 4)
  if !ths.isEmpty && ths.all (fun th => th.status.waits) && (s.gates.find? key).isNone then
    { s with gates := s.gates.put key .clock } else s

/-- The thread's task is on its core and not being saved. -/
def State.isResident (s : State) (t : ThreadRef) : Bool := (s.task t.task).status == .resident

/-! ## Masks (R205) -/

/-- Key of a mask of the thread's posy. -/
def maskKey (t : ThreadRef) (k : Nat) : Nat := 12 * posyOf t + k
/-- Lanes of posy `q` that hold a thread of a task with `n` threads. -/
def posyLanes (n q : Nat) : Word :=
  let m := n - 32 * q
  if 32 ≤ m then BitVec.allOnes 32 else (1#32 <<< m) - 1
/-- read_k. -/
def State.readK (s : State) (t : ThreadRef) (k : Nat) : Word := Tbl.get 0 (s.task t.task).masks (maskKey t k)
/-- The phase state of a mask. -/
def State.phase (s : State) (t : ThreadRef) (k : Nat) : Phase := Tbl.get {} (s.task t.task).phases (maskKey t k)
/-- write_k: bits of lanes that hold no thread are not written (R205). -/
def State.writeK (s : State) (t : ThreadRef) (k : Nat) (v : Word) : State :=
  s.modTask t.task (fun x => { x with masks := x.masks.set 0 (maskKey t k) (v &&& posyLanes x.threads (posyOf t)) })
/-- Replace the phase state of a mask. -/
def State.setPhase (s : State) (t : ThreadRef) (k : Nat) (p : Phase) : State :=
  s.modTask t.task (fun x => { x with phases := x.phases.set {} (maskKey t k) p })
/-- The thread's bit. -/
def laneBit (t : ThreadRef) : Word := 1#32 <<< laneOf t
/-- The thread is a member of a mask (R205). -/
def State.member (s : State) (t : ThreadRef) (k : Nat) : Bool := (s.readK t k).getLsbD (laneOf t)
/-- The thread of a posy on a lane. -/
def onLane (t : ThreadRef) (i : Nat) : ThreadRef := ⟨t.task, 32 * posyOf t + i⟩

end Sys2Proof.Machine
end

