-- ==== Sys2Proof/Machine/LockOps.lean ====
section
/-! DEFINITION. The lock managers: modes, grant test, wounds, the request state table, revocation (03_lock_manager). -/
namespace Sys2Proof.Machine

/-- `a` covers `b` (R96); modes 0 IS, 1 IX, 2 S, 3 SIX, 4 X, 5 INC. -/
def covers (a b : Nat) : Bool :=
  match a with
  | 0 => b == 0
  | 1 => decide (b < 2)
  | 2 => b == 0 || b == 2
  | 3 => decide (b < 4)
  | 4 => true
  | _ => b == 5
/-- Child modes that a parent held in mode `p` permits (R100). -/
def permits (p m : Nat) : Bool :=
  match p with
  | 0 => m == 0 || m == 2
  | 1 => true
  | 2 => m == 0 || m == 2
  | 3 => decide (m < 5)
  | 4 => true
  | _ => m == 0 || m == 5
/-- Upgrades that LKUPG makes: S→X, IX→SIX, IX→X (R107). -/
def upgradeOk (m m' : Nat) : Bool := (m == 2 && m' == 4) || (m == 1 && (m' == 3 || m' == 4))
/-- Age `p` is older than age `q` (R101). -/
def older (p q : Nat) : Bool :=
  let d := (q / 2 ^ 24 + 2 ^ 40 - p / 2 ^ 24 % 2 ^ 40) % 2 ^ 40
  (decide (1 ≤ d) && decide (d < 2 ^ 39)) || (decide (d = 0) && decide (p % 2 ^ 24 < q % 2 ^ 24))
/-- Modes i held and j requested go together under a matrix (R97). -/
def compat (cfg : DWord) (i j : Nat) : Bool := cfg.getLsbD (6 * i + j)
/-- GRACE of a domain, in µs (R98). -/
def State.grace (s : State) (domain : Nat) : Nat := fld (s.greg (.lkcfg domain)).toNat 63 48

/-- The mode an entry holds. -/
def LockSt.held? : LockSt → Option Nat
  | .wait _ => none
  | .held m => some m
  | .upg m _ => some m
/-- The mode an entry waits for. -/
def LockSt.waits? : LockSt → Option Nat
  | .wait m => some m
  | .held _ => none
  | .upg _ m => some m

/-- The entry of a task on a lock; none is state NONE. -/
def State.lock? (s : State) (task : Nat) (n : LockName) : Option Lock :=
  s.locks.find? (fun e => e.task == task && e.name == n)
/-- The entries of a lock. -/
def State.locksOn (s : State) (n : LockName) : List Lock := s.locks.filter (fun e => e.name == n)
/-- The entries of a task. -/
def State.locksOf (s : State) (task : Nat) : List Lock := s.locks.filter (fun e => e.task == task)
/-- Change the state of a task's entry. -/
def State.setLock (s : State) (task : Nat) (n : LockName) (st : LockSt) : State :=
  { s with locks := s.locks.map (fun e => if e.task == task && e.name == n then { e with st := st } else e) }
/-- LOCKHINT of a line follows whether a line-level entry exists (R110). -/
def State.fixHint (s : State) (line : Option Nat) : State :=
  match line with
  | none => s
  | some l => s.setMeta l { s.lineMeta l with hint := s.locks.any (fun e => e.line == some l) }
/-- Free a task's entry. -/
def State.freeLock (s : State) (task : Nat) (n : LockName) : State :=
  let line := (s.lock? task n).bind Lock.line
  { s with locks := s.locks.filter (fun e => !(e.task == task && e.name == n)) }.fixHint line

/-! ## The tests (R104, R105) -/

/-- Holders that block a request of a task for a mode, under the matrix the request arrived with (R99, R104). -/
def State.blockers (s : State) (cfg : DWord) (n : LockName) (task m : Nat) : List Lock :=
  (s.locksOn n).filter (fun e => e.task != task &&
    (match e.st.held? with
      | some i => !compat cfg i m
      | none => false))
/-- The grant test of a fresh acquire (R104). -/
def State.grantFresh (s : State) (cfg : DWord) (n : LockName) (task m : Nat) : Bool :=
  (s.blockers cfg n task m).isEmpty && (s.locksOn n).all (fun e => e.task == task ||
    (match e.st.waits? with
      | some w => !(older e.task task) || compat cfg w m
      | none => true))
/-- The test of a waiting entry. -/
def State.waiterPasses (s : State) (e : Lock) : Bool :=
  match e.st with
  | .wait m => s.grantFresh e.cfg e.name e.task m
  | .upg _ m => (s.blockers e.cfg e.name e.task m).isEmpty
  | .held _ => false
/-- The oldest waiting entry of a lock whose test passes. -/
def State.nextGrant (s : State) (n : LockName) : Option Lock :=
  ((s.locksOn n).filter s.waiterPasses).foldl (fun b e =>
    match b with
    | none => some e
    | some x => if older e.task x.task then some e else b) none
/-- A task that a waiting entry of the lock wounds: it blocks, is younger and is not wounded yet (R105). -/
def State.nextWound (s : State) (n : LockName) : Option Nat :=
  ((s.locksOn n).findSome? (fun q =>
    match q.st.waits? with
    | none => none
    | some m => (s.blockers q.cfg n q.task m).find? (fun h => older q.task h.task && !(s.task h.task).wounded))).map Lock.task

/-! ## Effects -/

/-- A parked request ends: its status is written, its word is a commit point, and its thread goes on (R107, R281). -/
def State.answer (s : State) (t : ThreadRef) (h status : Nat) : State :=
  if (s.thread t).status == .ended then s
  else (((s.writeG t h (BitVec.ofNat 32 status)).commitHere t).wake t)
/-- The thread that waits in an entry, with its H register. -/
def State.waiterOf (s : State) (e : Lock) : Option (ThreadRef × Nat) :=
  match (s.thread ⟨e.task, e.tid⟩).status with
  | .parked (.lock n h) => if n == e.name then some (⟨e.task, e.tid⟩, h) else none
  | _ => none
/-- A waiting entry is granted: status WAITED, an acquire (R107, R111). -/
def State.grant (s : State) (e : Lock) : State :=
  let m := (e.st.waits?).getD 0
  let s := s.setLock e.task e.name (.held m)
  match s.waiterOf e with
  | some (t, h) => (s.acquire (s.coreOf t)).answer t h 2
  | none => s
/-- A WOUND trap becomes pending in every thread of a task. -/
def State.woundPending (s : State) (task : Nat) : State :=
  (s.liveOf task).foldl (fun s th => s.modThread th.ref (fun th => { th with wound := some (th.wound.getD th.regionPc) })) s
/-- Every lock of a task is revoked, at every level and home (R106). -/
def State.revoke (s : State) (task : Nat) : State :=
  (s.locksOf task).foldl (fun s e => s.freeLock task e.name) s
/-- A task is wounded (R105, R113): flag, timer, and its waiting requests end with WOUNDED. -/
def State.woundTask (s : State) (task domain : Nat) : State :=
  let s := s.modTask task (fun k => { k with wounded := true })
  let s := (s.locksOf task).foldl (fun s e =>
    match e.st with
    | .held _ => s
    | .wait _ =>
      let w := s.waiterOf e
      let s := s.freeLock task e.name
      match w with
      | some (t, h) => s.answer t h 1
      | none => s
    | .upg m _ =>
      let w := s.waiterOf e
      let s := s.setLock task e.name (.held m)
      match w with
      | some (t, h) => s.answer t h 1
      | none => s) s
  if (s.task task).status == .saved ∨ s.grace domain = 0 then (s.revoke task).woundPending task
  else s.modTask task (fun k => { k with grace := true })

/-- What a request comes to (R107). -/
inductive LockAnswer
  | status (k : Nat)
  | trap (sub : Nat)
  | park
  | held
  deriving DecidableEq, Repr

/-- The intention rule holds for a request (R100). -/
def State.intention (s : State) (task : Nat) (parent : Option LockName) (m : Nat) : Bool :=
  match parent with
  | none => true
  | some p =>
    match (s.lock? task p).bind (fun e => e.st.held?) with
    | some pm => permits pm m
    | none => false
/-- Entries in a home agent's table, and in its overflow region (R109). -/
def State.tableUse (s : State) (home : Nat) (ovr : Bool) : Nat :=
  (s.locks.filter (fun e => e.home == home && e.overflowed == ovr)).length
/-- Entries the overflow region can take: 1,024 for each 64 KiB unit (R109, R447). -/
def State.overflowRoom (s : State) (home : Nat) : Nat := fld (s.greg (.lkovf home)).toNat 15 0 * 1024
/-- The least recently used HELD entry in a table. -/
def State.lruHeld (s : State) (home : Nat) : Option Lock :=
  (s.locks.filter (fun e => e.home == home && !e.overflowed && (e.st.waits?).isNone)).foldl (fun b e =>
    match b with
    | none => some e
    | some x => if e.used < x.used then some e else b) none
/-- The entries of a requested lock return to the table (R109). -/
def State.unoverflow (s : State) (n : LockName) : State :=
  { s with locks := s.locks.map (fun e => if e.name == n then { e with overflowed := false, used := s.tick } else e) }
/-- Move least recently used HELD entries out while a table holds more than its 8,192 (R109). -/
def State.spillLocks (s : State) (home : Nat) : Nat → State
  | 0 => s
  | k + 1 =>
    if s.tableUse home false ≤ 8192 then s
    else
      match s.lruHeld home with
      | none => s
      | some x =>
        State.spillLocks { s with locks := s.locks.map (fun e =>
          if e.name == x.name && e.task == x.task then { e with overflowed := true } else e) } home k
/-- A new entry (R109, R110). -/
def State.newLock (s : State) (t : ThreadRef) (r : LockReq) (st : LockSt) : State :=
  let e : Lock := { name := r.name, task := t.task, st := st, tid := t.tid, home := r.home, parent := r.parent,
                    line := r.line, used := s.tick, overflowed := false, cfg := r.cfg }
  ((({ s with locks := s.locks ++ [e] }).spillLocks r.home (s.locks.length + 1)).fixHint r.line)
/-- The table and the region are both full, or the table holds no entry that may move (R109). -/
def State.tablesFull (s : State) (home : Nat) : Bool :=
  decide (8192 ≤ s.tableUse home false) &&
    (decide (s.overflowRoom home ≤ s.tableUse home true) || (s.lruHeld home).isNone)

/-- Apply the row of R107 for LKACQ and LKUPG by a thread, under the matrix with which its request arrived (R99); whether the table
and the region are full is asked before the lock's own entries return to the table (R109). MODE and NOTHELD, whose rows do not ask
for WOUNDED, trap in a wounded task too (R106, log 111). -/
def State.lockRow (s : State) (t : ThreadRef) (r : LockReq) : LockAnswer × State :=
  let full := s.tablesFull r.home
  let s0 := s
  let s := (s.unoverflow r.name).spillLocks r.home (s.locks.length + 1)
  let wounded := (s.task t.task).wounded
  let cfg := r.cfg
  match s.lock? t.task r.name with
  | none =>
    if r.upgrade then (.trap 3, s)
    else if wounded then (.status 1, s)
    else if !s.intention t.task r.parent r.mode then (.trap 1, s)
    else if full then (.trap 6, s0)
    else if s.grantFresh cfg r.name t.task r.mode then (.status 0, s.newLock t r (.held r.mode))
    else (.park, s.newLock t r (.wait r.mode))
  | some e =>
    match e.st with
    | .wait _ | .upg _ _ => (.held, s)
    | .held m =>
      if !r.upgrade then
        if covers m r.mode then (.status (if wounded then 1 else 0), s) else (.trap 2, s)
      else if !upgradeOk m r.mode then (.trap 2, s)
      else if wounded then (.status 1, s)
      else if !s.intention t.task r.parent r.mode then (.trap 1, s)
      else if (s.blockers cfg r.name t.task r.mode).isEmpty then (.status 0, s.setLock t.task r.name (.held r.mode))
      else
        (.park, { s with locks := s.locks.map (fun x => if x.task == t.task && x.name == r.name then
          { x with st := .upg m r.mode, tid := t.tid, cfg := cfg } else x) })

/-- A thread held behind a request that has left WAIT and UPG. -/
def State.heldFree (s : State) (th : Thread) : Option (ThreadRef × LockReq) :=
  match th.status with
  | .parked (.lockHeld r) =>
    match (s.lock? th.task r.name).map Lock.st with
    | some (.wait _) | some (.upg _ _) => none
    | _ => some (th.ref, r)
  | _ => none
/-- The held-back request that arrived first; of one issue, that of the lowest (TASK, TID) (R103). -/
def State.heldReady (s : State) : Option (ThreadRef × LockReq) :=
  (s.threads.filterMap (fun e => s.heldFree e.2)).foldl (fun b x =>
    match b with
    | none => some x
    | some y => if x.2.at_ < y.2.at_ then some x else b) none

/-- Grants, wounds and held-back requests until nothing changes, at most `fuel` times (R104, R105, R107). The traps that
held-back requests meet are handed back. -/
def State.settleLocks : Nat → State → List (ThreadRef × DWord × Nat) → State × List (ThreadRef × DWord × Nat)
  | 0, s, tr => (s, tr)
  | k + 1, s, tr =>
    match s.heldReady with
    | some (t, r) =>
      let a := s.lockRow t r
      let s := a.2
      match a.1 with
      | .status st =>
        let s := if st = 0 then s.acquire (s.coreOf t) else s
        State.settleLocks k (s.answer t r.h st) tr
      | .trap sub => State.settleLocks k (s.wake t) (tr ++ [(t, r.pc, sub)])
      | .park => State.settleLocks k (s.park t (.lock r.name r.h)) tr
      | .held => State.settleLocks k s tr
    | none =>
      match s.locks.findSome? (fun e => s.nextGrant e.name) with
      | some e => State.settleLocks k (s.grant e) tr
      | none =>
        match s.locks.findSome? (fun e => (s.nextWound e.name).map (fun w => (w, e.name.domain))) with
        | some (w, d) => State.settleLocks k (s.woundTask w d) tr
        | none => (s, tr)
/-- Enough turns: every turn ends a wait, wounds a task or answers a held-back thread. -/
def State.lockFuel (s : State) : Nat := 4 * (s.locks.length + s.threads.length + 2)

end Sys2Proof.Machine
end

