-- ==== Sys2Proof/Machine/Ops.lean ====
section
/-! DEFINITION. What ends a word for a lane; taking an exception, killing a task and parking for a page
(R376-R379, R389); running a word for the lanes of an issue. -/
namespace Sys2Proof.Machine

/-! ## Outcomes of one lane -/

/-- A lane's word completes with a value, or stops. -/
inductive Res (α : Type)
  | ok (v : α) (s : State)
  | stop (r : Stop) (s : State)

/-- Go on with the value, if there is one. -/
def Res.andThen {α β : Type} (r : Res α) (f : α → State → Res β) : Res β :=
  match r with
  | .ok v s => f v s
  | .stop x s => .stop x s
/-- A trap. -/
def Res.trap {α : Type} (code sub : Nat) (s : State) : Res α := .stop (.trap { code := code, sub := sub }) s
/-- A trap that names an address. -/
def Res.trapAt {α : Type} (code sub : Nat) (va : DWord) (s : State) : Res α :=
  .stop (.trap { code := code, sub := sub, va := va }) s
/-- Stop unless a condition holds. -/
def Res.guard {α : Type} (c : Bool) (code sub : Nat) (s : State) (k : Res α) : Res α :=
  if c then k else Res.trap code sub s

/-- The record of a trap of a thread at its current word (R380). -/
def State.recordOf (s : State) (t : ThreadRef) (i : TrapInfo) : FaultRec :=
  let th := s.thread t
  let k := s.task t.task
  { code := i.code, sub := i.sub, precise := true, tid := t.tid, va := i.va, pc := th.pc, regionPc := th.regionPc,
    task := k.num, peer := i.peer, lseq := k.lseq, asid := k.asid }

/-! ## Threads and tasks end (R210-R212, R379, R391) -/

/-- Traps still pending when a thread ends become records with EXITED set, a STORE's with PRECISE clear (R391), each written as a
release (R381). -/
def State.flushTraps (s : State) (t : ThreadRef) : State :=
  let th := s.thread t
  let f := (s.task t.task).func
  let s := if th.stores.isEmpty && th.wound.isNone then s else s.drain (s.coreOf t)
  let s := th.stores.foldl (fun s r => s.pushFault f { r with exited := true, precise := false }) s
  let s := match th.wound with
    | some p => s.pushFault f { s.recordOf t { code := trapWound, sub := 0 } with exited := true, regionPc := p }
    | none => s
  s.modThread t (fun th => { th with stores := [], wound := none })
/-- A lock manager's traps as lanes' traps. -/
def lockTraps (l : List (ThreadRef × DWord × Nat)) : List (ThreadRef × DWord × TrapInfo) :=
  l.map (fun x => (x.1, x.2.1, { code := trapLock, sub := x.2.2 }))
/-- Waiting lock requests are tested again (R104, R105); what traps is handed back. -/
def State.recheckLocks (s : State) : State × List (ThreadRef × DWord × TrapInfo) :=
  let r := State.settleLocks s.lockFuel s []
  (r.1, lockTraps r.2)
/-- The task's locks go, by release or revocation, and the waiters are tested again (R114). -/
def State.dropLocks (s : State) (task : Nat) : State × List (ThreadRef × DWord × TrapInfo) :=
  if (s.locksOf task).isEmpty then (s, []) else (s.revoke task).recheckLocks
/-- Number of a task over all stages of its launch: AGE[23:0] (R101). -/
def taskNo (age : Nat) : Nat := age % 2 ^ 24
/-- Tasks of a launch over all its stages. -/
def LaunchRec.total (r : LaunchRec) : Nat := r.stages * (r.gridx * r.gridy * r.gridz)
/-- A task triggers once each of its threads has executed TRIG or ended; the launch's last one decrements TRIGSIG (R216). -/
def State.noteTrigger (s : State) (task : Nat) : State :=
  let k := s.task task
  let l := s.launchOf task
  let n := taskNo task
  if (s.liveOf task).any (fun th => !th.triggered) || k.status == .succeeding || l.triggeredTasks.contains n then s
  else
    let ts := n :: l.triggeredTasks
    let fire := decide (l.rcd.total ≤ ts.length) && !l.trigDone
    let s := s.modLaunch k.launch (fun l => { l with triggeredTasks := ts, trigDone := l.trigDone || fire })
    if fire then s.signalDec l.func l.asid l.lseq l.rcd.trigSig false 1 else s
/-- Threads of a task stop for good. -/
def State.stopThread (s : State) (t : ThreadRef) : State :=
  (s.modThread t (fun th => { th with status := .ended, pend := [], old := none, second := none })).flushTraps t
/-- A task is killed (R379). -/
def State.killTask (s : State) (t : ThreadRef) (r : FaultRec) : State × List (ThreadRef × DWord × TrapInfo) :=
  let k := s.task t.task
  let s := (s.drain (s.coreOf t)).pushFault k.func { r with killed := true }
  let s := (s.liveOf t.task).foldl (fun s th => s.stopThread th.ref) s
  let s := (s.modTask t.task (fun k => { k with killed := true, status := .ended, grace := false })).modLaunch k.launch
    (fun l => { l with killed := true })
  (s.noteTrigger t.task).dropLocks t.task

/-! ## Handlers (R377, R378) -/

/-- TRAPBASE of a task. -/
def Task.trapBase (k : Task) : Nat := fld k.trapHi.toNat 23 0 * 2 ^ 32 + k.trapLo.toNat
/-- Checks of a fetch of one byte address (R24, R26). -/
def State.fetchCheck (s : State) (t : ThreadRef) (va : Nat) : Xlate × State :=
  match spaceOf va with
  | .bad => (.prot 1, s)
  | .peer => (.prot 6, s)
  | .local_ =>
    let x := s.translate (.core (s.coreOf t)) (s.asidOf t) va .fetch
    match x.1 with
    | .ok pa false => if x.2.poisoned pa then (.corrupt, x.2) else x
    | _ => x
/-- The first byte of each page and line of a packet: its start and, where it crosses into another line, the line's start. -/
def packetParts (va : Nat) : List Nat := if va / 256 = (va + 11) / 256 then [va] else [va, (va + 11) / 256 * 256]
/-- A packet's fetch passes R24 (a wait passes). -/
def State.fetchable (s : State) (t : ThreadRef) (va : Nat) : Bool × State :=
  (packetParts va).foldl (fun (a : Bool × State) p =>
    let x := a.2.fetchCheck t p
    (a.1 && (match x.1 with
      | .ok _ _ | .wait _ => true
      | _ => false), x.2)) (true, s)

/-- A thread enters its handler with a record, or its task is killed (R377-R379). -/
def State.enterHandler (s : State) (t : ThreadRef) (r : FaultRec) : State × List (ThreadRef × DWord × TrapInfo) :=
  let base := (s.task t.task).trapBase
  let f := if base = 0 ∨ base % 12 ≠ 0 then (false, s) else s.fetchable t base
  if (s.thread t).handler || !f.1 then f.2.killTask t r
  else
    let a := BitVec.ofNat 64 base
    ((f.2.modThread t (fun th =>
      { ({ th.drain with trapRec := r, handler := true, old := none, second := none }).open_ a with pc := a, boundary := false })).wake t, [])

/-- Deferred-lane traps (R376). -/
def isDeferred (code : Nat) : Bool := code == trapCorrupt || code == trapDeadreg || code == trapPending
/-- A trap is delivered to a thread at the word at `pc` (R376, R378). -/
def State.deliver (s : State) (t : ThreadRef) (pc : DWord) (i : TrapInfo) :
    State × List (ThreadRef × DWord × TrapInfo) :=
  let s := if (s.thread t).pc = pc then s else s.modThread t (fun th => { th with pc := pc })
  if (s.thread t).status == .ended then (s, [])
  else if isDeferred i.code && !(s.thread t).handler then (s.park t (.deferred i), [])
  else s.enterHandler t (s.recordOf t i)
/-- Traps are delivered one after another, with those they bring about. -/
def State.deliverAll : Nat → State → List (ThreadRef × DWord × TrapInfo) → State
  | _, s, [] => s
  | 0, s, _ => s
  | k + 1, s, (t, pc, i) :: r =>
    let d := s.deliver t pc i
    State.deliverAll k d.1 (r ++ d.2)
/-- Deliver traps. -/
def State.takeTraps (s : State) (l : List (ThreadRef × DWord × TrapInfo)) : State :=
  State.deliverAll (l.length + s.threads.length + 1) s l
/-- A trap at a thread's current word: the one way an exception is taken. -/
def State.takeTrap (s : State) (t : ThreadRef) (i : TrapInfo) : State := s.takeTraps [(t, (s.thread t).pc, i)]
/-- A handler is entered with a record that is already made (asynchronous and deferred traps, R376, R391). -/
def State.takeRecord (s : State) (t : ThreadRef) (r : FaultRec) : State :=
  let d := s.enterHandler t r
  d.1.takeTraps d.2
/-- The lock managers look at every waiting request. -/
def State.relock (s : State) : State :=
  let r := s.recheckLocks
  r.1.takeTraps r.2

/-! ## The end of a task -/

/-- A task's locks are released, as by LKRALL: a release of what its threads have stored (R111, R114, R119). -/
def State.releaseTask (s : State) (task : Nat) : State :=
  let d := (if (s.locksOf task).isEmpty then s else s.drain (s.task task).phys).dropLocks task
  d.1.takeTraps d.2
/-- What follows when a thread has ended (R211, R212): the task ends, or its XSUCC goes on, which by itself triggers nothing
(R216). -/
def State.afterEnd (s : State) (task : Nat) : State :=
  match s.liveOf task with
  | [] =>
    if (s.task task).status == .ended || (s.task task).status == .succeeding then s
    else ((s.modTask task (fun k => { k with status := .ended, grace := false })).noteTrigger task).releaseTask task
  | [th] =>
    match th.status with
    | .parked (.xsucc _) =>
      let s := (s.noteTrigger task).stopThread th.ref
      (s.modTask task (fun k => { k with status := .succeeding, grace := false })).releaseTask task
    | _ => s.noteTrigger task
  | _ => s.noteTrigger task

/-! ## PAGE (R389) -/

/-- The token of a fault and whether it is new (R389). -/
def State.tokenFor (s : State) (f asid page : Nat) (k : Access) : Nat × Bool × State :=
  match List.find? (fun (e : Nat × Token) => e.2 == ⟨f, asid, page, k⟩) s.tokens with
  | some e => (e.1, false, s)
  | none =>
    let n := s.nextToken
    (n, true, { s with tokens := s.tokens.put n ⟨f, asid, page, k⟩, nextToken := if n + 1 = 2 ^ 32 then 1 else n + 1 })
/-- A lane's PAGE fault: a record for a new token, and the thread parks. -/
def State.pageFault (s : State) (t : ThreadRef) (va : DWord) (sub : Nat) (k : Access) : State :=
  let i : TrapInfo := { code := trapPage, sub := sub, va := va }
  let x := s.tokenFor (s.task t.task).func (s.asidOf t) (va.toNat / 4096) k
  let s := x.2.2
  let s := if x.2.1 then
      (s.drain (s.coreOf t)).pushPage (s.task t.task).func
        { s.recordOf t i with precise := false, recoverable := true, token := x.1 }
    else s
  s.park t (.page x.1 i)

/-! ## Running a word -/

/-- A lane's stop takes its own outcome (R24, R376, R389). -/
def State.takeStop (s : State) (t : ThreadRef) (r : Stop) : State :=
  match r with
  | .trap i => s.takeTrap t i
  | .page va sub k => s.pageFault t va sub k
  | .retry (.ats a p g) =>
    let s := if s.atsPending.contains (a, p, g) then s else { s with atsPending := s.atsPending ++ [(a, p, g)] }
    s.park t (.retry (.ats a p g))
  | .retry r => s.park t (.retry r)
/-- One lane of a word: the next word, a target, or its stop. A thread that an earlier lane of the issue has ended, by a kill
of its task (R379), executes nothing. -/
def laneStep (f : State → ThreadRef → Res (Option DWord)) (s : State) (t : ThreadRef) : State :=
  if (s.thread t).status == .ended then s
  else
    match f s t with
    | .ok none s => s.advance t
    | .ok (some a) s => s.jump t a
    | .stop r s =>
      match s.collect with
      | none => s.takeStop t r
      | some l => { s with collect := some (l ++ [(t, (s.thread t).pc, r)]) }
/-- The lanes of the current issue. -/
def State.lanes (s : State) : List ThreadRef :=
  match s.actor with
  | .lanes l => l
  | _ => []
/-- A word runs for the lanes of its issue, ascending (TASK, TID). -/
def runTo (f : State → ThreadRef → Res (Option DWord)) (s : State) : State := s.lanes.foldl (laneStep f) s
/-- A word that goes on to the next word. -/
def runLanes (f : State → ThreadRef → Res Unit) (s : State) : State :=
  runTo (fun s t => (f s t).andThen (fun _ s => .ok none s)) s
/-- A word of which each lane's part is over, with all that it brings about by `after`, before the next lane's begins. -/
def runLanesThen (after : State → State) (f : State → ThreadRef → Res Unit) (s : State) : State :=
  s.lanes.foldl (fun s t => after (laneStep (fun s t => (f s t).andThen (fun _ s => .ok none s)) s t)) s
/-- A word without checks of its own. -/
def runPure (f : State → ThreadRef → State) (s : State) : State := runLanes (fun s t => .ok () (f s t)) s

end Sys2Proof.Machine
end

