-- ==== Sys2Proof/Machine/Access.lean ====
section
/-! DEFINITION. One access of a lane to global memory or scratchpad, with its checks and its ordering (R24, R43, R57-R63,
R118-R120), and barrier objects (R247, R303). -/
namespace Sys2Proof.Machine

/-! ## Global memory -/

/-- The outcome of R24 for a lane as what ends its word. -/
def xlateRes (va : DWord) (k : Access) (x : Xlate) (s : State) : Res Loc :=
  match x with
  | .ok pa h => .ok ⟨pa, h⟩ s
  | .page sub => .stop (.page va sub k) s
  | .prot sub => .trapAt trapProt sub va s
  | .corrupt => .trapAt trapCorrupt 0 va s
  | .wait r => .stop (.retry r) s
/-- R24 for one access through a translation cache of an address space, in the order of its table. -/
def State.locateVia (s : State) (v : Via) (asid : Nat) (va : DWord) (size : Nat) (k : Access) : Res Loc :=
  let a := va.toNat
  if spaceOf a = .bad then .trapAt trapProt 1 va s
  else if a % size ≠ 0 then .trapAt trapAlign 0 va s
  else if spaceOf a = .peer then .trapAt trapProt 6 va s
  else
    let x := s.translate v asid a k
    xlateRes va k x.1 x.2
/-- R24 for one access of a lane. -/
def State.locate (s : State) (t : ThreadRef) (va : DWord) (size : Nat) (k : Access) : Res Loc :=
  (s.locateVia (.core (s.coreOf t)) (s.asidOf t) va size k).andThen fun l s =>
    .ok l (if k = .write ∨ k = .atomic then s.competeMem l.host l.pa size else s)

/-- A core reads a 64-byte sector from the host, once its own writes to it have been issued, into SHR; words of the sector that it
holds already are read anew (R63, log 110). -/
def State.hostSector (s : State) (core a : Nat) : State :=
  let base := a / 64 * 64
  let mine := s.hostq.any (fun w => w.core == core && decide (w.addr < base + 64) && decide (base < w.addr + w.bytes.length))
  let s := (if mine then s.issueHosts core else s).l1Room core (hostWord a / 64)
  (List.range 16).foldl (fun (s : State) i =>
    s.putL1 core (hostWord (base + 4 * i)) ⟨.shr, Memory.word s.hostMem (base + 4 * i)⟩) s
/-- A word of a host page as a core loads it: an SHR copy, else the sector is read from the host (R63). -/
def State.hostLoadWord (s : State) (core a : Nat) : Word × State :=
  match s.l1? core (hostWord a) with
  | some x => (x.val, s)
  | none =>
    let s := s.hostSector core a
    (Memory.word s.hostMem (a / 4 * 4), s)
/-- Both words of a load of 8 aligned bytes of a host page are read at one moment (R125). -/
def State.readyHostPair (s : State) (core a : Nat) : State :=
  if (s.l1? core (hostWord a)).isSome && (s.l1? core (hostWord (a + 4))).isSome then s else s.hostSector core a
/-- `n` words that a core loads from consecutive places. -/
def State.loadWords (s : State) (core : Nat) (l : Loc) : Nat → List Word × State
  | 0 => ([], s)
  | n + 1 =>
    let r := if l.host then s.hostLoadWord core l.pa else s.loadWord core (l.pa / 4)
    let q := r.2.loadWords core ⟨l.pa / 4 * 4 + 4, l.host⟩ n
    (r.1 :: q.1, q.2)
/-- `n` bytes that a core loads; each aligned 8 bytes of them are read at one moment (R125). -/
def State.loadBytes (s : State) (core : Nat) (l : Loc) (n : Nat) : List Byte × State :=
  let s := (List.range (n / 8)).foldl (fun (s : State) k =>
    if l.host then s.readyHostPair core (l.pa + 8 * k) else s.readyPair core (l.pa / 4 + 2 * k)) s
  let r := s.loadWords core l ((l.pa % 4 + n + 3) / 4)
  (((r.1.flatMap bytesOfWord).drop (l.pa % 4)).take n, r.2)
/-- The bytes of word `i` from the word of `a` on among bytes stored at `a`: mask and value. -/
def storedWord (a : Nat) (bytes : List Byte) (i : Nat) : BitVec 4 × Word :=
  lineBytes 0 ((List.range bytes.length).map (fun k => (a % 4 + k, bytes.getD k 0))) i
/-- Words that bytes stored at `a` touch. -/
def storedWords (a : Nat) (bytes : List Byte) : List Nat := List.range ((a % 4 + bytes.length + 3) / 4)
/-- A core writes bytes of host memory: on their way to the host, and into its SHR copy of them (R63). -/
def State.hostStore (s : State) (core a : Nat) (bytes : List Byte) (src : TrackEntry) : State :=
  (storedWords a bytes).foldl (fun (s : State) i =>
    let w := hostWord a + i
    let mv := storedWord a bytes i
    match s.l1? core w with
    | some x => s.putL1 core w { x with val := mergeBytes mv.1 mv.2 x.val }
    | none => s) { s with hostq := s.hostq ++ [⟨core, a, bytes, src⟩] }
/-- A core stores bytes, word by word, each aligned 8 bytes of them seen at one moment (R58, R125). -/
def State.storeBytes (s : State) (core : Nat) (l : Loc) (bytes : List Byte) (src : TrackEntry) : State :=
  if l.host then s.hostStore core l.pa bytes src
  else
    let first := l.pa / 4
    let s := (storedWords l.pa bytes).foldl (fun (s : State) i =>
      let mv := storedWord l.pa bytes i
      if mv.1 = 0 then s else s.storeWord core (first + i) mv.1 mv.2 src) s
    (List.range (bytes.length / 8)).foldl (fun (s : State) k => s.joinPair core (first + 2 * k)) s

/-- mem_read: the bytes, lowest address first (R24, R80, R118). -/
def State.memRead (s : State) (t : ThreadRef) (va : DWord) (size : Nat) (acq : Bool) : Res (List Byte) :=
  (s.locate t va size .read).andThen fun l s =>
    let c := s.coreOf t
    if !l.host && s.poisoned l.pa then .trapAt trapCorrupt 0 va (s.checkMeta (l.pa / 256))
    else
      let s := if acq then s.acquire c else s
      let r := s.loadBytes c l size
      .ok r.1 r.2
/-- What the tracker and a STORE trap need to know of a thread's store by the word at `pc` (R210, R284). -/
def State.storeOf (s : State) (t : ThreadRef) (pc va : DWord) : TrackEntry :=
  let k := s.task t.task
  let th := s.thread t
  { seq := s.nextStore, task := t.task, tid := t.tid, num := k.num, lseq := k.lseq, func := k.func, asid := k.asid, pc := pc,
    regionPc := th.regionPc, va := va }
/-- mem_write by the word at `pc` (R24, R58, R60); a release store is registered in its own step (R120, R122, log 11). -/
def State.memWriteBy (s : State) (t : ThreadRef) (pc va : DWord) (bytes : List Byte) (rel : Bool) : Res Unit :=
  (s.locate t va bytes.length .write).andThen fun l s =>
    let c := s.coreOf t
    let s := if rel then s.drain c else s
    let s := { s.storeBytes c l bytes (s.storeOf t pc va) with nextStore := s.nextStore + 1 }
    .ok () (if rel then s.drain c else s)
/-- mem_write by the thread's current word. -/
def State.memWrite (s : State) (t : ThreadRef) (va : DWord) (bytes : List Byte) (rel : Bool) : Res Unit :=
  s.memWriteBy t (s.thread t).pc va bytes rel
/-- Bytes read with plain loads, piece by piece so that no piece crosses a page; each piece is checked (R248, R212). -/
def State.memReadRun (s : State) (t : ThreadRef) (va : DWord) (piece : Nat) : Nat → Res (List Byte)
  | 0 => .ok [] s
  | n + 1 =>
    (s.memRead t va piece false).andThen fun b s =>
      (s.memReadRun t (va + BitVec.ofNat 64 piece) piece n).andThen fun r s => .ok (b ++ r) s

/-! ## Scratchpad (R43) -/

/-- R43 for one access of a task: ALIGN, then SPMRANGE. -/
def State.spmCheck (s : State) (task off size : Nat) : Option (Nat × Nat) :=
  if off % size ≠ 0 then some (trapAlign, 0)
  else if (s.task task).spmSize < off + size then some (trapProt, 7)
  else none
/-- R43 for a lane. -/
def State.spmLocate (s : State) (t : ThreadRef) (off size : Nat) : Res Unit :=
  match s.spmCheck t.task off size with
  | some (c, sub) => .trapAt c sub (BitVec.ofNat 64 off) s
  | none => .ok () s
/-- Bytes of a task's scratchpad. -/
def State.spmBytes (s : State) (task off n : Nat) : List Byte := Memory.bytes (s.task task).spm off n
/-- A write to a task's scratchpad competes with the REMAP passes that run over its bytes (R135). -/
def State.competeSpm (s : State) (task off n : Nat) : State :=
  let k := s.task task
  s.compete (fun l => l.rcd.spm && l.lseq == k.launch && l.stage == k.stage) (k.num, off, n)
/-- Write bytes of a task's scratchpad; a barrier object that the bytes touch loses its fields (R299). -/
def State.spmPut (s : State) (task off : Nat) (bytes : List Byte) : State :=
  (s.competeSpm task off bytes.length).modTask task (fun k =>
    { k with spm := Memory.write k.spm off bytes,
             bars := k.bars.filter (fun o => !(decide (o < off + bytes.length) && decide (off < o + 32))) })
/-- Its save has begun or is done: what arrives for it is held (R393). -/
def Task.away (k : Task) : Bool := k.status == .saved || k.status == .saving
/-- Bytes of a task's scratchpad with what is held for them, the latest last (R393). -/
def State.spmNow (s : State) (task off n : Nat) : List Byte :=
  let k := s.task task
  (List.range n).map (fun i => ((k.held.reverse.find? (fun e => e.1 == off + i)).map Prod.snd).getD (Memory.byte k.spm (off + i)))
/-- Bytes for a task's scratchpad are held until its restore. -/
def State.spmHold (s : State) (task off : Nat) (bytes : List Byte) : State :=
  (s.competeSpm task off bytes.length).modTask task (fun k => { k with held := k.held ++ (List.range bytes.length).map (fun i => (off + i, bytes.getD i 0)) })
/-- A fill that is issued now lands in a task's scratchpad, or is held once its save has begun (R393). -/
def State.spmArrive (s : State) (task off : Nat) (bytes : List Byte) : State :=
  if (s.task task).away then s.spmHold task off bytes else s.spmPut task off bytes
/-- Data that was on its way lands in a task's scratchpad, or is held while the task is saved (R393). -/
def State.spmLand (s : State) (task off : Nat) (bytes : List Byte) : State :=
  if (s.task task).status == .saved then s.spmHold task off bytes else s.spmPut task off bytes
/-- spm_read. -/
def State.spmRead (s : State) (t : ThreadRef) (off size : Nat) (acq : Bool) : Res (List Byte) :=
  (s.spmLocate t off size).andThen fun _ s =>
    let s := if acq then s.acquire (s.coreOf t) else s
    .ok (s.spmBytes t.task off size) s
/-- spm_write. -/
def State.spmWrite (s : State) (t : ThreadRef) (off : Nat) (bytes : List Byte) (rel : Bool) : Res Unit :=
  (s.spmLocate t off bytes.length).andThen fun _ s =>
    let s := if rel then s.drain (s.coreOf t) else s
    .ok () (s.spmPut t.task off bytes)

/-! ## Barrier objects (R247, R299-R304) -/

/-- The fields of a barrier object. -/
structure Barrier where
  expect : Nat := 0
  arrived : Nat := 0
  nextexp : Nat := 0
  phase : Nat := 0
  pendb : Nat := 0
  error : Bool := false
  deriving DecidableEq, Repr

/-- The 32 bytes of an object. -/
def Barrier.pack (b : Barrier) : List Byte :=
  bytesOfNat 2 b.expect ++ bytesOfNat 2 b.arrived ++ bytesOfNat 2 b.nextexp ++ bytesOfNat 2 b.phase ++
    bytesOfNat 6 b.pendb ++ bytesOfNat 18 (b2n b.error)
/-- The fields in some bytes. -/
def Barrier.unpack (l : List Byte) : Barrier :=
  let v := natOfBytes l
  { expect := fld v 15 0, arrived := fld v 31 16, nextexp := fld v 47 32, phase := fld v 63 48, pendb := fld v 111 64,
    error := bitOf v 112 }
/-- The object at an offset; where BINIT has not written it, or another access has since, its fields are free (R299). -/
def State.barrier (s : State) (task off : Nat) : Barrier × State :=
  if (s.task task).bars.contains off then (Barrier.unpack (s.spmBytes task off 32), s)
  else
    let a := s.freeWord
    let b := a.2.freeWord
    let c := b.2.freeWord
    let d := c.2.freeWord
    (Barrier.unpack ([a.1, b.1, c.1, d.1].flatMap bytesOfWord), d.2)
/-- Write an object and note that it has changed in this cycle. -/
def State.setBarrier (s : State) (task off : Nat) (b : Barrier) : State :=
  { s.modTask task (fun k => { k with spm := Memory.write k.spm off b.pack }) with
      touched := if s.touched.contains (task, off) then s.touched else s.touched ++ [(task, off)] }
/-- One arrival (R301, R303). -/
def Barrier.arrive (b : Barrier) (drop : Bool) : Barrier :=
  let b := { b with arrived := min (b.arrived + 1) 65535 }
  if drop then (if b.nextexp = 0 then { b with error := true } else { b with nextexp := b.nextexp - 1 }) else b
/-- Bytes added to PENDB (R302, R303). -/
def Barrier.add (b : Barrier) (n : Nat) : Barrier :=
  if 2 ^ 48 ≤ b.pendb + n then { b with pendb := 2 ^ 48 - 1, error := true } else { b with pendb := b.pendb + n }
/-- Bytes subtracted. -/
def Barrier.sub (b : Barrier) (n : Nat) : Barrier :=
  if b.pendb < n then { b with pendb := 0, error := true } else { b with pendb := b.pendb - n }
/-- The completion test of one combined update. -/
def Barrier.test (b : Barrier) : Barrier :=
  if b.expect ≤ b.arrived ∧ b.pendb = 0 then
    { b with phase := (b.phase + 1) % 65536, arrived := 0, expect := b.nextexp }
  else b

/-- Threads parked in BWAIT on an object whose PHASE has moved on are released, an acquire (R304). -/
def State.releaseBwait (s : State) (task off : Nat) (phase : Nat) (all : Bool) : State :=
  (s.liveOf task).foldl (fun s th =>
    match th.status with
    | .parked (.bwait o ph h) =>
      if o = off ∧ (all ∨ ph ≠ phase) then
        ((s.acquire (s.coreOf th.ref)).writeG th.ref h (BitVec.ofNat 32 phase)).wake th.ref
      else s
    | _ => s) s
/-- The completion test at the end of a cycle, once for each object that has changed (R303). -/
def State.settleBarriers (s : State) : State :=
  { s.touched.foldl (fun s x =>
      let b := s.barrier x.1 x.2
      let n := b.1.test
      (b.2.modTask x.1 (fun k => { k with spm := Memory.write k.spm x.2 n.pack })).releaseBwait x.1 x.2 n.phase false) s
    with touched := [] }
/-- The end of the cycle in which a word runs alone; a chained group ends when all its words have run. -/
def State.endCycle (s : State) : State := if s.collect.isSome then s else s.settleBarriers
/-- A count on an object is held until the restore of its task (R393). -/
def State.holdCount (s : State) (task off n : Nat) (err : Bool) : State :=
  s.modTask task (fun k => { k with heldCounts := k.heldCounts ++ [(off, n, err)] })
/-- An engine's count on an object: bytes subtracted, with ERROR if it has failed (R302); held while the task is saved
(R393). -/
def State.countOff (s : State) (task off n : Nat) (err : Bool) : State :=
  if (s.task task).status == .saved then s.holdCount task off n err
  else
    let b := s.barrier task off
    let x := b.1.sub n
    b.2.setBarrier task off (if err then { x with error := true } else x)
/-- An engine adds its byte count at issue (R302). -/
def State.countOn (s : State) (task off n : Nat) : State :=
  let b := s.barrier task off
  b.2.setBarrier task off (b.1.add n)

end Sys2Proof.Machine
end

