-- ==== Sys2Proof/Machine/Operands.lean ====
section
/-! DEFINITION. The operand forms of R236 over the lanes of an issue: each form says once what it reads, marks as a last
use and writes; a meaning supplies the value. -/
namespace Sys2Proof.Machine

/-- What a meaning answers. -/
abbrev Answer := Host.Outcome State Fault Refusal

/-! ## Format R on registers and pairs (R234-R236) -/

/-- D ← g a b on registers. -/
def opR32 (f : FmtR) (g : Word → Word → Word) (s : State) : State :=
  runPure (fun s t =>
    let v := g (s.readG t f.a.toNat) (s.readG t f.b.toNat)
    (s.useLast t (mark f.la [(f.a.toNat, 1)] ++ mark f.lb [(f.b.toNat, 1)])).writeG t f.d.toNat v) s
/-- D ← g a on registers. -/
def opU32 (f : FmtR) (g : Word → Word) (s : State) : State :=
  runPure (fun s t =>
    let v := g (s.readG t f.a.toNat)
    (s.useLast t (mark f.la [(f.a.toNat, 1)])).writeG t f.d.toNat v) s
/-- D ← g d a b on registers. -/
def opD32 (f : FmtR) (g : Word → Word → Word → Word) (s : State) : State :=
  runPure (fun s t =>
    let v := g (s.readG t f.d.toNat) (s.readG t f.a.toNat) (s.readG t f.b.toNat)
    (s.useLast t (mark f.la [(f.a.toNat, 1)] ++ mark f.lb [(f.b.toNat, 1)])).writeG t f.d.toNat v) s
/-- D ← g a b on pairs. -/
def opR64 (f : FmtR) (g : DWord → DWord → DWord) (s : State) : State :=
  runPure (fun s t =>
    let v := g (s.readPair t f.a.toNat) (s.readPair t f.b.toNat)
    (s.useLast t (mark f.la [(f.a.toNat, 2)] ++ mark f.lb [(f.b.toNat, 2)])).writePair t f.d.toNat v) s
/-- D ← g a on pairs. -/
def opU64 (f : FmtR) (g : DWord → DWord) (s : State) : State :=
  runPure (fun s t =>
    let v := g (s.readPair t f.a.toNat)
    (s.useLast t (mark f.la [(f.a.toNat, 2)])).writePair t f.d.toNat v) s
/-- D ← g d a b on pairs. -/
def opD64 (f : FmtR) (g : DWord → DWord → DWord → DWord) (s : State) : State :=
  runPure (fun s t =>
    let v := g (s.readPair t f.d.toNat) (s.readPair t f.a.toNat) (s.readPair t f.b.toNat)
    (s.useLast t (mark f.la [(f.a.toNat, 2)] ++ mark f.lb [(f.b.toNat, 2)])).writePair t f.d.toNat v) s
/-- A register from a pair. -/
def opN64 (f : FmtR) (g : DWord → Word) (s : State) : State :=
  runPure (fun s t =>
    let v := g (s.readPair t f.a.toNat)
    (s.useLast t (mark f.la [(f.a.toNat, 2)])).writeG t f.d.toNat v) s

/-! ## Formats I, L and the immediate shifts -/

/-- D ← g a imm on registers. -/
def opI32 (f : FmtI) (g : Word → Word) (s : State) : State :=
  runPure (fun s t =>
    let v := g (s.readG t f.a.toNat)
    (s.useLast t (mark f.la [(f.a.toNat, 1)])).writeG t f.d.toNat v) s
/-- D ← g a imm on pairs. -/
def opI64 (f : FmtI) (g : DWord → DWord) (s : State) : State :=
  runPure (fun s t =>
    let v := g (s.readPair t f.a.toNat)
    (s.useLast t (mark f.la [(f.a.toNat, 2)])).writePair t f.d.toNat v) s
/-- A shift by an immediate, at the width WD names (R257). -/
def opSh (f : FmtSh) (g : Word → Word) (h : DWord → DWord) (s : State) : State :=
  runPure (fun s t =>
    if f.wd then
      let v := h (s.readPair t f.a.toNat)
      (s.useLast t (mark f.la [(f.a.toNat, 2)])).writePair t f.d.toNat v
    else
      let v := g (s.readG t f.a.toNat)
      (s.useLast t (mark f.la [(f.a.toNat, 1)])).writeG t f.d.toNat v) s
/-- D ← g d imm on a register (R266). -/
def opL (f : FmtL) (g : Word → Word) (s : State) : State :=
  runPure (fun s t => s.writeG t f.d.toNat (g (s.readG t f.d.toNat))) s
/-- A constant to D (R266). -/
def opConst (f : FmtL) (v : Word) (s : State) : State := runPure (fun s t => s.writeG t f.d.toNat v) s

/-! ## Flags as operands (R262-R264) -/

/-- fd ← g a b on registers or pairs. -/
def opCmp (f : FmtF) (wide : Bool) (g : DWord → DWord → Bool) (s : State) : State :=
  let n := if wide then 2 else 1
  runPure (fun s t =>
    let rd := fun (r : BitVec 6) => if wide then s.readPair t r.toNat else (s.readG t r.toNat).zeroExtend 64
    let v := g (rd f.a) (rd f.b)
    (s.useLast t (mark f.la [(f.a.toNat, n)] ++ mark f.lb [(f.b.toNat, n)])).writeF t f.fd.toNat v) s
/-- fd ← g fa fb. -/
def opFlag (f : FmtR) (g : Bool → Bool → Bool) (s : State) : State :=
  runPure (fun s t => s.writeF t (flagNo f.d) (g (s.readF t (flagNo f.a)) (s.readF t (flagNo f.b)))) s

/-! ## Addresses (R281, R236) -/

/-- Bytes of a memory size code (R239). -/
def sizeOf_ (sz : BitVec 3) : Nat :=
  match sz.toNat with
  | 0 | 1 => 1
  | 2 | 3 => 2
  | 4 => 4
  | 5 => 8
  | _ => 16
/-- ea of a format M word. -/
def eaOf (f : FmtM) (base : DWord) : DWord := base + f.off.signExtend 64 * BitVec.ofNat 64 (sizeOf_ f.sz)
/-- off of a format M word. -/
def spmOffOf (f : FmtM) (base : Word) : Nat := (base + f.off.signExtend 32 * BitVec.ofNat 32 (sizeOf_ f.sz)).toNat
/-- The registers a load writes (R239, R282). -/
def loadValue (sz : BitVec 3) (b : List Byte) : List Word :=
  match sz.toNat with
  | 1 => [(b.getD 0 0).signExtend 32]
  | 3 => [(b.getD 1 0 ++ b.getD 0 0).signExtend 32]
  | _ => wordsOfBytes b
/-- The low bytes of a store's registers. -/
def storeValue (sz : BitVec 3) (ws : List Word) : List Byte := (ws.flatMap bytesOfWord).take (sizeOf_ sz)

end Sys2Proof.Machine
end

