-- ==== Sys2Proof/Machine/Flags.lean ====
section
/-! DEFINITION. Flag computations: integer conditions (R238, R262, R263), floating-point conditions (R321) and the sticky
flags of FCR (R189, R190). -/
namespace Sys2Proof.Machine

/-- A condition code on an order (R238 codes 0 to 5). -/
def ccHolds (cc : Nat) (lt eq : Bool) : Bool :=
  match cc with
  | 0 => eq
  | 1 => !eq
  | 2 => lt
  | 3 => lt || eq
  | 4 => !(lt || eq)
  | _ => !lt
/-- CMP's condition: types 0 s32, 1 n32, 2 s64, 3 n64; 32-bit operands are zero-extended (R262). -/
def cmpHolds (cc ty : Nat) (a b : DWord) : Bool :=
  match ty with
  | 0 => ccHolds cc (decide ((a.truncate 32 : Word).toInt < (b.truncate 32 : Word).toInt)) (a == b)
  | 2 => ccHolds cc (decide (a.toInt < b.toInt)) (a == b)
  | _ => ccHolds cc (decide (a.toNat < b.toNat)) (a == b)
/-- CMPI's condition: codes 6 and 7 are LT.n and GE.n (R263). -/
def cmpiHolds (cc : Nat) (a imm : Word) : Bool :=
  match cc with
  | 6 => decide (a.toNat < imm.toNat)
  | 7 => decide (imm.toNat ≤ a.toNat)
  | _ => ccHolds cc (decide (a.toInt < imm.toInt)) (a == imm)

/-- The rounding mode in FCR (R189). -/
def rmOf (fcr : Word) : Nat := fcr.toNat % 4
/-- A value that FCR may take: RM 0-3, flags, and zero in every reserved bit (R189). -/
def fcrOk (v : Word) : Bool := decide (fld v.toNat 7 2 = 0) && decide (fld v.toNat 31 13 = 0)

end Sys2Proof.Machine
end

