-- ==== Sys2Proof/Machine/Masks.lean ====
section
/-! DEFINITION. Mask registers, meeting, lane collectives, compress store and expand load: majors 0x18 to 0x1E and 0x2D
(R205-R209, R267-R272, R295, R296). -/
namespace Sys2Proof.Machine

/-- ILLEGAL with the failing word in VALO:VAHI (R244). -/
def illegal {α : Type} (sub : Nat) (t : ThreadRef) (s : State) : Res α := .trapAt trapIllegal sub (s.thread t).pc s
/-- ILLEGAL MASK. -/
def subMask : Nat := 11

/-! ## Completion of a phase (R206, R208) -/

/-- KIND of a meeting word: its major and, for major 0x19 and 0x2D, its selector (R205). -/
def kindOf (maj sel : Nat) : Nat := 64 * maj + sel
/-- The arrived lanes of a phase, ascending. -/
def Phase.lanes (p : Phase) : List Nat := bitsSet p.arrived
/-- What an arrived lane has supplied. -/
def Phase.op (p : Phase) (i : Nat) : LaneOperand := Tbl.get {} p.ops i
/-- Keys, runs and lanes in lexicographic order (R272). -/
def mergeBefore (sg : Bool) (a b : LaneOperand × Nat) : Bool :=
  let lt := if sg then decide (a.1.key.toInt < b.1.key.toInt) else decide (a.1.key.toNat < b.1.key.toNat)
  let ra := a.1.b.toNat % 2
  let rb := b.1.b.toNat % 2
  lt || (a.1.key == b.1.key && (decide (ra < rb) || (ra == rb && decide (a.2 < b.2))))
/-- What the member on lane `i` receives (R270-R272). -/
def Phase.result (p : Phase) (i : Nat) : Word :=
  let ls := p.lanes
  let kind := p.kind
  if kind = kindOf 0x19 0 then ls.foldl (fun w j => putBit w j (p.op j).flag) 0
  else if kind = kindOf 0x19 1 then BitVec.ofNat 32 (ls.filter (fun j => (p.op j).flag)).length
  else if kind = kindOf 0x19 2 then BitVec.ofNat 32 (ls.filter (fun j => decide (j < i) && (p.op j).flag)).length
  else if kind = kindOf 0x1A 0 then
    let j := (p.op i).b.toNat % 32
    if p.arrived.getLsbD j then (p.op j).a else (p.op i).a
  else if kind = kindOf 0x1B 0 then
    let j := i ^^^ ((p.op i).b.toNat % 32)
    if p.arrived.getLsbD j then (p.op j).a else (p.op i).a
  else if kind = kindOf 0x1C 0 then ls.foldl (fun w j => w + (p.op j).a) 0
  else if kind = kindOf 0x1D 0 then (ls.filter (fun j => decide (j ≤ i))).foldl (fun w j => w + (p.op j).a) 0
  else
    let sg := (p.op (ls.headD 0)).b.getLsbD 1
    BitVec.ofNat 32 (ls.filter (fun j => mergeBefore sg (p.op j, j) (p.op i, i))).length

/-- Every arrived member is released, an acquire; ARRIVED, KIND and the operands are cleared (R206). -/
def State.releasePhase (s : State) (t : ThreadRef) (k : Nat) (p : Phase) : State :=
  p.lanes.foldl (fun s i => (s.acquire (s.coreOf (onLane t i))).release (onLane t i) (.phase k)) (s.setPhase t k {})
/-- The selected members of a stream, ascending (R295). -/
def Phase.selected (p : Phase) : List Nat := p.lanes.filter (fun i => (p.op i).b.getLsbD 0)
/-- The stream ends with `e` elements done: every member receives B = e and is released (R295, R296). -/
def State.endStream (s : State) (t : ThreadRef) (k : Nat) (p : Phase) (e : Nat) : State :=
  (p.lanes.foldl (fun s i => s.writeG (onLane t i) (p.op i).dst2 (BitVec.ofNat 32 e)) s).releasePhase t k p
/-- The stream of a compress store or expand load from rank `e` on (R295, R296). -/
def State.stream (s : State) (t : ThreadRef) (k : Nat) (p : Phase) : List Nat → Nat → State
  | [], e => s.endStream t k p e
  | i :: rest, e =>
    let m := onLane t i
    let va := (p.op (p.lanes.headD 0)).key + BitVec.ofNat 64 (4 * e)
    let r : Res Unit :=
      if p.kind = kindOf 0x2D 0 then s.memWriteBy m (p.op i).pc va (bytesOfWord (p.op i).a) false
      else (s.memRead m va 4 false).andThen fun b s => .ok () (s.writeG m (p.op i).dst (wordOfBytes b))
    match r with
    | .ok _ s => s.stream t k p rest (e + 1)
    | .stop (.page va sub kd) s =>
      let x := s.tokenFor (s.task t.task).func (s.asidOf t) (va.toNat / 4096) kd
      let s := x.2.2
      let i' : TrapInfo := { code := trapPage, sub := sub, va := va }
      let s := if x.2.1 then
          (s.drain (s.coreOf m)).pushPage (s.task t.task).func
            { s.recordOf m i' with precise := false, recoverable := true, token := x.1, pc := (p.op i).pc }
        else s
      s.setPhase t k { p with rank := e, susp := some (x.1, i') }
    | .stop (.retry r) s => (s.setPhase t k { p with rank := e, susp := some (0, { code := 0, sub := 0 }) }).takeStop m (.retry r)
    | .stop (.trap x) s => (s.endStream t k p e).takeTraps [(m, (p.op i).pc, x)]
/-- Go on with a suspended stream. -/
def State.resumeStream (s : State) (t : ThreadRef) (k : Nat) : State :=
  let p := s.phase t k
  s.stream t k { p with susp := none } (p.selected.drop p.rank) p.rank
/-- A thread whose word waited is tried again; where it waits as the member of a stream, the stream goes on. -/
def State.unretry (s : State) (t : ThreadRef) : State :=
  match (List.range 12).find? (fun k =>
      let p := s.phase t k
      (p.susp.map Prod.fst) == some 0 && p.arrived.getLsbD (laneOf t)) with
  | some k => (s.park t (.phase k)).resumeStream t k
  | none => s.wake t
/-- Every thread whose word waits for something of which `f` says that it has come. -/
def State.unretryAll (s : State) (f : Retry → Bool) : State :=
  s.threads.foldl (fun s e =>
    match e.2.status with
    | .parked (.retry r) => if f r then s.unretry e.2.ref else s
    | _ => s) s
/-- The phase's completion. -/
def State.completePhase (s : State) (t : ThreadRef) (k : Nat) (p : Phase) : State :=
  if p.kind = kindOf 0x19 3 then s.releasePhase t k p
  else if p.kind = kindOf 0x2D 0 ∨ p.kind = kindOf 0x2D 1 then s.stream t k p p.selected 0
  else
    (p.lanes.foldl (fun s i => s.writeG (onLane t i) (p.op i).dst (p.result i)) s).releasePhase t k p
/-- Every WAITK on an empty mask is released (R208). -/
def State.releaseWaitk (s : State) (t : ThreadRef) (k : Nat) : State :=
  (s.liveOf t.task).foldl (fun s th =>
    if posyOf th.ref = posyOf t ∧ th.waitsFor (.waitk k) = true then s.release th.ref (.waitk k) else s) s
/-- The test after the combined update of a cycle on a mask (R206, R208). -/
def State.testPhase (s : State) (t : ThreadRef) (k : Nat) : State :=
  let p := s.phase t k
  let m := s.readK t k
  let s := if p.arrived ≠ 0 ∧ m &&& ~~~p.arrived = 0 ∧ p.susp = none then s.completePhase t k p else s
  if s.readK t k = 0 then s.releaseWaitk t k else s
/-- The tests of a mask for the posys of an issue. -/
def State.testPhases (s : State) (l : List ThreadRef) (k : Nat) : State := l.foldl (fun s t => s.testPhase t k) s

/-! ## Mask registers (R267, R268) -/

/-- A word that writes kd: the value is computed from the masks as they stood before the issue (`s0`) and the current ones. -/
def maskWrite (kd : Nat) (v : State → State → ThreadRef → Word) (s : State) : State :=
  (runLanes (fun s' t =>
    if (s'.phase t kd).arrived ≠ 0 then illegal subMask t s' else .ok () (s'.writeK t kd (v s s' t))) s).testPhases s.lanes kd

/-- MAND: kd from ka AND kb (R267). -/
def execMand (f : FmtK) (s : State) : Answer :=
  .next (maskWrite f.kd.toNat (fun s0 _ t => s0.readK t f.ka.toNat &&& s0.readK t f.kb.toNat) s)
/-- MOR: kd from ka OR kb (R267). -/
def execMor (f : FmtK) (s : State) : Answer :=
  .next (maskWrite f.kd.toNat (fun s0 _ t => s0.readK t f.ka.toNat ||| s0.readK t f.kb.toNat) s)
/-- MXOR: kd from ka XOR kb (R267). -/
def execMxor (f : FmtK) (s : State) : Answer :=
  .next (maskWrite f.kd.toNat (fun s0 _ t => s0.readK t f.ka.toNat ^^^ s0.readK t f.kb.toNat) s)
/-- MANDN: kd from ka AND NOT kb (R267). -/
def execMandn (f : FmtK) (s : State) : Answer :=
  .next (maskWrite f.kd.toNat (fun s0 _ t => s0.readK t f.ka.toNat &&& ~~~(s0.readK t f.kb.toNat)) s)
/-- MMOV: kd from ka (R267). -/
def execMmov (f : FmtK) (s : State) : Answer := .next (maskWrite f.kd.toNat (fun s0 _ t => s0.readK t f.ka.toNat) s)
/-- MSETG: kd from a register; of one posy's lanes the highest TID's value stays (R267, R268). -/
def execMsetg (f : FmtK) (s : State) : Answer := .next (maskWrite f.kd.toNat (fun _ s t => s.readG t f.g.toNat) s)
/-- MGETG: a register from ka (R267). -/
def execMgetg (f : FmtK) (s : State) : Answer :=
  .next (runPure (fun s t => s.writeG t f.g.toNat (s.readK t f.ka.toNat)) s)
/-- MSELF: the union of the issuers' bits joins kd (R267, R268). -/
def execMself (f : FmtK) (s : State) : Answer :=
  .next (maskWrite f.kd.toNat (fun _ s t => s.readK t f.kd.toNat ||| laneBit t) s)
/-- MCLR: kd from 0 (R267). -/
def execMclr (f : FmtK) (s : State) : Answer := .next (maskWrite f.kd.toNat (fun _ _ _ => 0) s)
/-- The lanes of a posy whose thread has not ended. -/
def State.liveLanes (s : State) (t : ThreadRef) : Word :=
  (s.liveOf t.task).foldl (fun w th => if posyOf th.ref = posyOf t then w ||| laneBit th.ref else w) 0
/-- MALL: kd from the lanes whose thread has not ended (R267). -/
def execMall (f : FmtK) (s : State) : Answer := .next (maskWrite f.kd.toNat (fun s0 _ t => s0.liveLanes t) s)

/-! ## Meeting (R206-R209, R269) -/

/-- A thread arrives at a phase: it must be a member, and KIND must match; a release, a commit point, and the thread parks. -/
def State.arriveAt (s : State) (t : ThreadRef) (k kind : Nat) (o : LaneOperand) : Res Unit :=
  let p := s.phase t k
  if !s.member t k || (decide (p.arrived ≠ 0) && p.kind != kind) then illegal subMask t s
  else
    let s := s.drain (s.coreOf t)
    let s := s.setPhase t k { arrived := p.arrived ||| laneBit t, kind := kind,
                              ops := p.ops.set {} (laneOf t) { o with pc := (s.thread t).pc } }
    .ok () ((s.commit t).stand t (.parked (.phase k)))
/-- A meeting word: its lanes arrive, and the phase is tested once. -/
def meet (k kind : Nat) (o : State → ThreadRef → LaneOperand) (la : List Run) (s : State) : State :=
  (runLanes (fun s t => (s.arriveAt t k kind (o s t)).andThen fun _ s => .ok () (s.useLast t la)) s).testPhases s.lanes k

/-- JOIN: arrives and parks until the phase completes (R206, R269). -/
def execJoin (f : FmtK) (s : State) : Answer := .next (meet f.ka.toNat (kindOf 0x19 3) (fun _ _ => {}) [] s)
/-- LEAVE: clears the issuer's bit, a release and a commit point (R206, R209, R269). -/
def execLeave (f : FmtK) (s : State) : Answer :=
  .next ((runLanes (fun s t =>
    if !s.member t f.ka.toNat then illegal subMask t s
    else .ok () (((s.drain (s.coreOf t)).writeK t f.ka.toNat (s.readK t f.ka.toNat &&& ~~~(laneBit t))).commit t)) s).testPhases
      s.lanes f.ka.toNat)
/-- WAITK: a thread that is not a member parks until the mask is 0 (R206, R269). -/
def execWaitk (f : FmtK) (s : State) : Answer :=
  .next (runLanes (fun s t =>
    if s.member t f.ka.toNat then illegal subMask t s
    else .ok () (if s.readK t f.ka.toNat = 0 then s else s.stand t (.parked (.waitk f.ka.toNat)))) s)

/-- A collective over one flag of each member (R270). -/
def flagMeet (f : FmtK) (sel : Nat) (s : State) : State :=
  meet f.ka.toNat (kindOf 0x19 sel)
    (fun s t => { flag := s.readF t (f.kb.toNat % 8), dst := f.g.toNat }) [] s
/-- BALLOT: the members' flags as a mask (R270). -/
def execBallot (f : FmtK) (s : State) : Answer := .next (flagMeet f 0 s)
/-- POPCM: how many members' flags are 1 (R270). -/
def execPopcm (f : FmtK) (s : State) : Answer := .next (flagMeet f 1 s)
/-- RANKM: how many members below have their flag 1 (R270). -/
def execRankm (f : FmtK) (s : State) : Answer := .next (flagMeet f 2 s)

/-- SHFL: the value of the lane that b names (R271). -/
def execShfl (f : FmtR) (k : BitVec 4) (s : State) : Answer :=
  .next (meet k.toNat (kindOf 0x1A 0)
    (fun s t => { a := s.readG t f.a.toNat, b := s.readG t f.b.toNat, dst := f.d.toNat })
    (mark f.la [(f.a.toNat, 1)] ++ mark f.lb [(f.b.toNat, 1)]) s)
/-- SHFLX: the value of lane i XOR b (R271). -/
def execShflx (f : FmtR) (k : BitVec 4) (s : State) : Answer :=
  .next (meet k.toNat (kindOf 0x1B 0)
    (fun s t => { a := s.readG t f.a.toNat, b := s.readG t f.b.toNat, dst := f.d.toNat })
    (mark f.la [(f.a.toNat, 1)] ++ mark f.lb [(f.b.toNat, 1)]) s)
/-- REDM: the sum over the members (R271). -/
def execRedm (f : FmtR) (k : BitVec 4) (s : State) : Answer :=
  .next (meet k.toNat (kindOf 0x1C 0) (fun s t => { a := s.readG t f.a.toNat, dst := f.d.toNat })
    (mark f.la [(f.a.toNat, 1)]) s)
/-- SCANM: the sum over the members up to the receiver's lane (R271). -/
def execScanm (f : FmtR) (k : BitVec 4) (s : State) : Answer :=
  .next (meet k.toNat (kindOf 0x1D 0) (fun s t => { a := s.readG t f.a.toNat, dst := f.d.toNat })
    (mark f.la [(f.a.toNat, 1)]) s)
/-- MRGRK: the member's place in the stable merge of the keys (R272). -/
def execMrgrk (f : FmtR) (k : BitVec 4) (s : State) : Answer :=
  .next (meet k.toNat (kindOf 0x1E 0)
    (fun s t => { key := s.readPair t f.a.toNat, b := s.readG t f.b.toNat, dst := f.d.toNat })
    (mark f.la [(f.a.toNat, 2)] ++ mark f.lb [(f.b.toNat, 1)]) s)

/-- STCMP: the selected members' values to consecutive words (R295, R296). -/
def execStcmp (f : FmtAK) (s : State) : Answer :=
  .next (meet f.k.toNat (kindOf 0x2D 0)
    (fun s t => { a := s.readG t f.d.toNat, b := s.readG t f.b.toNat, key := s.readPair t f.a.toNat, dst2 := f.b.toNat }) [] s)
/-- LDEXP: consecutive words to the selected members (R295, R296). -/
def execLdexp (f : FmtAK) (s : State) : Answer :=
  .next (meet f.k.toNat (kindOf 0x2D 1)
    (fun s t => { b := s.readG t f.b.toNat, key := s.readPair t f.a.toNat, dst := f.d.toNat, dst2 := f.b.toNat }) [] s)

end Sys2Proof.Machine
end

