-- ==== Sys2Proof/Machine/Flow.lean ====
section
/-! DEFINITION. Branches, calls, regions, ending threads, traps and special registers: majors 0x1F, 0x20 and 0x3F SEL 0 to
4 and 7 (R273-R280, R382-R385), and fetching an instruction's bytes (R26, R228). -/
namespace Sys2Proof.Machine

/-- The packet that holds an address (R228). -/
def packetOf (pc : DWord) : DWord := pc - BitVec.ofNat 64 (pc.toNat % 12)

/-! ## Fetch (R26, R228) -/

/-- The bytes of one line's part of a packet: `n` bytes at `va`. -/
def State.fetchPart (s : State) (t : ThreadRef) (va n : Nat) : Xlate × List Byte × State :=
  let x := s.fetchCheck t va
  match x.1 with
  | .ok pa host =>
    if host then (x.1, Memory.bytes x.2.hostMem pa n, x.2)
    else
      let r := x.2.readBytesAt (dieOf (s.coreOf t)) pa n
      (x.1, r.1, r.2)
  | _ => (x.1, [], x.2)
/-- The three words of the packet at `va`, fetched whole; a failure in either part is the fetch's (R26). -/
def State.fetchPacket (s : State) (t : ThreadRef) (va : DWord) : Res (List Word) :=
  let a := va.toNat
  let n := min 12 (256 - a % 256)
  let x := s.fetchPart t a n
  (xlateRes va .fetch x.1 x.2.2).andThen fun _ s =>
    if n = 12 then .ok (wordsOfBytes x.2.1) s
    else
      let y := s.fetchPart t (a + n) (12 - n)
      (xlateRes va .fetch y.1 y.2.2).andThen fun _ s => .ok (wordsOfBytes (x.2.1 ++ y.2.1)) s
/-- Words of an issue group from word `i` of a packet: up to the first with C = 0 (R232). -/
def groupLen : List Word → Nat
  | [] => 0
  | w :: r => if w.getLsbD 31 then 1 + groupLen r else 1

/-! ## Branches and calls -/

/-- BRA: a conditional branch by packets (R273). -/
def execBra (f : FmtJ) (s : State) : Answer :=
  .next (runTo (fun s t =>
    let p := packetOf (s.thread t).pc
    .ok (if s.readF t f.f.toNat != f.n then some (p + 12 * f.off.signExtend 64) else none) s) s)
/-- CALL: the link to g60:g61, a branch and a commit point (R273). -/
def execCall (f : FmtJ) (s : State) : Answer :=
  .next (runTo (fun s t =>
    let p := packetOf (s.thread t).pc
    let a := p + 12 * f.off.signExtend 64
    .ok (some a) ((s.writePair t 60 (p + 12)).commitTo t a)) s)
/-- A jump through a pair: ALIGN unless the target is a packet start (R274). -/
def jumpPair (f : FmtS) (k : State → ThreadRef → DWord → State) (s : State) : State :=
  runTo (fun s t =>
    let a := s.readPair t f.a.toNat
    if a.toNat % 12 ≠ 0 then .trapAt trapAlign 0 a s else .ok (some a) (k s t a)) s
/-- JMPR: a jump through a pair (R274). -/
def execJmpr (f : FmtS) (s : State) : Answer := .next (jumpPair f (fun s _ _ => s) s)
/-- CALLR: a jump with a link, a commit point (R274). -/
def execCallr (f : FmtS) (s : State) : Answer :=
  .next (jumpPair f (fun s t a => (s.writePair t f.d.toNat (packetOf (s.thread t).pc + 12)).commitTo t a) s)
/-- RET: a jump and a commit point (R274). -/
def execRet (f : FmtS) (s : State) : Answer := .next (jumpPair f (fun s t a => s.commitTo t a) s)

/-! ## Regions, ending, trigger -/

/-- REGION: a commit point (R275). -/
def execRegion (_ : FmtS) (s : State) : Answer := .next (runPure (fun s t => s.commit t) s)
/-- The implicit LEAVEs of an ending thread, releases (R209, R146). -/
def State.leaveAll (s : State) (t : ThreadRef) : State :=
  if (List.range 12).any (fun k => s.member t k) then
    (List.range 12).foldl (fun s k => s.writeK t k (s.readK t k &&& ~~~(laneBit t))) (s.drain (s.coreOf t))
  else s
/-- The tests of every mask of an issue's posys. -/
def State.testAll (s : State) (l : List ThreadRef) : State := (List.range 12).foldl (fun s k => s.testPhases l k) s
/-- A thread's stores that have not been performed, one entry for each (R210). -/
def State.storesOf (s : State) (t : ThreadRef) : List TrackEntry :=
  let core := s.coreOf t
  ((s.regs core).flatMap Reg.srcs ++ (s.hostq.filter (fun w => w.core == core)).map HostWrite.src).foldl (fun l e =>
    if e.task == t.task && e.tid == t.tid && !l.contains e then l ++ [e] else l) []
/-- The entries of a core's retirement tracker. -/
def State.tracked (s : State) (core : Nat) : List TrackEntry := Tbl.get [] s.tracker core
/-- What TAIL does once the tracker has room: the thread ends at once (R210). -/
def State.tailEnd (s : State) (t : ThreadRef) : State :=
  let c := s.coreOf t
  let s := { s with tracker := s.tracker.set [] c (s.tracked c ++ s.storesOf t) }
  (s.leaveAll t).stopThread t
/-- TAIL: ends the thread at once; the tracker drains its stores (R209, R210, R276). Where another word of its group waits, it
ends after that (log 27). -/
def execTail (_ : FmtS) (s : State) : Answer :=
  let s1 := runLanes (fun s t =>
    let c := s.coreOf t
    let s := s.commit t
    .ok () (if (s.thread t).status != .ready || decide (64 < (s.tracked c).length + (s.storesOf t).length) then s.stand t (.parked .tracker)
      else s.tailEnd t)) s
  .next (s.lanes.foldl (fun s t => if (s.thread t).status == .ended then s.afterEnd t.task else s) (s1.testAll s.lanes))
/-- EXIT: the thread ends once its results and stores are complete (R209, R210, R276). -/
def execExit (_ : FmtS) (s : State) : Answer :=
  .next ((runPure (fun s t =>
    ((s.commit t).leaveAll t).stand t .exiting) s).testAll s.lanes)
/-- The fields of a successor record, if it is well formed (R212). -/
def successorOf (b : List Byte) : Option Successor :=
  let d := fun i => natOfBytes ((b.drop (8 * i)).take 8)
  let e := d 0
  let th := fld (d 1) 15 0
  let rg := fld (d 1) 23 16
  if fld e 63 56 = 0 ∧ e % 12 = 0 ∧ 1 ≤ th ∧ th ≤ 1024 ∧ 1 ≤ rg ∧ rg ≤ 64 ∧ fld (d 1) 63 24 = 0 ∧
      (List.range 5).all (fun i => d (3 + i) == 0) then
    some ⟨BitVec.ofNat 64 e, th, rg, BitVec.ofNat 64 (d 2)⟩
  else none
/-- XSUCC: the task ends in favour of a successor (R212). -/
def execXsucc (f : FmtS) (s : State) : Answer :=
  let s1 := runLanes (fun s t =>
    let va := s.readPair t f.a.toNat
    if va.toNat % 64 ≠ 0 then .trapAt trapAlign 0 va s
    else (s.memReadRun t va 16 4).andThen fun b s =>
      match successorOf b with
      | none => illegal 13 t s
      | some r =>
        if (s.task t.task).xsucc.isSome then illegal 13 t s
        else .ok () (((s.commit t).modTask t.task (fun k => { k with xsucc := some r })).stand t (.parked (.xsucc va)))) s
  .next (s.lanes.foldl (fun s t => s.afterEnd t.task) s1)
/-- TRIG: marks the thread triggered, a commit point (R216, R276). -/
def execTrig (_ : FmtS) (s : State) : Answer :=
  let s1 := runPure (fun s t =>
    ((s.drain (s.coreOf t)).modThread t (fun th => { th with triggered := true })).commit t) s
  .next (s.lanes.foldl (fun s t => s.noteTrigger t.task) s1)
/-- YIELD: withdraws the thread from issue for 16 cycles (R277). -/
def execYield (_ : FmtS) (s : State) : Answer :=
  .next (runPure (fun s t => (s.stand t .yielded).modThread t (fun th => { th with since := s.tick })) s)
/-- YIELD_EXPIRE: the withdrawal ends (R277). -/
def execYieldExpire (t : ThreadRef) (s : State) : Answer :=
  .next (if (s.thread t).status == .yielded then s.wake t else s)

/-! ## Traps and special registers (R278-R280) -/

/-- TRAP: a software trap (R278). -/
def execTrap (f : FmtS) (s : State) : Answer := .next (runLanes (fun s _ => .trap trapSoft f.arg.toNat s) s)
/-- BKPT: a breakpoint, SOFT with SUB 256 + n (R385). -/
def execBkpt (f : FmtS) (s : State) : Answer := .next (runLanes (fun s _ => .trap trapSoft (256 + f.arg.toNat) s) s)

/-- The value of a special register (R279). -/
def State.special (s : State) (t : ThreadRef) (n : Nat) : Option Word :=
  let k := s.task t.task
  let w := fun (v : Nat) => some (BitVec.ofNat 32 v)
  match n with
  | 0x00 => w t.tid
  | 0x01 => w k.threads
  | 0x02 => w k.num
  | 0x03 => w k.x
  | 0x04 => w k.y
  | 0x05 => w k.z
  | 0x06 => w (laneOf t)
  | 0x07 => w (posyOf t)
  | 0x08 => w k.core
  | 0x09 => w (2 ^ (s.launchOf t.task).rcd.coresLog2)
  | 0x0A => w ((s.greg .peerid).toNat % 1024)
  | 0x0B => w k.launch
  | 0x0C => w (s.clock)
  | 0x0D => w (s.clock / 2 ^ 32)
  | 0x0E => w k.age
  | 0x0F => w (k.age / 2 ^ 32)
  | 0x10 => some (s.readFcr t)
  | 0x11 => some k.trapLo
  | 0x12 => some k.trapHi
  | 0x13 => w k.spmBase
  | 0x14 => w k.spmSize
  | 0x15 => w k.stage
  | 0x16 => w (k.phys / 8)
  | 0x17 => w (k.phys / 128)
  | _ => none
/-- SRD: reads a special register (R279). -/
def execSrd (f : FmtS) (s : State) : Answer :=
  .next (runLanes (fun s t =>
    match s.special t f.arg.toNat with
    | some v => .ok () (s.writeG t f.d.toNat v)
    | none => illegal 14 t s) s)
/-- SWR: writes FCR, TRAPBASELO or TRAPBASEHI (R280). -/
def execSwr (f : FmtS) (s : State) : Answer :=
  .next (runLanes (fun s t =>
    let v := s.readG t f.a.toNat
    match f.arg.toNat with
    | 0x10 => if fcrOk v then .ok () (s.modThread t (fun th => { th with fcr := v })) else illegal 14 t s
    | 0x11 => .ok () (s.modTask t.task (fun k => { k with trapLo := v }))
    | 0x12 =>
      if fld v.toNat 31 24 = 0 then .ok () (s.modTask t.task (fun k => { k with trapHi := v })) else illegal 14 t s
    | _ => illegal 14 t s) s)

/-! ## Return from a handler (R382-R384) -/

/-- The first word after the issue group that holds an address; where its packet cannot be read, the next word (log 28). -/
def State.afterGroup (s : State) (t : ThreadRef) (pc : DWord) : DWord :=
  match s.fetchPacket t (packetOf pc) with
  | .ok ws _ => pc + BitVec.ofNat 64 (4 * groupLen (ws.drop (pc.toNat % 12 / 4)))
  | .stop _ _ => pc + 4
/-- RTE to an address: handler mode ends, a commit point (R382). -/
def rte (target : State → ThreadRef → DWord) (s : State) : State :=
  runTo (fun s t =>
    if !(s.thread t).handler then illegal 15 t s
    else
      let a := target s t
      .ok (some a) ((s.modThread t (fun th => { th with handler := false })).commitTo t a)) s
/-- RTE.restart: re-executes the interrupted region (R382). -/
def execRteRestart (_ : FmtSA) (s : State) : Answer := .next (rte (fun s t => (s.thread t).trapRec.regionPc) s)
/-- RTE.next: continues past the faulting word (R382). -/
def execRteNext (_ : FmtSA) (s : State) : Answer :=
  .next (rte (fun s t =>
    let r := (s.thread t).trapRec
    if r.code = trapStore ∨ r.code = trapWound then r.pc else s.afterGroup t r.pc) s)
/-- A field of a trap record (R384). -/
def FaultRec.field (r : FaultRec) (n : Nat) : Word :=
  let w := fun (v : Nat) => BitVec.ofNat 32 v
  match n with
  | 0 => w r.code
  | 1 => w (r.sub % 65536)
  | 2 => r.va.truncate 32
  | 3 => w (fld r.va.toNat 55 32)
  | 4 => r.pc.truncate 32
  | 5 => r.regionPc.truncate 32
  | 6 => w r.tid
  | 7 => w r.task
  | 8 => w r.peer
  | 9 => w (b2n r.precise + 2 * b2n r.exited + 4 * b2n r.recoverable + 8 * b2n r.killed)
  | 10 => w (fld r.pc.toNat 55 32)
  | _ => w (fld r.regionPc.toNat 55 32)
/-- FLTRD: reads a field of the trap record (R384). -/
def execFltrd (f : FmtS) (s : State) : Answer :=
  .next (runPure (fun s t => s.writeG t f.d.toNat ((s.thread t).trapRec.field f.arg.toNat)) s)

end Sys2Proof.Machine
end

