-- ==== Sys2Proof/Machine/Atomics.lean ====
section
/-! DEFINITION. Atomics and reductions: majors 0x27 to 0x2B (R112, R288-R292). -/
namespace Sys2Proof.Machine

/-- Read the word or pair of words that an atomic works on in the L1 after R61. -/
def State.ownedValue (s : State) (core word : Nat) (wide : Bool) : DWord :=
  let v := fun (w : Nat) => match s.l1? core w with
    | some x => x.val
    | none => s.memWord w
  if wide then pairOf (v word) (v (word + 1)) else (v word).zeroExtend 64
/-- Write it. -/
def State.setOwned (s : State) (core word : Nat) (wide : Bool) (v : DWord) : State :=
  let s := s.putL1 core word ⟨.own, loWord v⟩
  if wide then s.putL1 core (word + 1) ⟨.own, hiWord v⟩ else s
/-- The registers that hold a value of the width. -/
def valueWords (wide : Bool) (v : DWord) : List Word := if wide then wordsOf v else [loWord v]
/-- Operand b of an atomic, and the swap of a CAS (R288). -/
def State.atomB (s : State) (t : ThreadRef) (b : Nat) (wide : Bool) : DWord :=
  if wide then s.readPair t b else (s.readG t b).zeroExtend 64
/-- Operators that PCIe AtomicOps carry (R34). -/
def hostAtomic (op : AtOp) : Bool :=
  match op with
  | .add | .exch | .cas => true
  | _ => false
/-- A core owns a word, or a word and the next. -/
def State.owns (s : State) (core word : Nat) (wide : Bool) : Bool :=
  (if wide then [word, word + 1] else [word]).all (fun w => match s.l1? core w with
    | some ⟨.own, _⟩ => true
    | _ => false)
/-- An atomic on device memory, after its checks: it hits where the core still owns the words, and else obtains the line first; the
old value (R61, R288). -/
def State.atomAt (s : State) (core pa : Nat) (op : AtOp) (wide : Bool) (b swap : DWord) : DWord × State :=
  let s := if s.owns core (pa / 4) wide then s else s.atomLine core (pa / 256)
  let old := s.ownedValue core (pa / 4) wide
  (old, (match atomNew op wide old b swap with
    | some v => s.setOwned core (pa / 4) wide v
    | none => s).settle (dieOf core) (pa / 256))
/-- An atomic on host memory as one PCIe AtomicOp, after the core's earlier writes to host memory; its copies of the words go (R34,
R63, R127). -/
def State.hostAtom (s : State) (core pa : Nat) (op : AtOp) (wide : Bool) (b swap : DWord) : DWord × State :=
  let n := if wide then 8 else 4
  let s := (s.issueHosts core).dropCopies core (hostWord pa) wide
  let old := BitVec.ofNat 64 (natOfBytes (Memory.bytes s.hostMem pa n))
  (old, match atomNew op wide old b swap with
    | some v => { s with hostMem := Memory.write s.hostMem pa (bytesOfNat n v.toNat) }
    | none => s)
/-- ORD of an atomic: the release part, then the acquire part (R118-R120). -/
def State.order (s : State) (core : Nat) (ord : BitVec 2) : State :=
  let s := if ord.getLsbD 1 then s.drain core else s
  if ord.getLsbD 0 then s.acquire core else s
/-- ATOM (R288, R289); PROT HOSTATOM is tested after R24, so after its check 8 (log 93). -/
def atom (f : FmtA) (op : AtOp) (wide : Bool) (s : State) : State :=
  runLanes (fun s t =>
    let va := s.readPair t f.a.toNat
    let b := s.atomB t f.b.toNat wide
    let swap := if op = .cas then s.atomB t (f.b.toNat + (if wide then 2 else 1)) wide else 0
    (s.locate t va (if wide then 8 else 4) .atomic).andThen fun l s =>
      let c := s.coreOf t
      if l.host && !hostAtomic op then .trapAt trapProt 9 va s
      else if !l.host && s.poisoned l.pa then .trapAt trapCorrupt 0 va (s.checkMeta (l.pa / 256))
      else
        let s := s.order c f.ord
        let r := if l.host then s.hostAtom c l.pa op wide b swap else s.atomAt c l.pa op wide b swap
        .ok () ((r.2.result t f.d.toNat (valueWords wide r.1)).commit t)) s
/-- ATOMS on a word of scratchpad (R288, R290). -/
def atoms (f : FmtA) (op : AtOp) (s : State) : State :=
  runLanes (fun s t =>
    let off := (s.readG t f.a.toNat).toNat
    let b := s.atomB t f.b.toNat false
    let swap := if op = .cas then s.atomB t (f.b.toNat + 1) false else 0
    (s.spmLocate t off 4).andThen fun _ s =>
      let s := s.order (s.coreOf t) f.ord
      let old := (wordOfBytes (s.spmBytes t.task off 4)).zeroExtend 64
      let s := match atomNew op false old b swap with
        | some v => s.spmPut t.task off (bytesOfWord (loWord v))
        | none => s
      .ok () ((s.result t f.d.toNat [loWord old]).commit t)) s
/-- A STORE trap becomes pending (R284). -/
def State.storeTrap (s : State) (t : ThreadRef) (sub : Nat) (va : DWord) : State :=
  s.modThread t (fun th => { th with stores := th.stores ++ [s.recordOf t { code := trapStore, sub := sub, va := va }] })
/-- Some task holds INC on the line's line-level lock (R112). -/
def State.incHeld (s : State) (line : Nat) : Bool := s.locks.any (fun e => e.line == some line && e.st.held? == some 5)
/-- A RED on a word of device memory: a partial, or at the home (R74, R78, R112); the core keeps no copy that misses it (R127). -/
def State.redAt (s : State) (core pa : Nat) (r : RedOp) (v : DWord) : State :=
  let line := pa / 256
  let far := fun (s : State) =>
    (((if (s.regs core).any (fun q => q.word / 64 == line) then s.drain core else s).countHome (dieOf core) line true).redF pa r v).dropCopies
      core (pa / 4) r.wide
  match redUop r with
  | none => far s
  | some u => if (s.lineMeta line).hint && !s.incHeld line then far s else s.redPartial core (pa / 4) u v
/-- RED (R291). -/
def red (f : FmtA) (op : AtOp) (s : State) : State :=
  let wide := f.d == 32
  runLanes (fun s t =>
    let va := s.readPair t f.a.toNat
    let b := s.atomB t f.b.toNat wide
    (s.locate t va (if wide then 8 else 4) .atomic).andThen fun l s =>
      let c := s.coreOf t
      if l.host then .trapAt trapProt 9 va s
      else
        let s := s.order c f.ord
        if s.poisoned l.pa then .ok () (((s.checkMeta (l.pa / 256)).storeTrap t 1 va).commit t)
        else .ok () ((s.redAt c l.pa ⟨op, wide⟩ b).commit t)) s
/-- REDS on a word of scratchpad (R292). -/
def reds (f : FmtA) (op : AtOp) (s : State) : State :=
  runLanes (fun s t =>
    let off := (s.readG t f.a.toNat).toNat
    let b := s.atomB t f.b.toNat false
    (s.spmLocate t off 4).andThen fun _ s =>
      let s := s.order (s.coreOf t) f.ord
      let old := (wordOfBytes (s.spmBytes t.task off 4)).zeroExtend 64
      let s := s.spmPut t.task off (bytesOfWord (loWord (redNew op false old b)))
      .ok () (s.commit t)) s


/-- ATOM_ADD_B32: 32-bit atomic add returning the old value (R288). -/
def execAtomAddB32 (f : FmtA) (s : State) : Answer := .next (atom f .add false s)

/-- ATOM_MIN_S32: 32-bit atomic signed minimum (R288). -/
def execAtomMinS32 (f : FmtA) (s : State) : Answer := .next (atom f .minS false s)

/-- ATOM_MIN_N32: 32-bit atomic unsigned minimum (R288). -/
def execAtomMinN32 (f : FmtA) (s : State) : Answer := .next (atom f .minN false s)

/-- ATOM_MAX_S32: 32-bit atomic signed maximum (R288). -/
def execAtomMaxS32 (f : FmtA) (s : State) : Answer := .next (atom f .maxS false s)

/-- ATOM_MAX_N32: 32-bit atomic unsigned maximum (R288). -/
def execAtomMaxN32 (f : FmtA) (s : State) : Answer := .next (atom f .maxN false s)

/-- ATOM_AND_B32: 32-bit atomic AND (R288). -/
def execAtomAndB32 (f : FmtA) (s : State) : Answer := .next (atom f .and false s)

/-- ATOM_OR_B32: 32-bit atomic OR (R288). -/
def execAtomOrB32 (f : FmtA) (s : State) : Answer := .next (atom f .or false s)

/-- ATOM_XOR_B32: 32-bit atomic XOR (R288). -/
def execAtomXorB32 (f : FmtA) (s : State) : Answer := .next (atom f .xor false s)

/-- ATOM_EXCH_B32: 32-bit atomic exchange (R288). -/
def execAtomExchB32 (f : FmtA) (s : State) : Answer := .next (atom f .exch false s)

/-- ATOM_CAS_B32: 32-bit atomic compare-and-swap (R288). -/
def execAtomCasB32 (f : FmtA) (s : State) : Answer := .next (atom f .cas false s)

/-- ATOM_FADD_F32: Atomic f32 add under R77 (R288). -/
def execAtomFaddF32 (f : FmtA) (s : State) : Answer := .next (atom f .faddF32 false s)

/-- ATOM_ADD_B64: 64-bit atomic add (R288). -/
def execAtomAddB64 (f : FmtA) (s : State) : Answer := .next (atom f .add true s)

/-- ATOM_MIN_S64: 64-bit atomic signed minimum (R288). -/
def execAtomMinS64 (f : FmtA) (s : State) : Answer := .next (atom f .minS true s)

/-- ATOM_MIN_N64: 64-bit atomic unsigned minimum (R288). -/
def execAtomMinN64 (f : FmtA) (s : State) : Answer := .next (atom f .minN true s)

/-- ATOM_MAX_S64: 64-bit atomic signed maximum (R288). -/
def execAtomMaxS64 (f : FmtA) (s : State) : Answer := .next (atom f .maxS true s)

/-- ATOM_MAX_N64: 64-bit atomic unsigned maximum (R288). -/
def execAtomMaxN64 (f : FmtA) (s : State) : Answer := .next (atom f .maxN true s)

/-- ATOM_AND_B64: 64-bit atomic AND (R288). -/
def execAtomAndB64 (f : FmtA) (s : State) : Answer := .next (atom f .and true s)

/-- ATOM_OR_B64: 64-bit atomic OR (R288). -/
def execAtomOrB64 (f : FmtA) (s : State) : Answer := .next (atom f .or true s)

/-- ATOM_XOR_B64: 64-bit atomic XOR (R288). -/
def execAtomXorB64 (f : FmtA) (s : State) : Answer := .next (atom f .xor true s)

/-- ATOM_EXCH_B64: 64-bit atomic exchange (R288). -/
def execAtomExchB64 (f : FmtA) (s : State) : Answer := .next (atom f .exch true s)

/-- ATOM_CAS_B64: 64-bit atomic compare-and-swap (R288). -/
def execAtomCasB64 (f : FmtA) (s : State) : Answer := .next (atom f .cas true s)

/-- ATOM_FADD_F64: Atomic f64 add under R77 (R288). -/
def execAtomFaddF64 (f : FmtA) (s : State) : Answer := .next (atom f .faddF64 true s)

/-- ATOMS_ADD_B32: SPM atomic add (R290). -/
def execAtomsAddB32 (f : FmtA) (s : State) : Answer := .next (atoms f .add s)

/-- ATOMS_MIN_S32: SPM atomic signed minimum (R290). -/
def execAtomsMinS32 (f : FmtA) (s : State) : Answer := .next (atoms f .minS s)

/-- ATOMS_MIN_N32: SPM atomic unsigned minimum (R290). -/
def execAtomsMinN32 (f : FmtA) (s : State) : Answer := .next (atoms f .minN s)

/-- ATOMS_MAX_S32: SPM atomic signed maximum (R290). -/
def execAtomsMaxS32 (f : FmtA) (s : State) : Answer := .next (atoms f .maxS s)

/-- ATOMS_MAX_N32: SPM atomic unsigned maximum (R290). -/
def execAtomsMaxN32 (f : FmtA) (s : State) : Answer := .next (atoms f .maxN s)

/-- ATOMS_AND_B32: SPM atomic AND (R290). -/
def execAtomsAndB32 (f : FmtA) (s : State) : Answer := .next (atoms f .and s)

/-- ATOMS_OR_B32: SPM atomic OR (R290). -/
def execAtomsOrB32 (f : FmtA) (s : State) : Answer := .next (atoms f .or s)

/-- ATOMS_XOR_B32: SPM atomic XOR (R290). -/
def execAtomsXorB32 (f : FmtA) (s : State) : Answer := .next (atoms f .xor s)

/-- ATOMS_EXCH_B32: SPM atomic exchange (R290). -/
def execAtomsExchB32 (f : FmtA) (s : State) : Answer := .next (atoms f .exch s)

/-- ATOMS_CAS_B32: SPM atomic compare-and-swap (R290). -/
def execAtomsCasB32 (f : FmtA) (s : State) : Answer := .next (atoms f .cas s)

/-- ATOMS_FADD_F32: SPM atomic f32 add (R290). -/
def execAtomsFaddF32 (f : FmtA) (s : State) : Answer := .next (atoms f .faddF32 s)

/-- RED_ADD: Reducing integer add, entering U as a partial or applied as RedF (R291). -/
def execRedAdd (f : FmtA) (s : State) : Answer := .next (red f .add s)

/-- RED_MIN_S: Signed minimum applied at the home as RedF (R291). -/
def execRedMinS (f : FmtA) (s : State) : Answer := .next (red f .minS s)

/-- RED_MIN_N: Unsigned minimum applied as RedF (R291). -/
def execRedMinN (f : FmtA) (s : State) : Answer := .next (red f .minN s)

/-- RED_MAX_S: Signed maximum applied as RedF (R291). -/
def execRedMaxS (f : FmtA) (s : State) : Answer := .next (red f .maxS s)

/-- RED_MAX_N: Unsigned maximum applied as RedF (R291). -/
def execRedMaxN (f : FmtA) (s : State) : Answer := .next (red f .maxN s)

/-- RED_AND: AND applied as RedF (R291). -/
def execRedAnd (f : FmtA) (s : State) : Answer := .next (red f .and s)

/-- RED_OR: OR applied as RedF (R291). -/
def execRedOr (f : FmtA) (s : State) : Answer := .next (red f .or s)

/-- RED_XOR: XOR applied as RedF (R291). -/
def execRedXor (f : FmtA) (s : State) : Answer := .next (red f .xor s)

/-- RED_FADD_F32: Reducing f32 add (R291). -/
def execRedFaddF32 (f : FmtA) (s : State) : Answer := .next (red f .faddF32 s)

/-- RED_FADD_F64: Reducing f64 add (R291). -/
def execRedFaddF64 (f : FmtA) (s : State) : Answer := .next (red f .faddF64 s)

/-- RED_FADD_BF2: Reducing add of two BF16 halves (R291). -/
def execRedFaddBf2 (f : FmtA) (s : State) : Answer := .next (red f .faddBf2 s)

/-- REDS_ADD_B32: SPM reducing add at the bank (R292). -/
def execRedsAddB32 (f : FmtA) (s : State) : Answer := .next (reds f .add s)

/-- REDS_MIN_S32: SPM reducing signed minimum (R292). -/
def execRedsMinS32 (f : FmtA) (s : State) : Answer := .next (reds f .minS s)

/-- REDS_MIN_N32: SPM reducing unsigned minimum (R292). -/
def execRedsMinN32 (f : FmtA) (s : State) : Answer := .next (reds f .minN s)

/-- REDS_MAX_S32: SPM reducing signed maximum (R292). -/
def execRedsMaxS32 (f : FmtA) (s : State) : Answer := .next (reds f .maxS s)

/-- REDS_MAX_N32: SPM reducing unsigned maximum (R292). -/
def execRedsMaxN32 (f : FmtA) (s : State) : Answer := .next (reds f .maxN s)

/-- REDS_AND_B32: SPM reducing AND (R292). -/
def execRedsAndB32 (f : FmtA) (s : State) : Answer := .next (reds f .and s)

/-- REDS_OR_B32: SPM reducing OR (R292). -/
def execRedsOrB32 (f : FmtA) (s : State) : Answer := .next (reds f .or s)

/-- REDS_XOR_B32: SPM reducing XOR (R292). -/
def execRedsXorB32 (f : FmtA) (s : State) : Answer := .next (reds f .xor s)

/-- REDS_FADD_F32: SPM reducing f32 add (R292). -/
def execRedsFaddF32 (f : FmtA) (s : State) : Answer := .next (reds f .faddF32 s)

/-- REDS_FADD_BF2: SPM reducing BF16-pair add (R292). -/
def execRedsFaddBf2 (f : FmtA) (s : State) : Answer := .next (reds f .faddBf2 s)

end Sys2Proof.Machine
end

