-- ==== Sys2Proof/Machine/BarrierInstr.lean ====
section
/-! DEFINITION. Barrier objects: major 0x2F (R299-R304). -/
namespace Sys2Proof.Machine

/-- The object that A names, with the checks of R299. -/
def State.barrierOf (s : State) (t : ThreadRef) (f : FmtT) : Res Nat :=
  let off := (s.readG t f.a.toNat).toNat
  (s.spmLocate t off 32).andThen fun _ s => .ok off s
/-- A word on a barrier object, and the test at the end of its cycle (R303). -/
def onBarrier (f : FmtT) (g : State → ThreadRef → Nat → State) (s : State) : State :=
  (runLanes (fun s t => (s.barrierOf t f).andThen fun off s => .ok () (g s t off)) s).endCycle

/-- BWAITs on an object go on with H = 0 when it is initialised (R300). -/
def State.releaseInit (s : State) (task off : Nat) : State :=
  (s.liveOf task).foldl (fun s th =>
    match th.status with
    | .parked (.bwait o _ h) => if o = off then (s.writeG th.ref h 0).wake th.ref else s
    | _ => s) s
/-- BINIT: initialises an object in one step (R300). -/
def execBinit (f : FmtT) (s : State) : Answer :=
  .next (onBarrier f (fun s t off =>
    let e := (s.readG t f.bo.toNat).toNat % 65536
    ((s.modTask t.task (fun k =>
      { k with spm := Memory.write k.spm off ({ expect := e, nextexp := e } : Barrier).pack,
               bars := off :: k.bars.filter (· ≠ off) })).releaseInit t.task off).commit t) s)
/-- BARR and BDROP: an arrival, a release and a commit point (R301). -/
def arriveBarrier (f : FmtT) (drop : Bool) (s : State) : State :=
  onBarrier f (fun s t off =>
    let s := s.drain (s.coreOf t)
    let b := s.barrier t.task off
    ((b.2.setBarrier t.task off (b.1.arrive drop)).result t f.h.toNat [BitVec.ofNat 32 b.1.phase]).commit t) s
/-- BARR: counts one arrival (R301). -/
def execBarr (f : FmtT) (s : State) : Answer := .next (arriveBarrier f false s)
/-- BDROP: counts an arrival and lowers NEXTEXP (R301). -/
def execBdrop (f : FmtT) (s : State) : Answer := .next (arriveBarrier f true s)
/-- BWAIT: parks while PHASE is the operand; its return is an acquire (R304). -/
def execBwait (f : FmtT) (s : State) : Answer :=
  .next (onBarrier f (fun s t off =>
    let p := (s.readG t f.bo.toNat).toNat % 65536
    let b := s.barrier t.task off
    if b.1.phase = p then b.2.park t (.bwait off p f.h.toNat)
    else (b.2.acquire (s.coreOf t)).result t f.h.toNat [BitVec.ofNat 32 b.1.phase]) s)
/-- BEXP: adds expected bytes to PENDB (R302); adding 0 is a change too (R303, log 91). -/
def execBexp (f : FmtT) (s : State) : Answer :=
  .next (onBarrier f (fun s t off =>
    let n := (s.readPair t f.bo.toNat).toNat % 2 ^ 48
    (s.countOn t.task off n).commit t) s)
/-- BTEST: reports PHASE and ERROR without parking (R304). -/
def execBtest (f : FmtT) (s : State) : Answer :=
  .next (onBarrier f (fun s t off =>
    let p := (s.readG t f.bo.toNat).toNat % 65536
    let b := s.barrier t.task off
    let done := b.1.phase ≠ p
    let s := if done then b.2.acquire (s.coreOf t) else b.2
    s.result t f.h.toNat [BitVec.ofNat 32 (b2n done + 2 * b2n b.1.error + 65536 * b.1.phase)]) s)

end Sys2Proof.Machine
end

