-- ==== Sys2Proof/Machine/FloatInstr.lean ====
section
/-! DEFINITION. Floating point and conversion: majors 0x07 and 0x33 to 0x37 (13_ref_float). -/
namespace Sys2Proof.Machine

/-! ## Operand forms -/

/-- An operation on patterns: rounding mode, d, a, b (R314). -/
abbrev FpOp := Fp.Mode → Nat → Nat → Nat → Fp.Res
/-- The mode that FCR.RM supplies (R190, R313). -/
def State.fpMode (s : State) (t : ThreadRef) : Fp.Mode := Fp.Mode.ofCode (rmOf (s.readFcr t))
/-- The flags of a result join FCR (R189). -/
def State.orFlags (s : State) (t : ThreadRef) (fl : Fp.Flags) : State := s.orFcr t fl.toNat
/-- D from d, a and b in registers (R314, R318); `late` for the SFU, whose results are variable-latency (R233). -/
def opFp32 (f : FmtR) (late : Bool) (g : FpOp) (s : State) : State :=
  runPure (fun s t =>
    let r := g (s.fpMode t) (s.readG t f.d.toNat).toNat (s.readG t f.a.toNat).toNat (s.readG t f.b.toNat).toNat
    let s := (s.useLast t (mark f.la [(f.a.toNat, 1)] ++ mark f.lb [(f.b.toNat, 1)])).orFlags t r.flags
    let v : Word := BitVec.ofNat 32 r.bits
    if late then s.result t f.d.toNat [v] else s.writeG t f.d.toNat v) s
/-- D from d, a and b in pairs. -/
def opFp64 (f : FmtR) (late : Bool) (g : FpOp) (s : State) : State :=
  runPure (fun s t =>
    let r := g (s.fpMode t) (s.readPair t f.d.toNat).toNat (s.readPair t f.a.toNat).toNat (s.readPair t f.b.toNat).toNat
    let s := (s.useLast t (mark f.la [(f.a.toNat, 2)] ++ mark f.lb [(f.b.toNat, 2)])).orFlags t r.flags
    let v : DWord := BitVec.ofNat 64 r.bits
    if late then s.result t f.d.toNat (wordsOf v) else s.writePair t f.d.toNat v) s
/-- An operation on both halves of a register, the flags combined by union (R316). -/
def halves (g : FpOp) : FpOp := fun m d a b =>
  let lo := g m (d % 65536) (a % 65536) (b % 65536)
  let hi := g m (d / 65536) (a / 65536) (b / 65536)
  { bits := lo.bits + 65536 * hi.bits, flags := lo.flags ||| hi.flags }

/-! ## Operations on patterns -/

/-- a + b (R314). -/
def fpAdd (F : Fp.Fmt) : FpOp := fun m _ a b => Fp.add F m (F.val a) (F.val b)
/-- a − b (R314). -/
def fpSub (F : Fp.Fmt) : FpOp := fun m _ a b => Fp.add F m (F.val a) (F.val b).neg
/-- a × b (R314). -/
def fpMul (F : Fp.Fmt) : FpOp := fun m _ a b => Fp.mul F m (F.val a) (F.val b)
/-- a × b + d with one rounding (R314). -/
def fpFma (F : Fp.Fmt) : FpOp := fun m d a b => Fp.fma F m (F.val a) (F.val b) (F.val d)
/-- minimumNumber (R315). -/
def fpMin (F : Fp.Fmt) : FpOp := fun _ _ a b => Fp.minMax F false a b
/-- maximumNumber (R315). -/
def fpMax (F : Fp.Fmt) : FpOp := fun _ _ a b => Fp.minMax F true a b
/-- The sign cleared; a NaN gives the canonical one (R315). -/
def fpAbs (F : Fp.Fmt) : FpOp := fun _ _ a _ =>
  { bits := if (F.val a).isNan then F.cnan else a % F.sign true, flags := 0 }
/-- The sign inverted; a NaN gives the canonical one (R315). -/
def fpNeg (F : Fp.Fmt) : FpOp := fun _ _ a _ =>
  { bits := if (F.val a).isNan then F.cnan else (a + F.sign true) % (2 * F.sign true), flags := 0 }
/-- Rounded to an integral value under a mode of the mnemonic (R315). -/
def fpRnd (F : Fp.Fmt) (m : Fp.Mode) : FpOp := fun _ _ a _ => Fp.rnd F m a
/-- The quotient (R318). -/
def fpDiv (F : Fp.Fmt) : FpOp := fun m _ a b => Fp.div F m (F.val a) (F.val b)
/-- The reciprocal (R318). -/
def fpRcp (F : Fp.Fmt) : FpOp := fun m _ a _ => Fp.div F m (.fin false 1 0) (F.val a)
/-- The square root (R318). -/
def fpSqrt (F : Fp.Fmt) : FpOp := fun m _ a _ => Fp.sqrt F m (F.val a)
/-- DOT4: four exact products and d, rounded once (R317). -/
def fpDot4 (F : Fp.Fmt) : FpOp := fun _ d a b =>
  Fp.dotStep F d ((List.range 4).map (fun i => (fld a (8 * i + 7) (8 * i), fld b (8 * i + 7) (8 * i))))

/-! ## Majors 0x33, 0x34 (R314, R315) -/

/-- FADD_F32: f32 add under FCR.RM (R314). -/
def execFaddF32 (f : FmtR) (s : State) : Answer := .next (opFp32 f false (fpAdd Fp.f32) s)

/-- FSUB_F32: f32 subtract (R314). -/
def execFsubF32 (f : FmtR) (s : State) : Answer := .next (opFp32 f false (fpSub Fp.f32) s)

/-- FMUL_F32: f32 multiply (R314). -/
def execFmulF32 (f : FmtR) (s : State) : Answer := .next (opFp32 f false (fpMul Fp.f32) s)

/-- FFMA_F32: f32 fused multiply-add into d (R314). -/
def execFfmaF32 (f : FmtR) (s : State) : Answer := .next (opFp32 f false (fpFma Fp.f32) s)

/-- FMIN_F32: f32 minimumNumber (R315). -/
def execFminF32 (f : FmtR) (s : State) : Answer := .next (opFp32 f false (fpMin Fp.f32) s)

/-- FMAX_F32: f32 maximumNumber (R315). -/
def execFmaxF32 (f : FmtR) (s : State) : Answer := .next (opFp32 f false (fpMax Fp.f32) s)

/-- FABS_F32: Clears the sign of an f32 (R315). -/
def execFabsF32 (f : FmtR) (s : State) : Answer := .next (opFp32 f false (fpAbs Fp.f32) s)

/-- FNEG_F32: Inverts the sign of an f32 (R315). -/
def execFnegF32 (f : FmtR) (s : State) : Answer := .next (opFp32 f false (fpNeg Fp.f32) s)

/-- FRND_F32_RN: Rounds an f32 to integral, nearest (R315). -/
def execFrndF32Rn (f : FmtR) (s : State) : Answer := .next (opFp32 f false (fpRnd Fp.f32 .rn) s)

/-- FRND_F32_RZ: Rounds an f32 to integral toward zero (R315). -/
def execFrndF32Rz (f : FmtR) (s : State) : Answer := .next (opFp32 f false (fpRnd Fp.f32 .rz) s)

/-- FRND_F32_RU: Rounds an f32 to integral upward (R315). -/
def execFrndF32Ru (f : FmtR) (s : State) : Answer := .next (opFp32 f false (fpRnd Fp.f32 .ru) s)

/-- FRND_F32_RD: Rounds an f32 to integral downward (R315). -/
def execFrndF32Rd (f : FmtR) (s : State) : Answer := .next (opFp32 f false (fpRnd Fp.f32 .rd) s)

/-- FADD_F64: f64 add on pairs (R314). -/
def execFaddF64 (f : FmtR) (s : State) : Answer := .next (opFp64 f false (fpAdd Fp.f64) s)

/-- FSUB_F64: f64 subtract (R314). -/
def execFsubF64 (f : FmtR) (s : State) : Answer := .next (opFp64 f false (fpSub Fp.f64) s)

/-- FMUL_F64: f64 multiply (R314). -/
def execFmulF64 (f : FmtR) (s : State) : Answer := .next (opFp64 f false (fpMul Fp.f64) s)

/-- FFMA_F64: f64 fused multiply-add (R314). -/
def execFfmaF64 (f : FmtR) (s : State) : Answer := .next (opFp64 f false (fpFma Fp.f64) s)

/-- FMIN_F64: f64 minimumNumber (R315). -/
def execFminF64 (f : FmtR) (s : State) : Answer := .next (opFp64 f false (fpMin Fp.f64) s)

/-- FMAX_F64: f64 maximumNumber (R315). -/
def execFmaxF64 (f : FmtR) (s : State) : Answer := .next (opFp64 f false (fpMax Fp.f64) s)

/-- FABS_F64: Clears the sign of an f64 (R315). -/
def execFabsF64 (f : FmtR) (s : State) : Answer := .next (opFp64 f false (fpAbs Fp.f64) s)

/-- FNEG_F64: Inverts the sign of an f64 (R315). -/
def execFnegF64 (f : FmtR) (s : State) : Answer := .next (opFp64 f false (fpNeg Fp.f64) s)

/-- FRND_F64_RN: Rounds an f64 to integral, nearest (R315). -/
def execFrndF64Rn (f : FmtR) (s : State) : Answer := .next (opFp64 f false (fpRnd Fp.f64 .rn) s)

/-- FRND_F64_RZ: Rounds an f64 toward zero (R315). -/
def execFrndF64Rz (f : FmtR) (s : State) : Answer := .next (opFp64 f false (fpRnd Fp.f64 .rz) s)

/-- FRND_F64_RU: Rounds an f64 upward (R315). -/
def execFrndF64Ru (f : FmtR) (s : State) : Answer := .next (opFp64 f false (fpRnd Fp.f64 .ru) s)

/-- FRND_F64_RD: Rounds an f64 downward (R315). -/
def execFrndF64Rd (f : FmtR) (s : State) : Answer := .next (opFp64 f false (fpRnd Fp.f64 .rd) s)

/-! ## Major 0x35 (R316, R317) -/

/-- HADD2_H: Packed binary16 add (R316). -/
def execHadd2H (f : FmtR) (s : State) : Answer := .next (opFp32 f false (halves (fpAdd Fp.h16)) s)

/-- HSUB2_H: Packed binary16 subtract (R316). -/
def execHsub2H (f : FmtR) (s : State) : Answer := .next (opFp32 f false (halves (fpSub Fp.h16)) s)

/-- HMUL2_H: Packed binary16 multiply (R316). -/
def execHmul2H (f : FmtR) (s : State) : Answer := .next (opFp32 f false (halves (fpMul Fp.h16)) s)

/-- HFMA2_H: Packed binary16 fused multiply-add (R316). -/
def execHfma2H (f : FmtR) (s : State) : Answer := .next (opFp32 f false (halves (fpFma Fp.h16)) s)

/-- HMIN2_H: Packed binary16 minimum (R316). -/
def execHmin2H (f : FmtR) (s : State) : Answer := .next (opFp32 f false (halves (fpMin Fp.h16)) s)

/-- HMAX2_H: Packed binary16 maximum (R316). -/
def execHmax2H (f : FmtR) (s : State) : Answer := .next (opFp32 f false (halves (fpMax Fp.h16)) s)

/-- HADD2_BF: Packed BF16 add (R316). -/
def execHadd2Bf (f : FmtR) (s : State) : Answer := .next (opFp32 f false (halves (fpAdd Fp.bf)) s)

/-- HSUB2_BF: Packed BF16 subtract (R316). -/
def execHsub2Bf (f : FmtR) (s : State) : Answer := .next (opFp32 f false (halves (fpSub Fp.bf)) s)

/-- HMUL2_BF: Packed BF16 multiply (R316). -/
def execHmul2Bf (f : FmtR) (s : State) : Answer := .next (opFp32 f false (halves (fpMul Fp.bf)) s)

/-- HFMA2_BF: Packed BF16 fused multiply-add (R316). -/
def execHfma2Bf (f : FmtR) (s : State) : Answer := .next (opFp32 f false (halves (fpFma Fp.bf)) s)

/-- HMIN2_BF: Packed BF16 minimum (R316). -/
def execHmin2Bf (f : FmtR) (s : State) : Answer := .next (opFp32 f false (halves (fpMin Fp.bf)) s)

/-- HMAX2_BF: Packed BF16 maximum (R316). -/
def execHmax2Bf (f : FmtR) (s : State) : Answer := .next (opFp32 f false (halves (fpMax Fp.bf)) s)

/-- DOT4_E4: Four exact E4 products added to f32 d with one RN rounding (R317). -/
def execDot4E4 (f : FmtR) (s : State) : Answer := .next (opFp32 f false (fpDot4 Fp.e4) s)

/-- DOT4_E5: Four exact E5 products added to f32 d (R317). -/
def execDot4E5 (f : FmtR) (s : State) : Answer := .next (opFp32 f false (fpDot4 Fp.e5) s)

/-! ## Major 0x36 (R318-R320) -/

/-- FRCP_F32: Correctly rounded f32 reciprocal (R318). -/
def execFrcpF32 (f : FmtR) (s : State) : Answer := .next (opFp32 f true (fpRcp Fp.f32) s)

/-- FRSQ_F32: Nearest f32 reciprocal square root (R318). -/
def execFrsqF32 (f : FmtR) (s : State) : Answer :=
  .next (opFp32 f true (fun _ _ a _ => Fp.rsqrt Fp.f32 (Fp.f32.val a)) s)

/-- FSQRT_F32: Correctly rounded f32 square root (R318). -/
def execFsqrtF32 (f : FmtR) (s : State) : Answer := .next (opFp32 f true (fpSqrt Fp.f32) s)

/-- FEXP2_F32: Nearest 2^a (R318). -/
def execFexp2F32 (f : FmtR) (s : State) : Answer := .next (opFp32 f true (fun _ _ a _ => Fp.exp2 (Fp.f32.val a)) s)

/-- FLOG2_F32: Nearest log2 a (R318). -/
def execFlog2F32 (f : FmtR) (s : State) : Answer := .next (opFp32 f true (fun _ _ a _ => Fp.log2 (Fp.f32.val a)) s)

/-- FSIN_F32: Nearest sin 2πa (R318). -/
def execFsinF32 (f : FmtR) (s : State) : Answer := .next (opFp32 f true (fun _ _ a _ => Fp.sin a) s)

/-- FCOS_F32: Nearest cos 2πa (R318). -/
def execFcosF32 (f : FmtR) (s : State) : Answer := .next (opFp32 f true (fun _ _ a _ => Fp.cos a) s)

/-- FDIV_F32: Correctly rounded f32 division (R318). -/
def execFdivF32 (f : FmtR) (s : State) : Answer := .next (opFp32 f true (fpDiv Fp.f32) s)

/-- FSQRT_F64: Correctly rounded f64 square root (R318). -/
def execFsqrtF64 (f : FmtR) (s : State) : Answer := .next (opFp64 f true (fpSqrt Fp.f64) s)

/-- FDIV_F64: Correctly rounded f64 division (R318). -/
def execFdivF64 (f : FmtR) (s : State) : Answer := .next (opFp64 f true (fpDiv Fp.f64) s)

/-- FRCP_F64: Correctly rounded f64 reciprocal (R318). -/
def execFrcpF64 (f : FmtR) (s : State) : Answer := .next (opFp64 f true (fpRcp Fp.f64) s)

/-- A class to one register (R320). -/
def opClass (f : FmtR) (n : Nat) (g : State → ThreadRef → Nat) (s : State) : State :=
  runPure (fun s t =>
    let v : Word := BitVec.ofNat 32 (g s t)
    (s.useLast t (mark f.la [(f.a.toNat, n)])).result t f.d.toNat [v]) s

/-- FCLASS_F32: Classifies an f32 into a one-hot word (R320). -/
def execFclassF32 (f : FmtR) (s : State) : Answer :=
  .next (opClass f 1 (fun s t => Fp.classify Fp.f32 (s.readG t f.a.toNat).toNat) s)

/-- FCLASS_F64: Classifies an f64 (R320). -/
def execFclassF64 (f : FmtR) (s : State) : Answer :=
  .next (opClass f 2 (fun s t => Fp.classify Fp.f64 (s.readPair t f.a.toNat).toNat) s)

/-! ## FCMP and CVT (R321-R323) -/

/-- The format that FCMP's TY names (R321). -/
def fcmpFmt (ty : Nat) : Fp.Fmt :=
  match ty with
  | 4 => Fp.f32
  | 5 => Fp.f64
  | 6 => Fp.h16
  | _ => Fp.bf
/-- FCMP's condition, and whether it raises NV (R321). -/
def fcmpHolds (F : Fp.Fmt) (cc a b : Nat) : Bool × Bool :=
  let x := F.val a
  let y := F.val b
  let un := x.isNan || y.isNan
  let sn := x.isSnan || y.isSnan
  let o := Fp.cmp x y
  let c := match cc with
    | 6 => un
    | 7 => !un
    | 1 => un || o != .eq
    | _ => !un && ccHolds cc (o == .lt) (o == .eq)
  (c, if 2 ≤ cc ∧ cc ≤ 5 then un else sn)

/-- FCMP: Compares two floating-point values into a flag (R321). -/
def execFcmp (f : FmtF) (s : State) : Answer :=
  let F := fcmpFmt f.ty.toNat
  let n := if f.ty = 5 then 2 else 1
  .next (runPure (fun s t =>
    let rd := fun (r : BitVec 6) => (if f.ty = 5 then (s.readPair t r.toNat).toNat else (s.readG t r.toNat).toNat) % 2 ^ F.width
    let v := fcmpHolds F f.cc.toNat (rd f.a) (rd f.b)
    let s := s.useLast t (mark f.la [(f.a.toNat, n)] ++ mark f.lb [(f.b.toNat, n)])
    (if v.2 then s.orFlags t Fp.NV else s).writeF t f.fd.toNat v.1) s)
/-- What CVT writes for a result of a type: bits above a narrow result are zero, or copies of its sign (R322). -/
def cvtWords (to_ : Fp.Ty) (bits : Nat) : List Word :=
  match to_ with
  | .int ⟨true, 8⟩ => [(BitVec.ofNat 8 bits).signExtend 32]
  | .int ⟨true, 16⟩ => [(BitVec.ofNat 16 bits).signExtend 32]
  | _ => if to_.width = 64 then wordsOf (BitVec.ofNat 64 bits) else [BitVec.ofNat 32 bits]
/-- The type of a code that has passed the TYPE check. -/
def tyOf (c : BitVec 4) : Fp.Ty := (Fp.Ty.ofCode c.toNat).getD (.int ⟨true, 32⟩)
/-- CVT: Converts between types under the word's rounding mode (R322, R323). -/
def execCvt (f : FmtC) (s : State) : Answer :=
  let to_ := tyOf f.to_
  let src := tyOf f.from_
  .next (runPure (fun s t =>
    let x := (if src.width = 64 then (s.readPair t f.a.toNat).toNat else (s.readG t f.a.toNat).toNat) % 2 ^ src.width
    let r := Fp.convert to_ src (Fp.Mode.ofCode f.rm.toNat) x
    let s := (s.useLast t (mark f.la [(f.a.toNat, tyRegs f.from_)])).orFlags t r.flags
    s.writeRun t f.d.toNat (cvtWords to_ r.bits)) s)

end Sys2Proof.Machine
end

