-- ==== Sys2Proof/Machine/Block.lean ====
section
/-! DEFINITION. Block forms: majors 0x38 to 0x3A (R324, R325). -/
namespace Sys2Proof.Machine

/-- First registers of the elements of a block with corner `r`, `n` registers each, row by row (R324). -/
def blockAt (f : FmtX) (n r : Nat) : List Nat :=
  (List.range (2 ^ f.xr.toNat)).flatMap (fun i => (List.range (2 ^ f.xc.toNat)).map (fun j => r + 8 * i + n * j))
/-- The registers of an element as one number. -/
def State.element (s : State) (t : ThreadRef) (n r : Nat) : Nat :=
  if n = 2 then (s.readPair t r).toNat else (s.readG t r).toNat
/-- Every element is computed from the registers as they stood, and only then written (R324). -/
def opBlock (f : FmtX) (n : Nat) (g : FpOp) (s : State) : State :=
  runPure (fun s t =>
    let m := s.fpMode t
    let ds := blockAt f n f.d.toNat
    let rs := (List.range ds.length).map (fun i =>
      g m (s.element t n (ds.getD i 0)) (s.element t n ((blockAt f n f.a.toNat).getD i 0))
        (s.element t n ((blockAt f n f.b.toNat).getD i 0)))
    let s := (List.range ds.length).foldl (fun (s : State) i =>
      let v := (rs.getD i { bits := 0 }).bits
      s.writeRun t (ds.getD i 0) (if n = 2 then wordsOf (BitVec.ofNat 64 v) else [BitVec.ofNat 32 v])) s
    s.orFlags t (rs.foldl (fun x r => x ||| r.flags) 0)) s
/-- An integer element operation, which sets no flag (R190). -/
def wordOp (g : Word → Word → Word) : FpOp := fun _ _ a b =>
  { bits := (g (BitVec.ofNat 32 a) (BitVec.ofNat 32 b)).toNat, flags := 0 }

/-- BLK_ADD_B32: Block integer add over a register rectangle (R324). -/
def execBlkAddB32 (f : FmtX) (s : State) : Answer := .next (opBlock f 1 (wordOp (fun a b => a + b)) s)

/-- BLK_MOV_B32: Block register copy (R324). -/
def execBlkMovB32 (f : FmtX) (s : State) : Answer := .next (opBlock f 1 (wordOp (fun a _ => a)) s)

/-- BLK_AND_B32: Block AND (R324). -/
def execBlkAndB32 (f : FmtX) (s : State) : Answer := .next (opBlock f 1 (wordOp (fun a b => a &&& b)) s)

/-- BLK_XOR_B32: Block XOR (R324). -/
def execBlkXorB32 (f : FmtX) (s : State) : Answer := .next (opBlock f 1 (wordOp (fun a b => a ^^^ b)) s)

/-- BLK_FADD_F32: Block f32 add (R324). -/
def execBlkFaddF32 (f : FmtX) (s : State) : Answer := .next (opBlock f 1 (fpAdd Fp.f32) s)

/-- BLK_FMUL_F32: Block f32 multiply (R324). -/
def execBlkFmulF32 (f : FmtX) (s : State) : Answer := .next (opBlock f 1 (fpMul Fp.f32) s)

/-- BLK_FFMA_F32: Block f32 fused multiply-add (R324). -/
def execBlkFfmaF32 (f : FmtX) (s : State) : Answer := .next (opBlock f 1 (fpFma Fp.f32) s)

/-- BLK_FMAX_F32: Block f32 maximum (R324). -/
def execBlkFmaxF32 (f : FmtX) (s : State) : Answer := .next (opBlock f 1 (fpMax Fp.f32) s)

/-- BLK_HFMA2_H: Block packed binary16 FMA (R324). -/
def execBlkHfma2H (f : FmtX) (s : State) : Answer := .next (opBlock f 1 (halves (fpFma Fp.h16)) s)

/-- BLK_HFMA2_BF: Block packed BF16 FMA (R324). -/
def execBlkHfma2Bf (f : FmtX) (s : State) : Answer := .next (opBlock f 1 (halves (fpFma Fp.bf)) s)

/-- BLK_FFMA_F64: Block f64 FMA on register pairs (R324). -/
def execBlkFfmaF64 (f : FmtX) (s : State) : Answer := .next (opBlock f 2 (fpFma Fp.f64) s)

end Sys2Proof.Machine
end

