-- ==== Sys2Proof/Machine/TensorOps.lean ====
section
/-! DEFINITION. Tensor records, matrices over GF(2), layout states and the place of an element (05_layout R147-R165). -/
namespace Sys2Proof.Machine

/-! ## Matrices over GF(2) (R150, R158, R164) -/

/-- One row applied to an index. -/
def rowDot (r : BitVec 48) (x : Nat) : Bool := parity 48 (r.toNat &&& x)
/-- M·x on `n` bits (R150). -/
def matVec (m : List (BitVec 48)) (n x : Nat) : Nat :=
  (List.range n).foldl (fun v j => v + 2 ^ j * b2n (rowDot (m.getD j 0) x)) 0
/-- One step of the elimination of R158 on rows paired with those of the inverse. -/
def gaussStep (rows : List (Nat × Nat)) (b : Nat) : Option (List (Nat × Nat)) :=
  ((List.range rows.length).find? (fun i => decide (b ≤ i) && bitOf (rows.getD i (0, 0)).1 b)).map fun i =>
    let p := rows.getD i (0, 0)
    let swapped := (rows.set i (rows.getD b (0, 0))).set b p
    (List.range swapped.length).map (fun j =>
      let r := swapped.getD j (0, 0)
      if j ≠ b ∧ bitOf r.1 b then (r.1 ^^^ p.1, r.2 ^^^ p.2) else r)
/-- The inverse of a matrix, if it has one (R158). -/
def invert (m : List (BitVec 48)) (n : Nat) : Option (List (BitVec 48)) :=
  ((List.range n).foldl (fun (a : Option (List (Nat × Nat))) b => a.bind (fun r => gaussStep r b))
    (some ((List.range n).map (fun j => ((m.getD j 0).toNat, 2 ^ j))))).map
      (fun r => r.map (fun p => BitVec.ofNat 48 p.2))
/-- A vector reduced by a basis in which each vector is reduced by those before it. -/
def reduceBy (basis : List Nat) (v : Nat) : Nat :=
  basis.foldl (fun v b => if bitOf v (Nat.log2 b) then v ^^^ b else v) v
/-- The basis with a vector's remainder added. -/
def addTo (basis : List Nat) (v : Nat) : List Nat :=
  let r := reduceBy basis v
  if r = 0 then basis else basis ++ [r]
/-- M1 of a REMAP (R164). -/
def buildM1 (m0 m2 : List (BitVec 48)) (n o : Nat) : List (BitVec 48) :=
  let row := fun (m : List (BitVec 48)) (j : Nat) => (m.getD j 0).toNat
  let taken0 := ((List.range n).drop o).foldl (fun b j => addTo b (row m2 j)) []
  let low := (List.range o).foldl (fun (a : List Nat × List Nat) j =>
    match ([row m0 j, row m2 j] ++ (List.range n).map (2 ^ ·)).find? (fun v => reduceBy a.2 v ≠ 0) with
    | some v => (a.1 ++ [v], addTo a.2 v)
    | none => (a.1 ++ [0], a.2)) ([], taken0)
  (low.1.map (BitVec.ofNat 48)) ++ (m2.take n).drop o

/-! ## Records (R147-R149, R151, R152) -/

/-- bd of an extent (R147). -/
def bitsOf (ext : Nat) : Nat := if ext ≤ 1 then 0 else Nat.log2 (ext - 1) + 1
/-- Bytes of an element; 0 for q4 and for codes that name no type (R149). -/
def esizeOf (ety : Nat) : Nat :=
  match ety with
  | 0 | 1 | 4 => 4
  | 2 | 3 | 5 => 8
  | 6 | 7 | 12 | 13 => 2
  | 8 | 9 | 10 | 11 => 1
  | 16 => 8
  | 17 => 16
  | 18 => 32
  | 19 => 64
  | _ => 0
/-- Element size of a record. -/
def TRec.esize (r : TRec) : Nat := esizeOf r.etype
/-- o: the offset bits (R150). -/
def TRec.o (r : TRec) : Nat := r.n - r.laneb - r.coreb - r.dieb - r.peerb
/-- Bits of the slot number (R151, R152). -/
def TRec.slotBits (r : TRec) : Nat := if r.spm then r.n - r.coreb else r.n - r.peerb
/-- Storage bytes of a member, or of a core (R151, R152, R154). -/
def TRec.size (r : TRec) : Nat :=
  if r.etype = 14 then 2 ^ (r.n - 1) + 2 ^ (r.n - 6) + 4 * 2 ^ (r.n - 14) else r.esize * 2 ^ r.slotBits
/-- Storage bytes of all units in this member (R352). -/
def TRec.sizeAll (r : TRec) : Nat := if r.spm then r.size * 2 ^ r.coreb else r.size
/-- Member or logical core, and slot, of a location (R151, R152). -/
def TRec.place (r : TRec) (l : Nat) : Nat × Nat := (l / 2 ^ r.slotBits, l % 2 ^ r.slotBits)
/-- Some coordinate of an index lies at or beyond its extent (R159). -/
def phantomIn : List Nat → Nat → Bool
  | [], _ => false
  | e :: r, x => if e = 0 then false else decide (e ≤ x % 2 ^ bitsOf e) || phantomIn r (x / 2 ^ bitsOf e)
/-- The element with an index is phantom. -/
def TRec.phantom (r : TRec) (x : Nat) : Bool := phantomIn r.ext x
/-- Top index bits of the dimensions whose extent is no power of two (R161). -/
def topBits : List Nat → Nat → List Nat
  | [], _ => []
  | e :: r, at_ =>
    let b := bitsOf e
    (if e ≠ 0 ∧ e ≠ 2 ^ b then [2 ^ (at_ + b - 1)] else []) ++ topBits r (at_ + b)
/-- The TRIM condition on a matrix (R161). -/
def TRec.trimOk (r : TRec) (m : List (BitVec 48)) : Bool :=
  let want := topBits r.ext 0
  !r.trim || (!r.spm && decide (want.length ≤ r.o) && want.all (fun w =>
    (List.range want.length).any (fun i => (m.getD (r.o - want.length + i) 0).toNat == w)))

/-- A 64-bit word of some bytes. -/
def dwOf (b : List Byte) (i : Nat) : Nat := natOfBytes ((b.drop (8 * i)).take 8)
/-- The record in 512 bytes, unless a bit shown as zero is set or a field is out of its own range (R148, R149). -/
def TRec.parse (b : List Byte) : Option TRec :=
  let h := dwOf b 0
  let base := dwOf b 5
  let stage := dwOf b 6
  let tile := dwOf b 4
  let ext := (List.range 6).map (fun i => natOfBytes ((b.drop (8 + 4 * i)).take 4))
  let r : TRec :=
    { etype := fld h 7 0, rank := fld h 15 8, n := fld h 23 16, trim := bitOf h 24, fill := bitOf h 25,
      strict := bitOf h 26, laneb := fld h 35 32, coreb := fld h 39 36, dieb := fld h 43 40, peerb := fld h 47 44,
      ext := ext, tilemask := BitVec.ofNat 48 tile, base := fld base 55 0, spm := bitOf base 63,
      stage := fld stage 55 0, sv := bitOf stage 63, fillval := BitVec.ofNat 64 (dwOf b 7) }
  if fld h 31 27 = 0 ∧ fld h 63 48 = 0 ∧ fld tile 63 48 = 0 ∧ fld base 62 56 = 0 ∧ fld stage 62 56 = 0 ∧
      (List.range 7).all (fun i => dwOf b (9 + i) == 0) ∧ (r.esize ≠ 0 ∨ r.etype = 14) ∧ 1 ≤ r.rank ∧ r.rank ≤ 6 ∧
      1 ≤ r.n ∧ r.n ≤ 48 ∧ (List.range 6).all (fun d => (ext.getD d 0 != 0) == decide (d < r.rank)) ∧
      (ext.map bitsOf).sum = r.n ∧ r.laneb ≤ 5 ∧ r.coreb ≤ 9 ∧ r.dieb ≤ 2 ∧ r.peerb ≤ 10 ∧
      r.laneb + r.coreb + r.dieb + r.peerb ≤ r.n ∧ tile < 2 ^ r.n ∧
      (r.esize = 0 ∨ 8 ≤ r.esize ∨ r.fillval.toNat < 2 ^ (8 * r.esize)) ∧
      (!r.spm || (decide (r.base < 2 ^ 32) && (!r.sv || decide (r.stage < 2 ^ 32)))) then some r else none
/-- Rows of a matrix in memory: no bit at or above n, none beyond row n (R148, R351); `b` starts at row 0. -/
def rowsOf (b : List Byte) (n : Nat) : Option (List (BitVec 48)) :=
  let d := (List.range 48).map (dwOf b)
  if (List.range 48).all (fun j => decide (d.getD j 0 < (if j < n then 2 ^ n else 1))) then
    some ((d.take n).map (BitVec.ofNat 48))
  else none

/-! ## Layout states (R157, R170) -/

/-- Key of the layout state of a launch and a record VA. -/
def layKey (lseq va : Nat) : Nat := lseq * 2 ^ 56 + va
/-- A layout state. -/
def State.layout (s : State) (k : Nat) : Layout :=
  (s.layouts.find? k).getD { lseq := 0, va := 0, asid := 0, stage := 0, rcd := {}, mat := [] }
/-- Change a layout state. -/
def State.modLayout (s : State) (k : Nat) (f : Layout → Layout) : State := { s with layouts := s.layouts.modify k f }
/-- The matrix that MATNO names. -/
def Layout.cur (l : Layout) : List (BitVec 48) :=
  match l.matno with
  | 0 => l.mat
  | 1 => l.m1
  | _ => l.m2
/-- STATE (R157). -/
def Layout.word (l : Layout) : Nat :=
  l.matno + 4 * b2n l.inflight + 8 * l.passes + 32 * b2n l.stepping + 64 * b2n l.broken + 256 * l.last
/-- LAST of some layout states. -/
def State.setLast (s : State) (ks : List Nat) (st : Nat) : State :=
  ks.foldl (fun s k => s.modLayout k (fun l => { l with last := st })) s
/-- Layout states that are operands of an operation. -/
def EngKind.lays : EngKind → List Nat
  | .tcopy a b _ _ _ _ _ _ _ _ => [a, b]
  | .remap l _ => [l]
  | .tmerge a b d _ _ _ => [a, b, d]
  | .fill d _ => [d]
  | .gather d s i | .scatter d s i => [d, s, i]
  | .decode d s _ => [d, s]
  | .undelta d s _ => [d, s]
  | .mxgo a b c _ _ => [a, b, c]
  | _ => []
/-- Engine operations in flight with an operand attached to a layout state (R170, R344). -/
def State.opsOn (s : State) (k : Nat) : Nat := (s.engines.filter (fun e => e.2.kind.lays.contains k)).length
/-- The layout state of handle `h` of a task (R45). -/
def State.handle? (s : State) (task h : Nat) : Option Nat := (s.task task).handles.find? h
/-- HANDLE checks of every instruction that takes a handle (R261). -/
def State.handleOf (s : State) (t : ThreadRef) (h : Nat) : Res Nat :=
  if 63 < h then .trap trapHandle 1 s
  else match s.handle? t.task h with
    | some k => .ok k s
    | none => .trap trapHandle 2 s
/-- A handle becomes empty; the layout state ends with its last handle (R157). -/
def State.dropHandle (s : State) (task h : Nat) : State :=
  match s.handle? task h with
  | none => s
  | some k =>
    let s := s.modTask task (fun x => { x with handles := x.handles.erase h })
    if s.tasks.any (fun e => e.2.handles.any (fun x => x.2 == k)) then s else { s with layouts := s.layouts.erase k }
/-- Members of the peer group of a task's launch (R153); 0 for none. -/
def State.groupLog (s : State) (task : Nat) : Option Nat := (s.launchOf task).group.map Group.log2n
/-- Tasks in one stage of a launch. -/
def LaunchRec.perStage (r : LaunchRec) : Nat := r.gridx * r.gridy * r.gridz
/-- What the launch and the task ask of a record (R152-R154). -/
def State.recordFits (s : State) (task : Nat) (r : TRec) : Bool :=
  let l := s.launchOf task
  (!r.spm || (decide (r.dieb = 0) && decide (r.peerb = 0) && !r.trim && decide (r.coreb ≤ l.rcd.coresLog2) &&
    decide (2 ^ r.coreb ≤ l.rcd.perStage) && decide (r.base + r.size ≤ (s.task task).spmSize))) &&
  (decide (r.peerb = 0) || (match s.groupLog task with
    | some g => decide (r.peerb ≤ g)
    | none => false)) &&
  (decide (r.etype ≠ 14) || (!r.spm && decide (14 ≤ r.n) && decide (r.laneb + r.coreb + r.dieb + r.peerb = 0) && !r.trim &&
    !r.fill && !r.strict && decide (r.fillval = 0)))
/-- R156. -/
def TRec.aligned (r : TRec) : Bool :=
  let a := if r.spm then 64 else min 256 r.size
  decide (r.base % a = 0) && (!r.sv || decide (r.stage % a = 0))
/-- Two byte ranges share a byte. -/
def meets (a n b m : Nat) : Bool := decide (a < b + m) && decide (b < a + n)
/-- The identity matrix. -/
def unitRows (n : Nat) : List (BitVec 48) := (List.range n).map (fun j => BitVec.ofNat 48 (2 ^ j))

/-- Status codes of R155 and R340. -/
def stOk : Nat := 0
/-- SINGULAR. -/
def stSingular : Nat := 1
/-- SHAPE. -/
def stShape : Nat := 2
/-- ALIGN. -/
def stAlign : Nat := 3
/-- BUSY. -/
def stBusy : Nat := 4
/-- OVERLAP. -/
def stOverlap : Nat := 5
/-- RECORD. -/
def stRecord : Nat := 6
/-- CHANBUSY. -/
def stChanBusy : Nat := 7
/-- NOLEASE. -/
def stNoLease : Nat := 8

/-- The checks of TDEF on a record (R155), and what it defines: an existing state keeps its matrix (R157). -/
def State.tdefCheck (s : State) (task h va : Nat) (b : List Byte) : Nat × Option (TRec × List (BitVec 48)) :=
  let key := layKey (s.task task).launch va
  let busy := match s.handle? task h with
    | some k => k != key && decide (0 < s.opsOn k)
    | none => false
  if busy then (stBusy, none)
  else match TRec.parse b with
    | none => (stShape, none)
    | some r =>
      let old := s.layouts.find? key
      let m := match old with
        | some l => if l.rcd = r then some l.cur else none
        | none => (rowsOf (b.drop 128) r.n).bind (fun m =>
            if r.trimOk m && (r.etype != 14 || m == unitRows r.n) then some m else none)
      match m with
      | none => (stShape, none)
      | some m =>
        if !s.recordFits task r then (stShape, none)
        else if !r.aligned then (stAlign, none)
        else if old.isNone && (invert m r.n).isNone then (stSingular, none)
        else if r.sv && meets r.base r.size r.stage r.size then (stOverlap, none)
        else (stOk, some (r, m))
/-- TDEF on a record that has been read (R155, R157). -/
def State.tdef (s : State) (task h va : Nat) (b : List Byte) : Nat × State :=
  let k := s.task task
  let key := layKey k.launch va
  let c := s.tdefCheck task h va b
  let before := (s.handle? task h).toList
  let s := s.setLast (before ++ [key]) c.1
  (c.1, match c.2 with
    | none => s
    | some (r, m) =>
      let new : Layout := { lseq := k.launch, va := va, asid := k.asid, stage := k.stage, rcd := r, mat := m }
      let s := if r.coreb = 0 then s else s.pin k.launch
      let s := if (s.layouts.find? key).isSome then s else { s with layouts := s.layouts.put key new }
      if before = [key] then s
      else (s.dropHandle task h).modTask task (fun x => { x with handles := x.handles.put h key }))

/-! ## The place of an element (R151, R152, R298) -/

/-- This member's position in the group, for a record with peer bits (R153). -/
def State.memberOf (s : State) (l : Layout) : Nat :=
  if l.rcd.peerb = 0 then 0 else (((s.launch? l.lseq).getD {}).group.map Group.self).getD 0
/-- Where an element lies: bytes of memory, or of a task's scratchpad. -/
inductive Place
  | mem (l : Loc)
  | spm (task off : Nat)
  deriving DecidableEq, Repr

/-- The task that holds unit `c` of a layout state; a saved one counts (R152, R396). -/
def State.unitTask (s : State) (l : Layout) (c : Nat) : Option Task :=
  (s.tasks.map Prod.snd).find? (fun k => k.launch == l.lseq && k.stage == l.stage && k.num == c && k.status != .ended)
/-- An SPM range of the task that holds a unit: LAYOUT ABSENT, a wait for a saved task, then R43. -/
def State.unitSpm (s : State) (l : Layout) (c off size : Nat) : Res Place :=
  match s.unitTask l c with
  | none => .trap trapLayout 1 s
  | some k =>
    if k.status == .saved then .stop (.retry (.task k.age)) s
    else match s.spmCheck k.age off size with
      | some (e, sub) => .trapAt e sub (BitVec.ofNat 64 off) s
      | none => .ok (.spm k.age off) s
/-- The bytes of a slot from `base`, at the layout state's level. -/
def State.slotAt (s : State) (v : Via) (asid : Nat) (l : Layout) (base unit slot : Nat) (k : Access) : Res Place :=
  let a := base + slot * l.rcd.esize
  if l.rcd.spm then s.unitSpm l unit a l.rcd.esize
  else (s.locateVia v asid (BitVec.ofNat 64 a) l.rcd.esize k).andThen fun p s => .ok (.mem p) s
/-- The element with an index under a matrix. -/
def State.elementAt (s : State) (v : Via) (asid : Nat) (l : Layout) (m : List (BitVec 48)) (x : Nat) (k : Access) :
    Res Place :=
  let p := l.rcd.place (matVec m l.rcd.n x)
  s.slotAt v asid l l.rcd.base p.1 p.2 k

end Sys2Proof.Machine
end

