-- ==== Sys2Proof/Machine/Locks.lean ====
section
/-! DEFINITION. Lock instructions and their events: majors 0x30 and 0x31 (R91-R95, R305, R306, R106, R107). -/
namespace Sys2Proof.Machine

/-! ## The lock that a word names (R91-R95) -/

/-- The bits of an index that TILEMASK selects, gathered in ascending order (R92). -/
def gather (mask : BitVec 48) (x : Nat) : Nat :=
  ((bitsSet mask).foldl (fun (a : Nat × Nat) b => (a.1 + 2 ^ a.2 * b2n (bitOf x b), a.2 + 1)) (0, 0)).1
/-- Home agent of a tile lock (R93). -/
def tileHome (va tile : Nat) : Nat :=
  let k := fld va 47 6 ^^^ tile
  (List.range 16).foldl (fun h i => h ^^^ (k / 2 ^ (3 * i) % 8)) 0
/-- The index that stands for a line of a record's storage, by its byte offset from BASE (R94), through the matrix in force, a REMAP
pass in flight or broken off or not (log 111). -/
def State.lineIndex (s : State) (l : Layout) (off : Nat) : Nat :=
  let r := l.rcd
  if r.etype = 14 then
    let h := 2 ^ (r.n - 1)
    let b := 2 ^ (r.n - 6)
    if off < h then 2 * off else if off < h + b then 64 * (off - h) else 16384 * ((off - h - b) / 4)
  else matVec ((invert l.cur r.n).getD []) r.n (s.memberOf l * 2 ^ r.slotBits + off / r.esize)
/-- The name of a lock at a level; a tile id beyond TILEMASK traps LEVEL (R91, R92). -/
def State.lockName (s : State) (t : ThreadRef) (k level a : Nat) : Res LockName :=
  let l := s.layout k
  let c := s.ctx (s.asidOf t)
  let s := c.2
  let n : LockName := { domain := ctxFunc c.1, asid := s.asidOf t, level := level, va := l.va, sub := 0 }
  if level = 0 then .ok n s
  else if level = 1 then
    if 2 ^ (bitsSet l.rcd.tilemask).length ≤ a then .trap trapLock 5 s else .ok { n with sub := a } s
  else .ok { n with va := a } s
/-- The home agent of a translated lock target; one in host memory traps HOSTATOM (R34, R95). -/
def State.lockHome (s : State) (t : ThreadRef) (va : Nat) : Res Nat :=
  (s.locate t (BitVec.ofNat 64 va) 1 .read).andThen fun l s =>
    if l.host then .trapAt trapProt 9 (BitVec.ofNat 64 va) s else .ok (l.pa / 256) s
/-- A request at a level: its name, home, parent and line (R91-R95). The record VA is translated at tile level too, though its home is
a hash (log 102). Of several conditions that fail the first of these traps: LEVEL for a tile id; ALIGN, then LEVEL, for a line, which
lies in the storage where its first byte does; then the checks of R24, and HOSTATOM (log 111). -/
def State.lockReq (s : State) (t : ThreadRef) (f : FmtTL) (upgrade : Bool) : Res LockReq :=
  let level := f.level.toNat
  let a := if level = 0 then 0 else (s.readPair t f.a.toNat).toNat
  let pc := (s.thread t).pc
  (s.handleOf t (s.readG t f.bo.toNat).toNat).andThen fun k s =>
    (s.lockName t k level a).andThen fun n s =>
      let l := s.layout k
      let q : LockReq := { name := n, mode := f.mode.toNat, upgrade := upgrade, home := 0, parent := none, line := none,
                           h := f.h.toNat, pc := pc, cfg := s.greg (.lkcfg n.domain), at_ := s.tick }
      if level = 0 then (s.lockHome t l.va).andThen fun ln s => .ok { q with home := homeAgent ln } s
      else if level = 1 then
        (s.lockHome t l.va).andThen fun _ s => .ok { q with home := tileHome l.va a, parent := some { n with level := 0, sub := 0 } } s
      else if a % 256 ≠ 0 then .trapAt trapAlign 0 (BitVec.ofNat 64 a) s
      else if l.rcd.spm ∨ a < l.rcd.base ∨ l.rcd.base + l.rcd.size ≤ a then .trap trapLock 5 s
      else
        let tile := gather l.rcd.tilemask (s.lineIndex l (a - l.rcd.base))
        (s.lockHome t a).andThen fun ln s =>
          .ok { q with home := homeAgent ln, line := some ln, parent := some { n with level := 1, va := l.va, sub := tile } } s

/-! ## LKACQ, LKUPG, LKREL, LKRALL, LKCHK -/

/-- LKACQ and LKUPG: the row of R107; the write of a status is a commit point, and GRANTED is an acquire
(R111, R281, log 90). Requests are handled one at a time, each with the grants and wounds that it brings about (R103-R105). -/
def lockWord (f : FmtTL) (upgrade : Bool) (s : State) : State :=
  runLanesThen State.relock (fun s t =>
    (s.lockReq t f upgrade).andThen fun q s =>
      let r := s.lockRow t q
      match r.1 with
      | .status k =>
        let s := if k = 0 then r.2.acquire (s.coreOf t) else r.2
        .ok () ((s.writeG t q.h (BitVec.ofNat 32 k)).commit t)
      | .trap sub => .trap trapLock sub r.2
      | .park => .ok () (r.2.park t (.lock q.name q.h))
      | .held => .ok () (r.2.park t (.lockHeld q))) s
/-- LKACQ: requests a lock (R305). -/
def execLkacq (f : FmtTL) (s : State) : Answer := .next (lockWord f false s)
/-- LKUPG: upgrades a held mode (R305). -/
def execLkupg (f : FmtTL) (s : State) : Answer := .next (lockWord f true s)
/-- LKREL: releases the task's lock at a level, a release and a commit point (R107, R306). -/
def execLkrel (f : FmtT) (lv : BitVec 2) (s : State) : Answer :=
  .next (runLanesThen State.relock (fun s t =>
    let a := if lv = 0 then 0 else (s.readPair t f.a.toNat).toNat
    (s.handleOf t (s.readG t f.bo.toNat).toNat).andThen fun k s =>
      (s.lockName t k lv.toNat a).andThen fun n s =>
        match (s.lock? t.task n).map Lock.st with
        | none | some (.wait _) => .trap trapLock 3 s
        | some (.upg _ _) => .trap trapLock 7 s
        | some (.held _) =>
          if (s.locksOf t.task).any (fun e => e.parent == some n && e.st.held?.isSome) then .trap trapLock 4 s
          else .ok () (((s.drain (s.coreOf t)).freeLock t.task n).commit t)) s)
/-- LKRALL: a release; the thread parks until every home agent has released (R306). -/
def execLkrall (_ : FmtT) (s : State) : Answer :=
  .next (runPure (fun s t => ((s.drain (s.coreOf t)).commit t).park t .lkrall) s)
/-- LKCHK: the task's WOUNDED flag (R106, R306). -/
def execLkchk (f : FmtT) (s : State) : Answer :=
  .next (runPure (fun s t =>
    (s.result t f.h.toNat [BitVec.ofNat 32 (b2n (s.task t.task).wounded)]).commit t) s)

/-! ## Events -/

/-- LKRALL_COMPLETE: every lock and request of the task is gone, WOUNDED is cleared, the timer stops, and the threads whose
requests are withdrawn resume with WOUNDED (R106, R107, R306). -/
def execLkrallComplete (task : Nat) (s : State) : Answer :=
  .next (if !(s.liveOf task).any (fun th => th.status == .parked .lkrall) then s
  else
    let gone := s.liveOf task
    let s := (s.revoke task).modTask task (fun k => { k with wounded := false, grace := false })
    (gone.foldl (fun s th =>
      match th.status with
      | .parked (.lock _ h) => s.answer th.ref h 1
      | .parked (.lockHeld r) => s.answer th.ref r.h 1
      | .parked .lkrall => s.wake th.ref
      | _ => s) s).relock)
/-- GRACE_EXPIRED: the locks of a wounded task are revoked and a WOUND trap becomes pending in its threads (R106). -/
def execGraceExpired (task : Nat) (s : State) : Answer :=
  .next (if (s.task task).grace && (s.task task).status != .ended then
    (((s.revoke task).woundPending task).modTask task (fun k => { k with grace := false })).relock
  else s)

end Sys2Proof.Machine
end

