-- ==== Sys2Proof/Machine/Mem.lean ====
section
/-! DEFINITION. Loads, stores, prefetch, channels, monitor waits and signal waits: majors 0x21 to 0x26, 0x2C, and SIGW
(R217, R218, R225, R281-R287, R293, R294, R386). -/
namespace Sys2Proof.Machine

/-! ## Loads and stores (R282, R283) -/

/-- LD: a load from global memory (R282). -/
def execLd (f : FmtM) (s : State) : Answer :=
  .next (runLanes (fun s t =>
    let ea := eaOf f (s.readPair t f.a.toNat)
    (s.memRead t ea (sizeOf_ f.sz) (f.ord == 1)).andThen fun b s =>
      .ok () ((s.useLast t (mark f.la [(f.a.toNat, 2)])).result t f.d.toNat (loadValue f.sz b))) s)
/-- ST: a store to global memory (R282). -/
def execSt (f : FmtM) (s : State) : Answer :=
  .next (runLanes (fun s t =>
    let ea := eaOf f (s.readPair t f.a.toNat)
    let v := storeValue f.sz (s.readRun t f.d.toNat (regsOf f.sz))
    (s.memWrite t ea v (f.ord == 2)).andThen fun _ s => .ok () (s.useLast t (mark f.la [(f.a.toNat, 2)]))) s)
/-- LDS: a load from the task's scratchpad (R282). -/
def execLds (f : FmtM) (s : State) : Answer :=
  .next (runLanes (fun s t =>
    let off := spmOffOf f (s.readG t f.a.toNat)
    (s.spmRead t off (sizeOf_ f.sz) (f.ord == 1)).andThen fun b s =>
      .ok () ((s.useLast t (mark f.la [(f.a.toNat, 1)])).result t f.d.toNat (loadValue f.sz b))) s)
/-- STS: a store to the task's scratchpad (R282). -/
def execSts (f : FmtM) (s : State) : Answer :=
  .next (runLanes (fun s t =>
    let off := spmOffOf f (s.readG t f.a.toNat)
    let v := storeValue f.sz (s.readRun t f.d.toNat (regsOf f.sz))
    (s.spmWrite t off v (f.ord == 2)).andThen fun _ s => .ok () (s.useLast t (mark f.la [(f.a.toNat, 1)]))) s)
/-- PREF: the line into the L1 in SHR as a load of one word brings it, SZ scaling OFF only; it traps nothing (R24, R285). -/
def execPref (f : FmtM) (s : State) : Answer :=
  .next (runPure (fun s t =>
    let ea := eaOf f (s.readPair t f.a.toNat)
    let c := s.coreOf t
    let s1 := s.useLast t (mark f.la [(f.a.toNat, 2)])
    match s.locate t ea 4 .read with
    | .stop _ _ => s1
    | .ok l s =>
      let s := s.useLast t (mark f.la [(f.a.toNat, 2)])
      if l.host then
        (List.range 4).foldl (fun (s : State) i => (s.hostLoadWord c (l.pa / 256 * 256 + 64 * i)).2) s
      else if s.poisoned l.pa then s
      else (List.range 4).foldl (fun (s : State) i => s.sectorRead c (l.pa / 256 * 64 + 16 * i)) s) s)

/-- Stores that have not been performed, with their cores: registrations (SUB 1) or writes to host memory (SUB 2) on their way. -/
def State.outstanding (s : State) (sub : Nat) : List (Nat × TrackEntry) :=
  match sub with
  | 1 => s.regq.flatMap (fun x => x.2.flatMap (fun r => r.srcs.map (fun e => (x.1, e))))
  | 2 => s.hostq.map (fun w => (w.core, w.src))
  | _ => []
/-- The stores of a registration but one. -/
def Reg.lose (r : Reg) (e : TrackEntry) : Reg :=
  let l := r.puts.filter (fun p => p.src != e)
  { r with puts := l, mask := if r.accepted then r.mask else l.foldl (fun m p => m ||| p.mask) 0 }
/-- The stores of a registration write into a word, the first one first. -/
def Reg.apply (r : Reg) (v : Word) : Word := r.puts.foldl (fun v p => mergeBytes p.mask p.val v) v
/-- A word loses what one store of its registration has written: it holds the other stores' bytes over its value before, read anew
where the registration has not been accepted; with no other store there the core holds it no longer, or owns it unchanged (R284). -/
def State.unwrite (s : State) (core : Nat) (r : Reg) (e : TrackEntry) : State :=
  match s.l1? core r.word with
  | some ⟨.shr, _⟩ | some ⟨.par, _⟩ | none => s
  | some x =>
    let q := r.lose e
    if r.accepted then
      match s.slice? (dieOf core) (r.word / 64) with
      | some l =>
        if l.registered (r.word % 64) && l.ownerCore (dieOf core) (r.word % 64) == core then
          s.putL1 core r.word { x with val := q.apply r.old }
        else s
      | none => s
    else
      let s := s.dropL1 core r.word
      if q.puts.isEmpty then s
      else
        let v := s.loadWord core r.word
        v.2.putL1 core r.word { x with val := q.apply v.1 }
/-- A store that has failed is lost: what it has written to the words of its registrations, or its write to host memory; a
registration that has not been accepted and stands for no other store is not performed (R284, log 48). -/
def State.loseStore (s : State) (core : Nat) (e : TrackEntry) : State :=
  let s := ((s.regs core).filter (fun r => r.srcs.contains e)).foldl (fun (s : State) r => s.unwrite core r e) s
  let s := (s.hostq.filter (fun w => w.src == e)).foldl (fun (s : State) w =>
    (storedWords w.addr w.bytes).foldl (fun (s : State) i => s.dropCopies core (hostWord w.addr + i) false) s) s
  let rest := ((s.regs core).map (fun r => r.lose e)).filter (fun r => r.accepted || !r.puts.isEmpty)
  { s.setRegs core rest with hostq := s.hostq.filter (fun w => w.src != e) }.performed core e
/-- STORE_ERROR: a store on its way fails at memory or on PCIe after its checks, and the write is lost (R284); a thread that has
ended leaves a record from its tracker entry, written as a release (R381, R391). -/
def execStoreError (t : ThreadRef) (pc : DWord) (va : DWord) (sub : Nat) (s : State) : Answer :=
  .next (match (s.outstanding sub).find? (fun x => x.2.task == t.task && x.2.tid == t.tid && x.2.pc == pc && x.2.va == va) with
    | none => s
    | some (core, e) =>
      let s := s.loseStore core e
      if (s.threads.find? (tkey t)).isSome && (s.thread t).status != .ended then
        s.modThread t (fun th => { th with stores := th.stores ++
          [{ s.recordOf t { code := trapStore, sub := sub, va := va } with pc := e.pc, regionPc := e.regionPc }] })
      else
        (s.drain core).pushFault e.func
          { code := trapStore, sub := sub, exited := true, tid := e.tid, va := va, pc := e.pc, regionPc := e.regionPc,
            task := e.num, lseq := e.lseq, asid := e.asid })

/-! ## Channels (R217, R218, R225, R286, R287) -/

/-- Hardware entries of a channel, and entries of its overflow part. -/
def chanRoom (c : Chan) : Nat := if c.overflowing then 32 + 1024 else 32
/-- Replace a channel's contents; what it held so far counts in its window (R369). -/
def State.setChan (s : State) (launch i : Nat) (c : Chan) : State :=
  s.modLaunch launch (fun l =>
    { l with chans := l.chans.set {} i { c with sum := (l.chan i).filled s.clock, at_ := s.clock } })
/-- A channel number names a declared channel whose stage on this side is the thread's (R46, R217). -/
def State.chanOk (s : State) (t : ThreadRef) (ch : Nat) (push : Bool) : Bool :=
  let l := s.launchOf t.task
  decide (16 ≤ ch) && decide (ch - 16 < l.rcd.nchan) &&
    (match l.rcd.chmap[ch - 16]? with
      | some (a, b) => (if push then a else b) == (s.task t.task).stage
      | none => false)
/-- Push one entry; the channel leaves overflow once its hardware queue holds everything (R225). -/
def Chan.push (c : Chan) (ws : List Word) : Chan := { c with entries := c.entries ++ [ws] }
/-- Pop the oldest entry as `n` words (R217). -/
def Chan.pop (c : Chan) (n : Nat) : List Word × Chan :=
  match c.entries with
  | [] => (List.replicate n 0, c)
  | e :: r =>
    ((List.range n).map (fun i => e.getD i 0), { c with entries := r, overflowing := c.overflowing && decide (32 < r.length) })
/-- The step at which a thread issued a push or a pop that waits on a channel. -/
def Thread.chanSince (th : Thread) (ch : Nat) (push : Bool) : Option Nat :=
  match th.status with
  | .parked (.stq c _ n) => if push && c == ch then some n else none
  | .parked (.ldq c _ _ n) => if !push && c == ch then some n else none
  | _ => none
/-- The thread of a launch that has waited longest on a channel; of one issue, the first by (TASK, TID) (R218). -/
def State.chanWaiter (s : State) (launch ch : Nat) (push : Bool) : Option Thread :=
  let key := fun (th : Thread) => ((th.chanSince ch push).getD 0, (s.task th.task).num, th.tid)
  ((s.threads.map Prod.snd).filter (fun th => (s.task th.task).launch == launch && (th.chanSince ch push).isSome)).foldl
    (fun (b : Option Thread) th => match b with
      | none => some th
      | some x => if admitBefore (key th) (key x) then some th else b) none
/-- The overflow part of channel 16 + i, while it holds entries, leaves its 64 KiB of OVFAREA unspecified; a page of it that cannot
be written keeps its bytes (R225, log 46). -/
def State.scrambleOverflow (s : State) (launch i : Nat) : State :=
  let l := (s.launch? launch).getD {}
  (List.range 16).foldl (fun (s : State) p =>
    let x := s.translate .device l.asid (l.rcd.ovf.toNat + 65536 * i + 4096 * p) .write
    match x.1 with
    | .ok pa false => let b := x.2.freeBytes 4096; b.2.wrN pa b.1
    | _ => x.2) s
/-- An entry is pushed into a channel; past the hardware queue it goes to the overflow part. -/
def State.pushChan (s : State) (launch i : Nat) (c : Chan) (ws : List Word) : State :=
  let s := s.setChan launch i (c.push ws)
  if 32 ≤ c.entries.length then s.scrambleOverflow launch i else s
/-- Parked pushes and pops go on while the channel lets them, each ending with its commit point (R286). -/
def State.serveChan : Nat → State → Nat → Nat → State
  | 0, s, _, _ => s
  | k + 1, s, launch, ch =>
    let c := ((s.launch? launch).getD {}).chan (ch - 16)
    let popOne : Option State :=
      if c.entries.isEmpty then none
      else match s.chanWaiter launch ch false with
        | some th => match th.status with
          | .parked (.ldq _ n d _) =>
            let r := c.pop n
            some (((((s.setChan launch (ch - 16) r.2).writeRun th.ref d r.1).commitHere th.ref).wake th.ref))
          | _ => none
        | none => none
    match popOne with
    | some s => State.serveChan k s launch ch
    | none =>
      if c.entries.length < chanRoom c then
        match s.chanWaiter launch ch true with
        | some th => match th.status with
          | .parked (.stq _ ws _) =>
            State.serveChan k (((s.pushChan launch (ch - 16) c ws).commitHere th.ref).wake th.ref) launch ch
          | _ => s
        | none => s
      else s
/-- Serve the parked threads of a channel. -/
def State.serve (s : State) (launch ch : Nat) : State := State.serveChan (2 * s.threads.length + 2) s launch ch
/-- LDQ: pops one entry into n registers, one step with its commit point (R217, R286, log 90). -/
def execLdq (f : FmtQ) (s : State) : Answer :=
  let n := f.n.toNat + 1
  .next (runLanes (fun s t =>
    let ch := f.ch.toNat
    if !s.chanOk t ch false then .trap trapProt 8 s
    else
      let k := (s.task t.task).launch
      let c := (s.launchOf t.task).chan (ch - 16)
      if c.entries.isEmpty then .ok () (s.park t (.ldq ch n f.d.toNat s.tick))
      else
        let r := c.pop n
        .ok () ((((s.setChan k (ch - 16) r.2).writeRun t f.d.toNat r.1).commit t).serve k ch)) s)
/-- STQ: pushes one entry of n registers (R217, R286). -/
def execStq (f : FmtQ) (s : State) : Answer :=
  let n := f.n.toNat + 1
  .next (runLanes (fun s t =>
    let ch := f.ch.toNat
    if !s.chanOk t ch true then .trap trapProt 8 s
    else
      let k := (s.task t.task).launch
      let c := (s.launchOf t.task).chan (ch - 16)
      let ws := s.readRun t f.d.toNat n
      if chanRoom c ≤ c.entries.length then .ok () (s.park t (.stq ch ws s.tick))
      else .ok () (((s.pushChan k (ch - 16) c ws).commit t).serve k ch)) s)
/-- WPRD: the write pointer of a copy channel, an acquire (R85, R119, R287). -/
def execWprd (f : FmtQ) (s : State) : Answer :=
  .next (runLanes (fun s t =>
    if 15 < f.ch.toNat then .trap trapProt 8 s
    else .ok () ((s.acquire (s.coreOf t)).result t f.d.toNat [BitVec.ofNat 32 (Tbl.get 0 (s.task t.task).wps f.ch.toNat)])) s)
/-- CHANNEL_OVERFLOW: a channel full for T0 sends further entries to its overflow part (R225). -/
def execChannelOverflow (lseq ch : Nat) (s : State) : Answer :=
  .next (match s.launch? lseq with
    | none => s
    | some l =>
      let c := l.chan (ch - 16)
      if l.rcd.poruf && decide (16 ≤ ch) && decide (ch - 16 < l.rcd.nchan) && decide (32 ≤ c.entries.length) && !c.overflowing
      then (s.setChan lseq (ch - 16) { c with overflowing := true }).serve lseq ch
      else s)

/-! ## Waiting on memory (R293, R294, R386) -/

/-- The acquire read of MWAIT: W and A are checked, and host memory cannot serve it (R34, R293). -/
def State.mwaitRead (s : State) (t : ThreadRef) (va : DWord) : Res DWord :=
  (s.locateVia (.core (s.coreOf t)) (s.asidOf t) va 8 .atomic).andThen fun l s =>
    if l.host then .trapAt trapProt 9 va s
    else if s.poisoned l.pa then .trapAt trapCorrupt 0 va (s.checkMeta (l.pa / 256))
    else
      let c := s.coreOf t
      let r := (s.acquire c).loadBytes c l 8
      .ok (BitVec.ofNat 64 (natOfBytes r.1)) r.2
/-- The acquire read of SIGW: R alone is checked (R386). -/
def State.sigwRead (s : State) (t : ThreadRef) (va : DWord) : Res DWord :=
  (s.memRead t va 8 true).andThen fun b s => .ok (BitVec.ofNat 64 (natOfBytes b)) s
/-- MWAIT ends its wait with this value. -/
def mwaitEnds (eq : Bool) (v b : DWord) : Bool := if eq then v != b else v == b
/-- SIGW ends its wait with this value. -/
def sigwEnds (v th : DWord) : Bool := v.getLsbD 63 || decide (v.toNat % 2 ^ 63 ≤ th.toNat)
/-- MWAIT (R293). -/
def mwait (f : FmtA) (eq : Bool) (s : State) : State :=
  runLanes (fun s t =>
    let va := s.readPair t f.a.toNat
    let b := s.readPair t f.b.toNat
    (s.mwaitRead t va).andThen fun v s =>
      if mwaitEnds eq v b then .ok () (s.result t f.d.toNat (wordsOf v))
      else .ok () ((s.commit t).park t (.mwait (s.thread t).pc va eq b f.d.toNat false))) s
/-- MWAIT_EQ: parks while the word equals b (R293). -/
def execMwaitEq (f : FmtA) (s : State) : Answer := .next (mwait f true s)
/-- MWAIT_NE: parks while the word differs from b (R293). -/
def execMwaitNe (f : FmtA) (s : State) : Answer := .next (mwait f false s)
/-- A parked wait reads its word again (R293, R386). While the page moves, or its host translation is awaited, it stays parked and
reads later (R50); where the page is missing, the thread runs the word again once it is there (log 114). -/
def State.recheckWait (s : State) (t : ThreadRef) : State :=
  let fin := fun (r : Res DWord) (pc : DWord) (ok : DWord → Bool) (d : Nat) =>
    match r with
    | .ok v s => if ok v then (s.writePair t d v).wake t else s
    | .stop (.retry _) s => s
    | .stop (.page va sub k) s => (s.modThread t (fun th => { th with pc := pc, regionPc := pc })).takeStop t (.page va sub k)
    | .stop x s => (s.modThread t (fun th => { th with pc := pc })).takeStop t x
  match (s.thread t).status with
  | .parked (.mwait pc va eq b d any) => fin (s.mwaitRead t va) pc (fun v => any || mwaitEnds eq v b) d
  | .parked (.sigw pc va th d) => fin (s.sigwRead t va) pc (fun v => sigwEnds v th) d
  | _ => s
/-- MWAIT_RECHECK: a parked MWAIT reads its word again (R293). -/
def execMwaitRecheck (t : ThreadRef) (s : State) : Answer :=
  .next (match (s.thread t).status with
    | .parked (.mwait _ _ _ _ _ _) => if s.isResident t then s.recheckWait t else s
    | _ => s)
/-- SIGW: waits for a signal object to fall to a threshold (R386). -/
def execSigw (f : FmtS) (s : State) : Answer :=
  .next (runLanes (fun s t =>
    let va := s.readPair t f.a.toNat
    let th := s.readPair t f.d.toNat
    (s.sigwRead t va).andThen fun v s =>
      if sigwEnds v th then .ok () (s.writePair t f.d.toNat v)
      else .ok () ((s.commit t).stand t (.parked (.sigw (s.thread t).pc va th f.d.toNat)))) s)
/-- SIGW_RECHECK: a parked SIGW reads its signal again (R386). -/
def execSigwRecheck (t : ThreadRef) (s : State) : Answer :=
  .next (match (s.thread t).status with
    | .parked (.sigw _ _ _ _) => if s.isResident t then s.recheckWait t else s
    | _ => s)

end Sys2Proof.Machine
end

