-- ==== Sys2Proof/Machine/CacheEvents.lean ====
section
/-! DEFINITION. The events of the memory hierarchy: what an L1, a slice or a home agent does for one line (R57-R80). -/
namespace Sys2Proof.Machine

/-- Device memory holds these bytes (R15). -/
def inDevice (pa n : Nat) : Bool := decide (pa + n ≤ devTop)
/-- A request on bytes of device memory; where there is no memory it has no meaning (R15). -/
def onDevice (pa n : Nat) (k : State) : Answer := if inDevice pa n then .next k else .fault (.noDeviceMemory pa)
/-- A request of a die on a line (R73). -/
def onLine (die line : Nat) (f : State → Nat → Nat → State) (s : State) : Answer :=
  onDevice (line * 256) 256 (if die < 4 then f s line die else s)

/-- SECTOR_READ: a load that misses brings its sector into the L1 (R57). -/
def execSectorRead (core pa : Nat) (s : State) : Answer :=
  onDevice pa 1 (if core < 512 then s.sectorRead core (pa / 4) else s)
/-- REGISTRATION: the slice accepts the oldest registration that a core has sent; with none on its way, the core's oldest write to
host memory is issued (R58, R63, R65-R67, log 95). -/
def execRegistration (core : Nat) (s : State) : Answer := .next (s.acceptOne core)
/-- A TAIL that waits goes on once the tracker has room for its entries (R210). -/
def State.tailGo (s : State) (t : ThreadRef) : State :=
  let c := s.coreOf t
  if (s.thread t).status == .parked .tracker && decide ((s.tracked c).length + (s.storesOf t).length ≤ 64) then
    ((s.tailEnd t).testAll [t]).afterEnd t.task
  else s
/-- Every TAIL that waits on a core is looked at, in ascending (TASK, TID). -/
def State.recheckTails (s : State) (core : Nat) : State :=
  s.threads.foldl (fun s e => if (s.task e.2.task).phys = core then s.tailGo e.2.ref else s) s
/-- REGISTRATION_ACK: the oldest accepted registration is acknowledged, and a tracker entry may drain (R58, R210). -/
def execRegistrationAck (core : Nat) (s : State) : Answer := .next ((s.ackOne core).recheckTails core)
/-- L1_EVICTION: a core's L1 drops a line (R62). -/
def execL1Eviction (core line : Nat) (s : State) : Answer := .next (s.l1Evict core line)
/-- SLICE_EVICTION: a slice drops a line (R68). -/
def execSliceEviction (die line : Nat) (s : State) : Answer := .next (s.sliceEvict die line)
/-- RDS: a read to share (R73); a fenced slice keeps nothing (R453). -/
def execRds (die line : Nat) (s : State) : Answer := onLine die line (fun s line die => ((s.makeRoom die line).rdS line die).settle die line) s
/-- RDX: a read for ownership (R73, R453). -/
def execRdx (die line : Nat) (s : State) : Answer := onLine die line (fun s line die => ((s.makeRoom die line).rdX line die).settle die line) s
/-- WB: a dirty write-back (R73). -/
def execWb (die line : Nat) (s : State) : Answer := onLine die line State.wb s
/-- EVC: notice of a clean eviction (R73). -/
def execEvc (die line : Nat) (s : State) : Answer := onLine die line State.evC s
/-- REDU: admission of a die to U; an operator without a UOP code has no such request (R73, R78). -/
def execRedu (die line : Nat) (op : RedOp) (s : State) : Answer :=
  onLine die line (fun s line die => match redUop op with
    | some u => ((s.makeRoom die line).redU line die u).settle die line
    | none => s.unlisted) s
/-- REDF: an update at the home (R78). -/
def execRedf (pa : Nat) (op : RedOp) (v : BitVec 64) (s : State) : Answer :=
  onDevice pa (if op.wide then 8 else 4) ((s.competeMem false pa (if op.wide then 8 else 4)).redF pa op v)
/-- WRN: a write that does not allocate (R72). -/
def execWrn (pa : Nat) (bytes : List (BitVec 8)) (s : State) : Answer := onDevice pa bytes.length (s.wrN pa bytes)
/-- SPILL: a core's partials of a line go to the home (R74, R79). -/
def execSpill (die core line : Nat) (s : State) : Answer :=
  onLine die line (fun s line die => if core < 128 then s.spill line die core else s) s

end Sys2Proof.Machine
end

