-- ==== Sys2Proof/Machine/Tensor.lean ====
section
/-! DEFINITION. XLOC, XIDX, LDT, STT, TDEF, TREL, TSTAT (R159, R162, R261, R297, R298, R342-R344). -/
namespace Sys2Proof.Machine

/-- A word that resolves through a layout state waits while a REMAP pass is in flight (R135). -/
def State.settled (s : State) (k : Nat) : Res Layout :=
  if (s.layout k).inflight then .stop (.retry (.remap k)) s else .ok (s.layout k) s
/-- XLOC and XIDX (R162, R261). -/
def xmap (f : FmtR) (g : Layout → Option (List (BitVec 48))) (code sub : Nat) (s : State) : State :=
  runLanes (fun s t =>
    let x := (s.readPair t f.a.toNat).toNat
    (s.handleOf t (s.readG t f.b.toNat).toNat).andThen fun k s =>
      (s.settled k).andThen fun l s =>
        if 2 ^ l.rcd.n ≤ x then .trap code sub s
        else
          let v := matVec ((g l).getD []) l.rcd.n x
          .ok () ((s.useLast t (mark f.la [(f.a.toNat, 2)] ++ mark f.lb [(f.b.toNat, 1)])).result t f.d.toNat
            (wordsOf (BitVec.ofNat 64 v)))) s
/-- XLOC: an element's location from its index (R261). -/
def execXloc (f : FmtR) (s : State) : Answer := .next (xmap f (fun l => some l.cur) trapExtent 2 s)
/-- XIDX: an index from a location (R261). -/
def execXidx (f : FmtR) (s : State) : Answer := .next (xmap f (fun l => invert l.cur l.rcd.n) trapLayout 6 s)

/-- What LDT and STT find for an index: no slot at all, a value without a slot, or a slot (R159, R298). -/
inductive Found
  | skip
  | value (v : DWord)
  | slot (l : Layout)
/-- The checks of LDT and STT up to the slot (R298). -/
def State.tensorFind (s : State) (t : ThreadRef) (h x size : Nat) (store : Bool) : Res Found :=
  (s.handleOf t h).andThen fun k s =>
    (s.settled k).andThen fun l s =>
      if l.rcd.etype = 14 then .trap trapLayout 3 s
      else if l.rcd.esize ≠ size then .trap trapLayout 4 s
      else if l.broken then .trap trapLayout 5 s
      else if 2 ^ l.rcd.n ≤ x then .trap trapExtent 2 s
      else if l.rcd.phantom x then
        if l.rcd.strict then .trap trapExtent 1 s
        else if store then .ok .skip s
        else if l.rcd.fill then .ok (.value l.rcd.fillval) s
        else if l.rcd.trim then .ok (.value 0) s
        else .ok (.slot l) s
      else .ok (.slot l) s
/-- The words of a loaded element: one register, zero-extended, or a pair. -/
def elementWords (size : Nat) (b : List Byte) : List Word :=
  if size = 8 then wordsOf (BitVec.ofNat 64 (natOfBytes b)) else [BitVec.ofNat 32 (natOfBytes b)]
/-- LDT (R298). -/
def ldt (f : FmtT) (size : Nat) (s : State) : State :=
  runLanes (fun s t =>
    let x := (s.readPair t f.a.toNat).toNat
    (s.tensorFind t (s.readG t f.bo.toNat).toNat x size false).andThen fun r s =>
      match r with
      | .skip => .ok () s
      | .value v => .ok () (s.result t f.h.toNat (elementWords size (bytesOfNat size v.toNat)))
      | .slot l =>
        let p := l.rcd.place (matVec l.cur l.rcd.n x)
        if l.rcd.spm then
          (s.unitSpm l p.1 (l.rcd.base + p.2 * size) size).andThen fun q s =>
            match q with
            | .spm k off => .ok () (s.result t f.h.toNat (elementWords size (s.spmBytes k off size)))
            | .mem _ => .ok () s
        else if p.1 ≠ s.memberOf l then .trap trapLayout 2 s
        else (s.memRead t (BitVec.ofNat 64 (l.rcd.base + p.2 * size)) size false).andThen fun b s =>
          .ok () (s.result t f.h.toNat (elementWords size b))) s
/-- STT (R298). -/
def stt (f : FmtT) (size : Nat) (s : State) : State :=
  runLanes (fun s t =>
    let x := (s.readPair t f.a.toNat).toNat
    let v := ((s.readRun t f.h.toNat (if size = 8 then 2 else 1)).flatMap bytesOfWord).take size
    (s.tensorFind t (s.readG t f.bo.toNat).toNat x size true).andThen fun r s =>
      match r with
      | .skip | .value _ => .ok () s
      | .slot l =>
        let p := l.rcd.place (matVec l.cur l.rcd.n x)
        if l.rcd.spm then
          (s.unitSpm l p.1 (l.rcd.base + p.2 * size) size).andThen fun q s =>
            match q with
            | .spm k off => .ok () (s.spmPut k off v)
            | .mem _ => .ok () s
        else if p.1 ≠ s.memberOf l then .trap trapLayout 2 s
        else s.memWrite t (BitVec.ofNat 64 (l.rcd.base + p.2 * size)) v false) s
/-- LDT_B16: loads a 16-bit element (R298). -/
def execLdtB16 (f : FmtT) (s : State) : Answer := .next (ldt f 2 s)
/-- LDT_B32: loads a 32-bit element (R298). -/
def execLdtB32 (f : FmtT) (s : State) : Answer := .next (ldt f 4 s)
/-- LDT_B64: loads a 64-bit element (R298). -/
def execLdtB64 (f : FmtT) (s : State) : Answer := .next (ldt f 8 s)
/-- STT_B16: stores a 16-bit element (R298). -/
def execSttB16 (f : FmtT) (s : State) : Answer := .next (stt f 2 s)
/-- STT_B32: stores a 32-bit element (R298). -/
def execSttB32 (f : FmtT) (s : State) : Answer := .next (stt f 4 s)
/-- STT_B64: stores a 64-bit element (R298). -/
def execSttB64 (f : FmtT) (s : State) : Answer := .next (stt f 8 s)

/-- TDEF: defines a tensor handle from a record in memory (R155, R297). -/
def execTdef (f : FmtT) (s : State) : Answer :=
  .next (runLanes (fun s t =>
    let h := (s.readG t f.bo.toNat).toNat
    let va := s.readPair t f.a.toNat
    if 63 < h then .trap trapHandle 1 s
    else if va.toNat % 64 ≠ 0 then .trapAt trapAlign 0 va s
    else (s.memReadRun t va 16 32).andThen fun b s =>
      let r := (s.commit t).tdef t.task h va.toNat b
      .ok () (r.2.result t f.h.toNat [BitVec.ofNat 32 r.1])) s)
/-- TREL: releases a handle (R343). -/
def execTrel (f : FmtT) (s : State) : Answer :=
  .next (runLanes (fun s t =>
    let h := (s.readG t f.bo.toNat).toNat
    (s.handleOf t h).andThen fun k s =>
      let s := s.commit t
      if 0 < s.opsOn k then .ok () (s.result t f.h.toNat [BitVec.ofNat 32 stBusy])
      else .ok () ((s.dropHandle t.task h).result t f.h.toNat [BitVec.ofNat 32 stOk])) s)
/-- TSTAT: the state, operations in flight and progress of a layout state (R344). -/
def execTstat (f : FmtT) (s : State) : Answer :=
  .next (runLanes (fun s t =>
    (s.handleOf t (s.readG t f.bo.toNat).toNat).andThen fun k s =>
      let l := s.layout k
      let n := s.opsOn k
      let s := if n = 0 ∧ !l.inflight then s.acquire (s.coreOf t) else s
      .ok () (s.result t f.h.toNat [BitVec.ofNat 32 l.word, BitVec.ofNat 32 n, l.prog0, l.prog1])) s)

end Sys2Proof.Machine
end

