-- ==== Sys2Proof/Machine/EngineOps.lean ====
section
/-! DEFINITION. What the engines share: command records and their checks, an operation's start, its accesses, its end and its
failure (R30, R173, R302, R338-R341). -/
namespace Sys2Proof.Machine

/-! ## Command records (R338-R340) -/

/-- Every bit of a doubleword that is set lies in one of these fields [hi:lo]. -/
def onlyBits (v : Nat) (fields : List (Nat × Nat)) : Bool :=
  (List.range 64).all (fun i => !bitOf v i || fields.any (fun f => decide (f.2 ≤ i) && decide (i ≤ f.1)))
/-- What distinguishes the records of one command: whether one is well formed, and the handles it names. -/
structure Command where
  legal : List Nat → Bool
  handles : List Nat → List Nat
  /-- The record names a barrier object. -/
  barrier : Bool := true
/-- A doubleword of a record that has been read. -/
def cmdDw (q : List Nat) (i : Nat) : Nat := q.getD i 0
/-- BAROFF of a record (R339). -/
def cmdBar (q : List Nat) : Nat := fld (cmdDw q 0) 63 32
/-- CMD is `code`, the fields of FLAGS are these, and each later doubleword has only the fields listed. -/
def cmdShape (q : List Nat) (code : Nat) (flags : List (Nat × Nat)) (rest : List (List (Nat × Nat))) : Bool :=
  decide (fld (cmdDw q 0) 7 0 = code) && onlyBits (cmdDw q 0) ([(7, 0)] ++ flags) &&
    (List.range 7).all (fun i => onlyBits (cmdDw q (i + 1)) (rest.getD i []))
/-- The handle in a field that starts at bit `lo` of offset 0x08. -/
def cmdHandle (q : List Nat) (lo : Nat) : Nat := fld (cmdDw q 1) (lo + 5) lo
/-- The record at an SPM offset: order 1 of R340. -/
def State.command (s : State) (t : ThreadRef) (off : Nat) : Res (List Nat) :=
  (s.spmRead t off 64 false).andThen fun b s => .ok ((List.range 8).map (dwOf b)) s
/-- Order 3 of R340: the layout states of some handles, or HANDLE EMPTY. -/
def State.handlesOf (s : State) (t : ThreadRef) : List Nat → Res (List Nat)
  | [] => .ok [] s
  | h :: r => (s.handleOf t h).andThen fun k s => (s.handlesOf t r).andThen fun ks s => .ok (k :: ks) s
/-- An engine word: the checks of R340 in order, then what the command does; the status goes to A. -/
def engineWord (f : FmtT) (c : Command) (note : State → ThreadRef → Nat → State)
    (body : State → ThreadRef → List Nat → List Nat → Res Nat) (s : State) : State :=
  (runLanes (fun s t =>
    (s.command t (s.readG t f.h.toNat).toNat).andThen fun q s =>
      let answer := fun (st : Nat) (s : State) =>
        Res.ok () (((note s t st).result t f.a.toNat [BitVec.ofNat 32 st]).commit t)
      if !c.legal q then answer stRecord (s.setLast ((c.handles q).filterMap (s.handle? t.task)) stRecord)
      else
        (s.handlesOf t (c.handles q)).andThen fun ks s =>
          (if c.barrier then s.spmLocate t (cmdBar q) 32 else .ok () s).andThen fun _ s =>
            (body s t q ks).andThen fun st s => answer st (if st = stOk then s else s.setLast ks st)) s).endCycle
/-- Nothing is noted of a status. -/
def noNote (s : State) (_ : ThreadRef) (_ : Nat) : State := s

/-! ## Overlap (R175) -/

/-- The storage of one layout state meets an area of another; scratchpad of two stages lies in different tasks (R152). -/
def meetsArea (a b : Layout) (base : Nat) : Bool :=
  a.rcd.spm == b.rcd.spm && (!a.rcd.spm || a.stage == b.stage) && meets a.rcd.base a.rcd.size base b.rcd.size
/-- Two layout states share storage (R353, R354). -/
def shares (a b : Layout) : Bool := meetsArea a b b.rcd.base
/-- The storage of a layout state meets the storage, or the staging area, of the destination. -/
def overlaps (a d : Layout) : Bool := shares a d || (d.rcd.sv && meetsArea a d d.rcd.stage)

/-! ## An operation's life (R131, R302, R341) -/

/-- Start an operation on behalf of a thread, whose earlier stores it finds (R131); its bytes are added to PENDB at issue (R302). -/
def State.fork (s : State) (t : ThreadRef) (pc : DWord) (k : EngKind) (bar : Option Nat) (bytes prog stop : Nat)
    (prog2 : Nat := 0) (prog3 : Nat := 0) : State :=
  let x := s.task t.task
  let o : EngineOp :=
    { kind := k, task := t.task, tid := t.tid, pc := pc, lseq := x.lseq, num := x.num, asid := x.asid, func := x.func,
      core := x.phys, bar := bar, remain := bytes, prog := prog, stop := stop, prog2 := prog2, prog3 := prog3, launch := some x.launch }
  let s := s.drain x.phys
  let s := { s with engines := s.engines.put s.nextEngine o, nextEngine := s.nextEngine + 1 }
  match bar with
  | some b => if bytes = 0 then s else s.countOn t.task b bytes
  | none => s
/-- Change an operation. -/
def State.setOp (s : State) (id : Nat) (f : EngineOp → EngineOp) : State := { s with engines := s.engines.modify id f }
/-- An operation is over. -/
def State.endOp (s : State) (id : Nat) : State := { s with engines := s.engines.erase id }
/-- Bytes of an operation complete: at most what it still counts (R302). -/
def State.opBytes (s : State) (id : Nat) (n : Nat) : State :=
  match s.engines.find? id with
  | none => s
  | some o =>
    let m := min n o.remain
    let s := s.setOp id (fun o => { o with remain := o.remain - m })
    match o.bar with
    | some b => if m = 0 then s else s.countOff o.task b m false
    | none => s
/-- An operation completes: what it has not written is subtracted (R354). -/
def State.completeOp (s : State) (id : Nat) : State :=
  (s.opBytes id (((s.engines.find? id).map EngineOp.remain).getD 0)).endOp id
/-- The fault record of an operation (R341). -/
def EngineOp.record (o : EngineOp) (i : TrapInfo) : FaultRec :=
  { code := i.code, sub := i.sub, tid := o.tid, va := i.va, pc := o.pc, regionPc := o.pc + 4, task := o.num, peer := i.peer,
    lseq := o.lseq, asid := o.asid }
/-- The barrier object of an operation gets ERROR and loses the bytes that remain (R302). -/
def State.errorOp (s : State) (id : Nat) (o : EngineOp) : State :=
  let s := s.endOp id
  match o.bar with
  | some b => s.countOff o.task b o.remain true
  | none => s
/-- The operation ends with an error, with a fault record where a fault ended it (R341). -/
def State.failOp (s : State) (id : Nat) (o : EngineOp) (i : Option TrapInfo) : State :=
  (match i with
    | some i => s.pushFault o.func (o.record i)
    | none => s).errorOp id o
/-- A PAGE fault suspends the operation under a token (R30, R389). -/
def State.suspendOp (s : State) (id : Nat) (o : EngineOp) (va : DWord) (sub : Nat) (k : Access) : State :=
  let i : TrapInfo := { code := trapPage, sub := sub, va := va }
  let x := s.tokenFor o.func o.asid (va.toNat / 4096) k
  let s := x.2.2
  let s := if x.2.1 then s.pushPage o.func { o.record i with recoverable := true, token := x.1 } else s
  s.setOp id (fun o => { o with susp := some (x.1, i) })
/-- What stops an operation short of its next action: a fault ends it by `fail`, a PAGE fault suspends it, a wait lets it
be tried again. -/
def State.opStop (s : State) (id : Nat) (o : EngineOp) (fail : State → TrapInfo → State) (r : Stop) : State :=
  match r with
  | .trap i => fail s i
  | .page va sub k => s.suspendOp id o va sub k
  | .retry (.task a) => s.setOp id (fun o => { o with wants := some a })
  | .retry _ => s
/-- The operation may act now: it is not suspended, and its task is not saved or being saved (R393). -/
def State.opRuns (s : State) (o : EngineOp) : Bool :=
  o.susp.isNone && (s.task o.task).status != .saved && (s.task o.task).status != .saving

/-- An operation of a thread that has not started: what looks at operands at issue. -/
def State.peeker (s : State) (t : ThreadRef) : EngineOp :=
  { kind := .fill 0 0, task := t.task, tid := t.tid, pc := (s.thread t).pc, lseq := 0, num := 0, asid := s.asidOf t, func := 0,
    core := s.coreOf t, bar := none, remain := 0, prog := 0, stop := 0 }

/-! ## Accesses (R30, R43, R72, R159) -/

/-- The walk-ahead TLB of the operation's bed. -/
def EngineOp.via (o : EngineOp) : Via := .bed (o.core / 8)
/-- The die of the operation. -/
def EngineOp.die (o : EngineOp) : Nat := dieOf o.core
/-- The TWE translates ahead the pages of a record that the operation's next actions touch, `xs n` being the elements of the n-th
action from now, up to 32 of them; a failure found there is not reported (R30, R50, log 99). -/
def State.walkAhead (s : State) (o : EngineOp) (l : Layout) (xs : Nat → List Nat) : State :=
  if l.rcd.spm then s
  else
    (List.range (Config.walkDepth s.tick % 33)).foldl (fun (s : State) n =>
      ((xs (n + 1)).map (fun x =>
        (l.rcd.base + (l.rcd.place (matVec l.cur l.rcd.n x)).2 * l.rcd.esize) / 4096)).eraseDups.foldl (fun (s : State) pg =>
          if spaceOf (4096 * pg) = .local_ then (s.leaf o.via o.asid (4096 * pg)).2 else s) s) s
/-- Bytes of memory that an engine reads. -/
def State.engineLoad (s : State) (o : EngineOp) (va size : Nat) : Res (List Byte) :=
  (s.locateVia o.via o.asid (BitVec.ofNat 64 va) size .read).andThen fun l s =>
    if l.host then .ok (Memory.bytes s.hostMem l.pa size) s
    else if s.poisoned l.pa then .trapAt trapCorrupt 0 (BitVec.ofNat 64 va) s
    else
      let r := s.readBytesAt o.die l.pa size
      .ok r.1 r.2
/-- The bytes of a slot from `base`, at the record's level. -/
def State.slotLoad (s : State) (o : EngineOp) (l : Layout) (base unit slot : Nat) : Res (List Byte) :=
  let a := base + slot * l.rcd.esize
  if l.rcd.spm then
    (s.unitSpm l unit a l.rcd.esize).andThen fun p s =>
      match p with
      | .spm k off => .ok (s.spmBytes k off l.rcd.esize) s
      | .mem _ => .ok [] s
  else s.engineLoad o a l.rcd.esize
/-- An element under a matrix, read as a non-strict LDT reads it (R159). -/
def State.elementLoad (s : State) (o : EngineOp) (l : Layout) (m : List (BitVec 48)) (x : Nat) : Res (List Byte) :=
  if l.rcd.phantom x && l.rcd.fill then .ok (bytesOfNat l.rcd.esize l.rcd.fillval.toNat) s
  else if l.rcd.phantom x && l.rcd.trim then .ok (bytesOfNat l.rcd.esize 0) s
  else
    let p := l.rcd.place (matVec m l.rcd.n x)
    s.slotLoad o l l.rcd.base p.1 p.2
/-- Where an engine will write a slot. -/
def State.slotDest (s : State) (o : EngineOp) (l : Layout) (base unit slot : Nat) : Res Place :=
  s.slotAt o.via o.asid l base unit slot .write
/-- Where an engine will write an element. -/
def State.elementDest (s : State) (o : EngineOp) (l : Layout) (m : List (BitVec 48)) (x : Nat) : Res Place :=
  let p := l.rcd.place (matVec m l.rcd.n x)
  s.slotDest o l l.rcd.base p.1 p.2
/-- Write an element of an operation at its place (R72). -/
def State.placePut (s : State) (o : EngineOp) (p : Place) (b : List Byte) : State :=
  match p with
  | .mem l => s.engineWrite o.die l b
  | .spm k off => if k = o.task then s.spmPut k off b else s.spmArrive k off b
/-- Do something for each of a list, in order, gathering what it gives; the first stop ends it. -/
def eachOf {α β : Type} (f : State → α → Res (Option β)) : List α → State → Res (List β)
  | [], s => .ok [] s
  | a :: r, s => (f s a).andThen fun b s => (eachOf f r s).andThen fun bs s => .ok (b.toList ++ bs) s
/-- Slots of an area that hold unspecified values from now on; one that cannot be reached is left. -/
def State.scramble (s : State) (o : EngineOp) (l : Layout) (base : Nat) (places : List (Nat × Nat)) : State :=
  places.foldl (fun s p =>
    match s.slotDest o l base p.1 p.2 with
    | .ok q s =>
      let b := s.freeBytes l.rcd.esize
      b.2.placePut o q b.1
    | .stop _ s => s) s
/-- The progress of operation `id`, which TSTAT reports while no later one has the same destination (R344). -/
def State.setProgress (s : State) (k id : Nat) (a b : Nat) : State :=
  s.modLayout k (fun l =>
    if l.progOp ≤ id then { l with progOp := id, prog0 := BitVec.ofNat 32 a, prog1 := BitVec.ofNat 32 b } else l)

/-! ## Counting elements -/

/-- Indices below `x` whose coordinates all lie within the extents (R147, R159). -/
def realBelow : List Nat → Nat → Nat
  | [], x => min x 1
  | e :: r, x =>
    if e = 0 then min x 1
    else
      let c := x % 2 ^ bitsOf e
      let hi := x / 2 ^ bitsOf e
      realBelow r hi * e + (if phantomIn r hi then 0 else min c e)
/-- Elements with an index in [lo, hi) that an engine writes: all, or under TRIM the real ones (R161). -/
def TRec.written (r : TRec) (lo hi : Nat) : Nat := if r.trim then realBelow r.ext hi - realBelow r.ext lo else hi - lo

end Sys2Proof.Machine
end

