-- ==== Sys2Proof/Machine/Matrix.lean ====
section
/-! DEFINITION. Tile memory, the direct matrix words, MXGO and its steps, MXSTAT: major 0x3B (R326-R337). -/
namespace Sys2Proof.Machine

/-! ## Tile memory (R326, R327) -/

/-- The tile memory of a core. -/
def State.tmem (s : State) (core : Nat) : Tmem := (s.tmems.find? core).getD {}
/-- Change it. -/
def State.modTmem (s : State) (core : Nat) (f : Tmem → Tmem) : State := { s with tmems := s.tmems.put core (f (s.tmem core)) }
/-- A task has the lease of its core's tile memory after this, unless another has it; a new lease finds no configuration and
zeros (R326, R327). The MXGO report is the core's and stays. -/
def State.takeLease (s : State) (core task : Nat) : Bool × State :=
  let m := s.tmem core
  match m.lease with
  | some a => (a == task, s)
  | none => (true, s.modTmem core (fun m =>
      { lease := some task, p := m.p, done := m.done, error := m.error, status := m.status }))
/-- A table of the keys below `n`, in canonical form. -/
def tabulate {β : Type} [DecidableEq β] (d : β) (n : Nat) (g : Nat → β) : Tbl β :=
  (List.range n).filterMap (fun k => if g k = d then none else some (k, g k))
/-- The first `m` rows of a tile replaced. -/
def rowsPut (t : Tbl Word) (m : Nat) (g : Nat → Nat → Word) : Tbl Word :=
  tabulate 0 (128 * m) (fun k => g (k / 128) (k % 128)) ++ t.filter (fun e => decide (128 * m ≤ e.1))
/-- An element of an accumulator tile. -/
def Tmem.acc (m : Tmem) (tile : Nat) (i j : Nat) : Word :=
  Tbl.get 0 (if tile = 0 then m.acc0 else m.acc1) (128 * i + j)
/-- Replace a tile. -/
def Tmem.setAcc (m : Tmem) (tile : Nat) (f : Tbl Word → Tbl Word) : Tmem :=
  if tile = 0 then { m with acc0 := f m.acc0 } else { m with acc1 := f m.acc1 }

/-! ## Configuration and shape words (R328, R330) -/

/-- Bytes of an operand element. -/
def optSize (opt : Nat) : Nat := if opt = 6 ∨ opt = 7 then 2 else 1
/-- Accumulator type code of an operand type code. -/
def accType (opt : Nat) : Nat := if opt = 10 ∨ opt = 11 then 0 else 4
/-- An operand type of the array. -/
def optOk (opt : Nat) : Bool := decide (6 ≤ opt) && decide (opt ≤ 11)
/-- The configuration in a record, if it keeps the rules of R328. -/
def MxConfig.parse (q : List Nat) : Option MxConfig :=
  let opt := fld (cmdDw q 0) 3 0
  let a := fld (cmdDw q 1) 31 0
  let b := fld (cmdDw q 1) 63 32
  let c := fld (cmdDw q 2) 31 0
  if optOk opt ∧ fld (cmdDw q 0) 7 4 = accType opt ∧ fld (cmdDw q 0) 63 8 = 0 ∧ a % 64 = 0 ∧ 128 * optSize opt ≤ a ∧
      b % 64 = 0 ∧ 128 * optSize opt ≤ b ∧ c % 64 = 0 ∧ 512 ≤ c ∧ fld (cmdDw q 2) 63 32 = 0 ∧
      (List.range 5).all (fun i => cmdDw q (3 + i) == 0) then
    some ⟨opt, a, b, c⟩
  else none
/-- A shape word: rows, tile, valid k lanes; `kv` and `mm` say whether KV1 and MM1 are used. -/
def shapeWord (v : Nat) (mm kv : Bool) : Option (Nat × Nat × Nat) :=
  if onlyBits v [(7, 0), (8, 8), (22, 16)] ∧ (kv ∨ fld v 22 16 = 0) ∧ (mm ∨ fld v 7 0 = 0) then
    some (fld v 7 0 + 1, fld v 8 8, fld v 22 16 + 1)
  else none

/-! ## One k-step (R195-R197) -/

/-- `step` of R332 on pairs of operand patterns. -/
def mxStep (opt : Nat) (acc : Word) (ps : List (Nat × Nat)) : Word :=
  match Fp.Ty.ofCode opt with
  | some (.flt F) => BitVec.ofNat 32 (Fp.dotStep F acc.toNat ps).bits
  | some (.int I) => acc + BitVec.ofInt 32 ((ps.map (fun p => I.val p.1 * I.val p.2)).sum)
  | none => acc

/-! ## Direct words (R329, R331-R333) -/

/-- An MXGO of a core that runs or is suspended. -/
def State.mxRun? (s : State) (core : Nat) : Option (Nat × EngineOp) :=
  List.find? (fun (e : Nat × EngineOp) =>
    match e.2.kind with
    | .mxgo _ _ _ _ _ => e.2.core == core
    | _ => false) s.engines
/-- A direct word of each thread: LEASE, BUSY, CONFIG, OPERAND, then the check of its SPM bytes (R329); what it does to the
tile memory and to SPM follows, and it is a commit point. `bytes` are the SPM bytes it covers. -/
def mxWord (f : FmtT) (config : Bool) (shape : Option (Bool × Bool)) (bytes : Option (MxConfig → Nat × Nat × Nat → Nat))
    (act : State → ThreadRef → MxConfig → Nat × Nat × Nat → Nat → Res Unit) (s : State) : State :=
  runLanes (fun s t =>
    let core := s.coreOf t
    let l := s.takeLease core t.task
    let s := l.2
    if !l.1 then .trap trapEngine 1 s
    else if (s.mxRun? core).any (fun e => e.2.task == t.task) then .trap trapEngine 3 s
    else
      let cfg := (s.tmem core).config
      if config && cfg.isNone then .trap trapEngine 2 s
      else
        let c := cfg.getD ⟨6, 0, 0, 0⟩
        match (match shape with
          | none => some (1, 0, 1)
          | some (mm, kv) => shapeWord (s.readG t f.bo.toNat).toNat mm kv) with
        | none => .trap trapEngine 4 s
        | some w =>
          let off := (s.readG t f.a.toNat).toNat
          (match bytes with
            | none => Res.ok () s
            | some n =>
              if off % 64 ≠ 0 then .trapAt trapAlign 0 (BitVec.ofNat 64 off) s
              else if (s.task t.task).spmSize < off + n c w then .trapAt trapProt 7 (BitVec.ofNat 64 off) s
              else .ok () s).andThen fun _ s =>
            (act s t c w off).andThen fun _ s => .ok () (s.commit t)) s
/-- An operand element of SPM. -/
def State.operand (s : State) (task off esize : Nat) : Nat := natOfBytes (s.spmBytes task off esize)
/-- MXCFG: sets the configuration from a record (R328). -/
def execMxcfg (f : FmtT) (s : State) : Answer :=
  .next (mxWord f false none (some (fun _ _ => 64)) (fun s t _ _ off =>
    match MxConfig.parse ((List.range 8).map (dwOf (s.spmBytes t.task off 64))) with
    | none => .trap trapEngine 2 s
    | some c => .ok () (s.modTmem (s.coreOf t) (fun m => { m with config := some c }))) s)
/-- MXLDS: loads the shadow plane (R331). -/
def execMxlds (f : FmtT) (s : State) : Answer :=
  .next (mxWord f true none (some (fun c _ => 127 * c.bpitch + 128 * optSize c.opt)) (fun s t c _ off =>
    let es := optSize c.opt
    .ok () (s.modTmem (s.coreOf t) (fun m =>
      { m with shadow := tabulate 0 (128 * 128) (fun k =>
          BitVec.ofNat 16 (s.operand t.task (off + k / 128 * c.bpitch + k % 128 * es) es)) }))) s)
/-- MXSWAP: exchanges the planes (R331). -/
def execMxswap (f : FmtT) (s : State) : Answer :=
  .next (mxWord f false none none (fun s t _ _ _ =>
    .ok () (s.modTmem (s.coreOf t) (fun m => { m with active := m.shadow, shadow := m.active }))) s)
/-- MXMUL: streams rows of A past the active plane (R332). -/
def execMxmul (f : FmtT) (s : State) : Answer :=
  .next (mxWord f true (some (true, true)) (some (fun c w => (w.1 - 1) * c.apitch + w.2.2 * optSize c.opt))
    (fun s t c w off =>
      let es := optSize c.opt
      .ok () (s.modTmem (s.coreOf t) (fun m => m.setAcc w.2.1 (fun a => rowsPut a w.1 (fun i j =>
        mxStep c.opt (m.acc w.2.1 i j) ((List.range w.2.2).map (fun k =>
          (s.operand t.task (off + i * c.apitch + k * es) es, (Tbl.get 0 m.active (128 * k + j)).toNat % 2 ^ (8 * es))))))))) s)
/-- MXST: stores rows of a tile (R333). -/
def execMxst (f : FmtT) (s : State) : Answer :=
  .next (mxWord f true (some (true, false)) (some (fun c w => (w.1 - 1) * c.cpitch + 512)) (fun s t c w off =>
    let m := s.tmem (s.coreOf t)
    .ok () ((List.range w.1).foldl (fun (s : State) i =>
      s.spmPut t.task (off + i * c.cpitch) ((List.range 128).flatMap (fun j => bytesOfWord (m.acc w.2.1 i j)))) s)) s)
/-- MXZERO: clears a tile (R331). -/
def execMxzero (f : FmtT) (s : State) : Answer :=
  .next (mxWord f false (some (false, false)) none (fun s t _ w _ =>
    .ok () (s.modTmem (s.coreOf t) (fun m => m.setAcc w.2.1 (fun _ => [])))) s)

/-! ## MXGO (R334-R336) -/

/-- The MXGO record (R334). -/
def mxgoCommand : Command where
  legal q := cmdShape q 6 [(9, 8), (63, 32)] [[(5, 0), (13, 8), (21, 16)], [(31, 0)]]
  handles q := [cmdHandle q 0, cmdHandle q 8, cmdHandle q 16]
/-- Tiles of rows, tiles of columns and k-steps of a product (R335). -/
structure MxShape where
  m : Nat
  n : Nat
  k : Nat
  deriving DecidableEq, Repr
/-- MT. -/
def MxShape.mt (x : MxShape) : Nat := (x.m + 255) / 256
/-- NT. -/
def MxShape.nt (x : MxShape) : Nat := (x.n + 127) / 128
/-- S. -/
def MxShape.s (x : MxShape) : Nat := (x.k + 127) / 128
/-- Global steps. -/
def MxShape.steps (x : MxShape) : Nat := x.mt * x.nt * x.s
/-- First row and rows, first column and columns of tile `t`. -/
def MxShape.tile (x : MxShape) (t : Nat) : (Nat × Nat) × (Nat × Nat) :=
  let r := 256 * (t % x.mt)
  let c := 128 * (t / x.mt)
  ((r, min 256 (x.m - r)), (c, min 128 (x.n - c)))
/-- Elements of C in tile `t`. -/
def MxShape.size (x : MxShape) (t : Nat) : Nat := (x.tile t).1.2 * (x.tile t).2.2
/-- The product of three records. -/
def mxShape (a b : TRec) : MxShape := ⟨a.ext.getD 0 0, b.ext.getD 1 0, a.ext.getD 1 0⟩
/-- The shapes and types of three records fit (R334). -/
def mxFits (a b c : TRec) : Bool :=
  a.etype == b.etype && optOk a.etype && c.etype == accType a.etype && a.rank == 2 && b.rank == 2 && c.rank == 2 &&
    b.ext.getD 0 0 == a.ext.getD 1 0 && c.ext.getD 0 0 == a.ext.getD 0 0 && c.ext.getD 1 0 == b.ext.getD 1 0 &&
    a.peerb == 0 && b.peerb == 0 && c.peerb == 0
/-- Orders 5 to 9 of R340 for MXGO, and its start (R334-R336). -/
def State.mxgoStart (s : State) (t : ThreadRef) (pc : DWord) (q ks : List Nat) : Nat × State :=
  let core := s.coreOf t
  let l := s.takeLease core t.task
  let s := l.2
  let ka := ks.getD 0 0
  let kb := ks.getD 1 0
  let kc := ks.getD 2 0
  let a := s.layout ka
  let b := s.layout kb
  let c := s.layout kc
  let x := mxShape a.rcd b.rcd
  let start := fld (cmdDw q 2) 31 0
  if !l.1 then (stNoLease, s)
  else if a.inflight || b.inflight || c.inflight || (s.mxRun? core).isSome then (stBusy, s)
  else if a.broken || b.broken || c.broken || !mxFits a.rcd b.rcd c.rcd || decide (x.steps ≤ start) then (stShape, s)
  else if kc == ka || kc == kb || overlaps a c || overlaps b c then (stOverlap, s)
  else
    let first := start / x.s
    let bytes := 4 * (((List.range (x.mt * x.nt)).drop first).map x.size).sum
    (stOk, (s.fork t pc (.mxgo ka kb kc (bitOf (cmdDw q 0) 8) (fld (cmdDw q 0) 9 9)) (some (cmdBar q)) bytes start
      x.steps).modTmem core (fun m => { m with p := BitVec.ofNat 32 start, done := false, error := false }))
/-- STATUS of MXSTAT. -/
def State.noteMxgo (s : State) (core st : Nat) : State := s.modTmem core (fun m => { m with status := st })
/-- MXGO: starts a background product (R334-R336). -/
def execMxgo (f : FmtT) (s : State) : Answer :=
  .next (engineWord f mxgoCommand (fun s t st => s.noteMxgo (s.coreOf t) st)
    (fun s t q ks => let r := s.mxgoStart t (s.thread t).pc q ks; .ok r.1 r.2) s)
/-- An MXGO that a TCOPY starts, as its task would (R350); what would trap gives RECORD (log 25). -/
def State.followOn (s : State) (o : EngineOp) (off : Nat) : State :=
  let t : ThreadRef := ⟨o.task, o.tid⟩
  let core := s.coreOf t
  if (s.spmCheck o.task off 64).isSome then s.noteMxgo core stRecord
  else
    let b := s.spmBytes o.task off 64
    let q := (List.range 8).map (dwOf b)
    let barOk := (s.spmCheck o.task (cmdBar q) 32).isNone
    let hs := mxgoCommand.handles q
    let ks := hs.filterMap (s.handle? o.task)
    let r := if mxgoCommand.legal q && ks.length == hs.length && barOk then s.mxgoStart t o.pc q ks else (stRecord, s)
    let s := r.2.noteMxgo core r.1
    if r.1 = stOk then s
    else
      let s := s.setLast ks r.1
      if barOk then s.countOff o.task (cmdBar q) 0 true else s

/-- An MXGO ends with an error: P names the first step that did not complete (R336). -/
def State.failMxgo (s : State) (id : Nat) (o : EngineOp) (i : TrapInfo) : State :=
  (s.failOp id o (some i)).modTmem o.core (fun m => { m with p := BitVec.ofNat 32 o.prog, error := true, done := false })
/-- Index of the element at row `i`, column `j`. -/
def TRec.index2 (r : TRec) (i j : Nat) : Nat := i + 2 ^ bitsOf (r.ext.getD 0 1) * j
/-- Patterns of the elements at some places of a matrix. -/
def State.matrixLoad (s : State) (o : EngineOp) (l : Layout) (ij : List (Nat × Nat)) : Res (List Nat) :=
  eachOf (fun s p => (s.elementLoad o l l.cur (l.rcd.index2 p.1 p.2)).andThen fun b s => .ok (some (natOfBytes b)) s) ij s
/-- The places of a block, row by row. -/
def block (r0 rows c0 cols : Nat) : List (Nat × Nat) :=
  (List.range (rows * cols)).map (fun k => (r0 + k / cols, c0 + k % cols))
/-- The operand blocks of MXGO's next steps, and the tiles of C where a step begins or ends one (R30, R335). -/
def State.mxgoAhead (s : State) (o : EngineOp) (ka kb kc : Nat) : State :=
  let a := s.layout ka
  let b := s.layout kb
  let c := s.layout kc
  let x := mxShape a.rcd b.rcd
  let at_ := fun (l : Layout) (f : Nat → List (Nat × Nat)) (n : Nat) =>
    if o.prog + n < o.stop then (f (o.prog + n)).map (fun p => l.rcd.index2 p.1 p.2) else []
  let k0 := fun (g : Nat) => 128 * (g % x.s)
  let ks := fun (g : Nat) => min 128 (x.k - k0 g)
  let t := fun (g : Nat) => x.tile (g / x.s)
  let s := s.walkAhead o a (at_ a (fun g => block (t g).1.1 (t g).1.2 (k0 g) (ks g)))
  let s := s.walkAhead o b (at_ b (fun g => block (k0 g) (ks g) (t g).2.1 (t g).2.2))
  s.walkAhead o c (at_ c (fun g => if g % x.s = 0 ∨ g % x.s = x.s - 1 then block (t g).1.1 (t g).1.2 (t g).2.1 (t g).2.2 else []))
/-- One global step of MXGO, with the writing of a finished tile: all of it or nothing (R335, R336). -/
def State.mxgoStep (s : State) (id : Nat) (o : EngineOp) (ka kb kc : Nat) (accum : Bool) (tile : Nat) : State :=
  let a := s.layout ka
  let b := s.layout kb
  let c := s.layout kc
  let x := mxShape a.rcd b.rcd
  let t := o.prog / x.s
  let k0 := 128 * (o.prog % x.s)
  let ks := min 128 (x.k - k0)
  let rows := (x.tile t).1
  let cols := (x.tile t).2
  let last := decide (o.prog % x.s = x.s - 1)
  let cells := block rows.1 rows.2 cols.1 cols.2
  let r : Res (List Nat × List Nat × List Nat × List Place) :=
    (if o.prog % x.s = 0 && accum then s.matrixLoad o c cells else .ok [] s).andThen fun c0 s =>
      (s.matrixLoad o a (block rows.1 rows.2 k0 ks)).andThen fun av s =>
        (s.matrixLoad o b (block k0 ks cols.1 cols.2)).andThen fun bv s =>
          (if last then eachOf (fun s p =>
              (s.elementDest o c c.cur (c.rcd.index2 p.1 p.2)).andThen fun q s => .ok (some q) s) cells s
            else .ok [] s).andThen fun ds s => .ok (c0, av, bv, ds) s
  match r with
  | .stop w s => s.opStop id o (fun s i => s.failMxgo id o i) w
  | .ok (c0, av, bv, ds) s =>
    let old := (s.tmem o.core)
    let val := fun i j =>
      let before := if o.prog % x.s ≠ 0 then old.acc tile i j
        else if accum then BitVec.ofNat 32 (c0.getD (i * cols.2 + j) 0) else 0
      mxStep a.rcd.etype before ((List.range ks).map (fun k =>
        (av.getD (i * ks + k) 0, bv.getD (k * cols.2 + j) 0)))
    let s := s.modTmem o.core (fun m =>
      { m.setAcc tile (fun acc => rowsPut acc rows.2 (fun i j =>
          if j < cols.2 then val i j else old.acc tile i j)) with
          p := BitVec.ofNat 32 (o.prog + 1) })
    let s := s.setOp id (fun o => { o with prog := o.prog + 1 })
    if !last then s
    else
      let m := s.tmem o.core
      let s := (List.range ds.length).foldl (fun (s : State) n =>
        s.placePut o (ds.getD n (.spm 0 0)) (bytesOfWord (m.acc tile (n / cols.2) (n % cols.2)))) s
      let s := s.opBytes id (4 * ds.length)
      if o.prog + 1 < o.stop then s
      else
        let s := s.completeOp id
        let base := s.fresh
        { s.modTmem o.core (fun m =>
            { m with done := true,
                     active := tabulate 0 (128 * 128) (fun k => (Config.freeWord (base + k)).truncate 16),
                     shadow := tabulate 0 (128 * 128) (fun k => (Config.freeWord (base + 128 * 128 + k)).truncate 16) })
          with fresh := base + 2 * 128 * 128 }
/-- MXGO_STEP: one global step of the product that runs on a core (R335). -/
def execMxgoStep (core : Nat) (s : State) : Answer :=
  .next (match s.mxRun? core with
    | none => s
    | some (id, o) =>
      match o.kind with
      | .mxgo a b c accum tile => if s.opRuns o then ((s.mxgoAhead o a b c).mxgoStep id o a b c accum tile).settleBarriers else s
      | _ => s)
/-- MXSTAT: the core's MXGO report; with RUN = 0 and DONE = 1 an acquire (R337). -/
def execMxstat (f : FmtT) (s : State) : Answer :=
  .next (runLanes (fun s t =>
    let core := s.coreOf t
    let m := s.tmem core
    let run := s.mxRun? core
    let w := b2n run.isSome + 2 * b2n m.done + 4 * b2n m.error + 8 * b2n (run.any (fun e => e.2.susp.isSome)) +
      256 * (m.status % 16)
    let s := if run.isNone && m.done then s.acquire core else s
    .ok () (s.result t f.h.toNat [m.p, BitVec.ofNat 32 w])) s)

end Sys2Proof.Machine
end

