-- ==== Sys2Proof/Machine/Engine.lean ====
section
/-! DEFINITION. TCOPY, TMERGE, TXF, TLDTAB, and the chunks and elements of the operations they start (R172-R175, R187,
R345-R350, R353-R356). -/
namespace Sys2Proof.Machine

/-! ## TCOPY: the record and its checks (R172, R345-R349) -/

/-- The TCOPY record (R345). -/
def tcopyCommand : Command where
  legal q := cmdShape q 2 [(11, 8), (63, 32)] [[(5, 0), (13, 8), (19, 16), (26, 24)], [(7, 0)], [(31, 0)], [(31, 0)]]
  handles q := [cmdHandle q 0, cmdHandle q 8]
/-- The destination type suits a reduce operator (R347). -/
def redSuits (red ety : Nat) : Bool :=
  match red with
  | 0 => true
  | 1 => ety == 0 || ety == 1
  | 2 | 4 | 5 => ety == 4
  | 3 => ety == 7
  | _ => ety == 0
/-- E: elements of a chunk (R172). -/
def TRec.perChunk (d : TRec) : Nat := 4096 / d.esize
/-- Chunks of a copy. -/
def TRec.chunks (d : TRec) : Nat := (2 ^ d.n + d.perChunk - 1) / d.perChunk
/-- A transfer that is bound to a copy channel of a core and still runs (R85). -/
def State.channelBusy (s : State) (core chan : Nat) : Bool :=
  s.engines.any (fun e =>
    match e.2.kind with
    | .tcopy _ _ _ _ _ chv ch _ _ _ => chv && ch == chan && e.2.core == core
    | _ => false)
/-- Shapes, types and levels of a copy. -/
def copyFits (a d : TRec) (ovl mcast chv : Bool) (red first : Nat) : Bool :=
  a.rank == d.rank && a.ext == d.ext && d.etype != 14 && a.peerb == 0 && d.peerb == 0 &&
    ((decide (a.etype < 16) && decide (d.etype < 16)) || a.etype == d.etype) &&
    (red == 0 || d.spm) && redSuits red d.etype && (!(chv || mcast) || (d.spm && d.coreb == 0)) && (!ovl || d.sv) &&
    decide (first < d.chunks)
/-- Write pointer of a copy channel of a task (R85). -/
def State.setWp (s : State) (task chan v : Nat) : State := s.modTask task (fun k => { k with wps := k.wps.put chan v })
/-- Orders 6 to 10 of R340 for TCOPY, and its start. -/
def State.copyStart (s : State) (t : ThreadRef) (q ks : List Nat) : Nat × State :=
  let ka := ks.getD 0 0
  let kd := ks.getD 1 0
  let a := s.layout ka
  let d := s.layout kd
  let ovl := bitOf (cmdDw q 0) 8
  let mcast := bitOf (cmdDw q 0) 9
  let follow := bitOf (cmdDw q 0) 10
  let chv := bitOf (cmdDw q 0) 11
  let chan := fld (cmdDw q 1) 19 16
  let red := fld (cmdDw q 1) 26 24
  let foloff := fld (cmdDw q 3) 31 0
  let first := fld (cmdDw q 4) 31 0
  let meet := overlaps a d
  let id := s.nextEngine
  let core := s.coreOf t
  if a.inflight || d.inflight then (stBusy, s)
  else if a.broken || d.broken || !copyFits a.rcd d.rcd ovl mcast chv red first then (stShape, s)
  else if ka = kd then
    if red ≠ 0 then (stOverlap, s)
    else
      let s := s.setProgress kd id d.rcd.chunks 0
      (stOk, if follow then s.followOn (s.peeker t) foloff else s)
  else if meet && !ovl then (stOverlap, s)
  else if chv && s.channelBusy core chan then (stChanBusy, s)
  else
    let e := d.rcd.perChunk
    let bytes := d.rcd.esize * d.rcd.written (first * e) (2 ^ d.rcd.n)
    let k : EngKind := .tcopy ka kd ovl mcast follow chv chan red (fld (cmdDw q 2) 7 0) foloff
    let s := (s.fork t (s.thread t).pc k (some (cmdBar q)) bytes first d.rcd.chunks (if ovl && meet then 1 else 0)).setProgress
      kd id (if ovl && meet then 0 else first) 0
    (stOk, if chv then s.setWp t.task chan (min (d.rcd.base + first * 4096) (d.rcd.base + d.rcd.size)) else s)
/-- TCOPY: starts a chunked copy between two tensor records (R345). -/
def execTcopy (f : FmtT) (s : State) : Answer :=
  .next (engineWord f tcopyCommand noNote (fun s t q ks =>
    let s := if bitOf (cmdDw q 0) 9 then s.pin (s.task t.task).launch else s
    let r := s.copyStart t q ks
    .ok r.1 (if r.1 = stOk then r.2.setLast ks stOk else r.2)) s)

/-! ## TCOPY: values (R174, R187, R346) -/

/-- Product of two f32 patterns, rounded to nearest. -/
def mulF32 (x y : Nat) : Nat := (Fp.mul Fp.f32 .rn (Fp.f32.val x) (Fp.f32.val y)).bits
/-- The level of a Q4 code as a BF16 pattern (R186). -/
def q4Level (c : Nat) : Nat :=
  [0xBF80, 0xBF35, 0xBF0B, 0xBED5, 0xBE9F, 0xBE5D, 0xBE02, 0xBD2C,
   0x3D2C, 0x3E02, 0x3E5D, 0x3E9F, 0x3ED5, 0x3F0B, 0x3F35, 0x3F80].getD c 0
/-- A Q4 element as BF16 (R187). -/
def q4Expand (super scale code : Nat) : Nat :=
  let sc := (Fp.convert (.flt Fp.f32) (.int ⟨false, 8⟩) .rn scale).bits
  let t := mulF32 (mulF32 super sc) 0x3B808081
  (Fp.convert (.flt Fp.bf) (.flt Fp.f32) .rn (mulF32 (q4Level code * 65536) t)).bits
/-- An element converted between types, RN-saturating; record types are equal (R346). -/
def convertElement (to_ src size : Nat) (v : Nat) : List Byte :=
  match Fp.Ty.ofCode to_, Fp.Ty.ofCode src with
  | some x, some y => bytesOfNat size (Fp.convert x y .rns v).bits
  | _, _ => bytesOfNat size v
/-- A Q4 element of a source, expanded (R154, R187). -/
def State.q4Load (s : State) (o : EngineOp) (a : TRec) (x : Nat) : Res Nat :=
  let scales := a.base + 2 ^ (a.n - 1)
  (s.engineLoad o (a.base + x / 2) 1).andThen fun c s =>
    (s.engineLoad o (scales + x / 64) 1).andThen fun sc s =>
      (s.engineLoad o (scales + 2 ^ (a.n - 6) + 4 * (x / 16384)) 4).andThen fun sup s =>
        .ok (q4Expand (natOfBytes sup) (natOfBytes sc) (natOfBytes c / (if x % 2 = 0 then 1 else 16) % 16)) s
/-- Where a copy writes the slot of index `x` from `base`: a multicast writes the issuing task's SPM (R349). -/
def State.copyDest (s : State) (o : EngineOp) (d : Layout) (mcast : Bool) (base x : Nat) : Res Place :=
  let p := d.rcd.place (matVec d.cur d.rcd.n x)
  if mcast then
    let off := base + p.2 * d.rcd.esize
    match s.spmCheck o.task off d.rcd.esize with
    | some (c, sub) => .trapAt c sub (BitVec.ofNat 64 off) s
    | none => .ok (.spm o.task off) s
  else s.slotDest o d base p.1 p.2
/-- What a copy writes for index `x`, if it writes anything; `staged` reads it back from the staging area (R174, R175). -/
def State.copyValue (s : State) (o : EngineOp) (a d : Layout) (mcast staged : Bool) (x : Nat) : Res (Option (List Byte)) :=
  if d.rcd.trim && d.rcd.phantom x then .ok none s
  else if staged then
    if mcast then
      (s.copyDest o d true d.rcd.stage x).andThen fun p s =>
        match p with
        | .spm k off => .ok (some (s.spmBytes k off d.rcd.esize)) s
        | .mem _ => .ok none s
    else
      let p := d.rcd.place (matVec d.cur d.rcd.n x)
      (s.slotLoad o d d.rcd.stage p.1 p.2).andThen fun b s => .ok (some b) s
  else if d.rcd.fill && d.rcd.phantom x then .ok (some (bytesOfNat d.rcd.esize d.rcd.fillval.toNat)) s
  else if a.rcd.etype = 14 then
    (s.q4Load o a.rcd x).andThen fun v s => .ok (some (convertElement d.rcd.etype 7 d.rcd.esize v)) s
  else
    (s.elementLoad o a a.cur x).andThen fun b s =>
      .ok (some (convertElement d.rcd.etype a.rcd.etype d.rcd.esize (natOfBytes b))) s

/-! ## TCOPY: writes (R82, R83, R347-R349) -/

/-- An element arrives at an SPM offset: a plain write, or combined by its bank's adder (R82, R347). -/
def State.bankPut (s : State) (task off red : Nat) (b : List Byte) : State :=
  let old := fun (n : Nat) => natOfBytes (s.spmNow task off n)
  s.spmArrive task off (if red = 0 then b
    else if b.length = 2 then bytesOfNat 2 (Fp.addBits Fp.bf (old 2) (natOfBytes b))
    else bytesOfNat 4 (bankNew red (old 4) (natOfBytes b)))
/-- An element of a copy arrives at its place, each as one write (R72, log 98). -/
def State.copyPut (s : State) (o : EngineOp) (red : Nat) (p : Place) (b : List Byte) : State :=
  match p with
  | .mem l => s.engineWrite o.die l b
  | .spm k off => s.bankPut k off red b
/-- Physical cores of a multicast, the issuer's own left out (R349). -/
def mcastCores (core mask : Nat) : List Nat :=
  ((List.range 8).filter (fun i => bitOf mask i && i != core % 8)).map (core / 8 * 8 + ·)
/-- Tasks of an operation's launch on a core. -/
def State.launchOn (s : State) (o : EngineOp) (core : Nat) : List Task :=
  (s.tasks.map Prod.snd).filter (fun k => k.launch == (s.task o.task).launch && k.phys == core && k.status != .ended)
/-- A chunk's elements at SPM offsets reach the receivers of a multicast, and each counts them; where a core has no receiver,
or its allocation does not cover the range, the issuer's object gets ERROR (R349). -/
def State.mcastPut (s : State) (o : EngineOp) (d : TRec) (mask red : Nat) (ws : List (Nat × List Byte)) : State :=
  (mcastCores o.core mask).foldl (fun s c =>
    let ks := s.launchOn o c
    let bad := ks.isEmpty || ks.any (fun k => decide (k.spmSize < d.base + d.size))
    let s := ks.foldl (fun s k =>
      if k.spmSize < d.base + d.size then s
      else
        let s := ws.foldl (fun s w => s.bankPut k.age w.1 red w.2) s
        match o.bar with
        | some b => if (s.spmCheck k.age b 32).isSome then s
            else
              let n := (ws.map (fun w => w.2.length)).sum
              if k.away then s.holdCount k.age b n false else s.countOff k.age b n false
        | none => s) s
    match o.bar with
    | some b => if bad then s.countOff o.task b 0 true else s
    | none => s) s

/-- The indices of chunk `c`: by source index, or for a copy bound to a channel by destination slot (R172, R348). -/
def chunkIndices (d : Layout) (chv : Bool) (c : Nat) : List Nat :=
  let e := d.rcd.perChunk
  let l := ((List.range e).map (c * e + ·)).filter (fun x => decide (x < 2 ^ d.rcd.n))
  if chv then
    let inv := (invert d.cur d.rcd.n).getD []
    l.map (matVec inv d.rcd.n)
  else l
/-- A copy ends with an error; what lies at and above the write pointer of its channel is unspecified (R85, R287). -/
def State.failCopy (s : State) (id : Nat) (o : EngineOp) (i : TrapInfo) : State :=
  let s := s.failOp id o (some i)
  match o.kind with
  | .tcopy _ kd _ mcast _ true chan _ _ _ =>
    let d := s.layout kd
    let wp := ((s.task o.task).wps.find? chan).getD d.rcd.base
    let b := s.freeBytes (d.rcd.base + d.rcd.size - wp)
    (match if mcast then some o.task else (b.2.unitTask d 0).map Task.age with
      | some k => b.2.spmArrive k wp b.1
      | none => b.2)
  | _ => s
/-- One action of a copy: the whole spill, or one chunk (R173, R175, R348-R350). -/
def State.copyChunk (s : State) (id : Nat) (o : EngineOp) (ka kd : Nat) (mcast follow chv : Bool)
    (chan red mask foloff : Nat) : State :=
  let a := s.layout ka
  let d := s.layout kd
  let spill := o.prog2 == 1
  let base := if spill then d.rcd.stage else d.rcd.base
  let xs := if spill then List.range (2 ^ d.rcd.n) else chunkIndices d chv o.prog
  match eachOf (fun s x => (s.copyValue o a d mcast (o.prog2 == 2) x).andThen fun v s =>
      match v with
      | none => .ok none s
      | some b => (s.copyDest o d mcast base x).andThen fun q s => .ok (some (q, b)) s) xs s with
  | .stop w s => s.opStop id o (fun s i => s.failCopy id o i) w
  | .ok ws s =>
    if spill then
      ((ws.foldl (fun s w => s.placePut o w.1 w.2) s).setOp id (fun o => { o with prog2 := 2 })).setProgress kd id o.prog 0
    else
      let s := ws.foldl (fun s w => s.copyPut o red w.1 w.2) s
      let s := if mcast then
          s.mcastPut o d.rcd mask red (ws.filterMap (fun w =>
            match w.1 with
            | .spm _ off => some (off, w.2)
            | .mem _ => none))
        else s
      let s := (s.opBytes id (d.rcd.esize * ws.length)).setOp id (fun o => { o with prog := o.prog + 1 })
      let s := s.setProgress kd id (o.prog + 1) 0
      let fin := d.rcd.base + d.rcd.size
      let s := if chv then s.setWp o.task chan (min (d.rcd.base + (o.prog + 1) * 4096) fin) else s
      if o.prog + 1 < o.stop then s
      else
        let s := s.completeOp id
        if follow then s.followOn o foloff else s

/-! ## TMERGE (R353) -/

/-- The TMERGE record. -/
def tmergeCommand : Command where
  legal q := cmdShape q 4 [(8, 8), (63, 32)] [[(5, 0), (13, 8), (21, 16)], [(63, 0)], [(63, 0)]]
  handles q := [cmdHandle q 0, cmdHandle q 8, cmdHandle q 16]
/-- TMERGE: starts a stable merge of two runs of records (R353). -/
def execTmerge (f : FmtT) (s : State) : Answer :=
  .next (engineWord f tmergeCommand noNote (fun s t q ks =>
    let ka := ks.getD 0 0
    let kb := ks.getD 1 0
    let kd := ks.getD 2 0
    let a := s.layout ka
    let b := s.layout kb
    let d := s.layout kd
    let na := fld (cmdDw q 2) 31 0
    let nb := fld (cmdDw q 2) 63 32
    let ca := fld (cmdDw q 3) 31 0
    let cb := fld (cmdDw q 3) 63 32
    let e0 := fun (l : Layout) => l.rcd.ext.getD 0 0
    let fits := [a, b, d].all (fun l => l.rcd.rank == 1 && l.rcd.etype == a.rcd.etype && l.rcd.peerb == 0 && !l.broken) &&
      decide (16 ≤ a.rcd.etype) && decide (na ≤ e0 a) && decide (nb ≤ e0 b) && decide (na + nb ≤ e0 d) &&
      decide (ca ≤ na) && decide (cb ≤ nb)
    if a.inflight || b.inflight || d.inflight then .ok stBusy s
    else if !fits then .ok stShape s
    else if kd == ka || kd == kb || shares a d || shares b d then .ok stOverlap s
    else
      let s := s.setProgress kd s.nextEngine ca cb
      let n := na + nb - ca - cb
      .ok stOk (if n = 0 then s
        else s.fork t (s.thread t).pc (.tmerge ka kb kd (bitOf (cmdDw q 0) 8) na nb) (some (cmdBar q))
          (n * d.rcd.esize) ca 0 cb)) s)
/-- The key of a record: bytes 0 to 7, as n64 or s64. -/
def mergeKey (signed : Bool) (b : List Byte) : Int :=
  let v := natOfBytes (b.take 8)
  if signed then (BitVec.ofNat 64 v).toInt else v
/-- One record of a merge; `prog` is CA and `prog2` CB. -/
def State.mergeStep (s : State) (id : Nat) (o : EngineOp) (ka kb kd : Nat) (signed : Bool) (na nb : Nat) : State :=
  let a := s.layout ka
  let b := s.layout kb
  let d := s.layout kd
  let ca := o.prog
  let cb := o.prog2
  let peek := fun (s : State) (l : Layout) (c n : Nat) =>
    if c < n then (s.elementLoad o l l.cur c).andThen fun v s => .ok (some v) s else .ok none s
  match (peek s a ca na).andThen fun x s => (peek s b cb nb).andThen fun y s =>
      (s.elementDest o d d.cur (ca + cb)).andThen fun p s => Res.ok (x, y, p) s with
  | .stop w s => s.opStop id o (fun s i => s.failOp id o (some i)) w
  | .ok (x, y, p) s =>
    let fromA : Bool := match x, y with
      | some _, none => true
      | some x, some y => decide (mergeKey signed x ≤ mergeKey signed y)
      | none, _ => false
    let s := s.placePut o p ((if fromA then x else y).getD [])
    let ca := if fromA then ca + 1 else ca
    let cb := if fromA then cb else cb + 1
    let s := ((s.opBytes id d.rcd.esize).setOp id (fun o => { o with prog := ca, prog2 := cb })).setProgress kd id ca cb
    if na ≤ ca ∧ nb ≤ cb then s.completeOp id else s

/-! ## TXF (R354, R356) -/

/-- XOP of a TXF record. -/
def txfOp (q : List Nat) : Nat := fld (cmdDw q 1) 2 0
/-- The TXF record: HD, then HS and HI as XOP uses them. -/
def txfCommand : Command where
  legal q := cmdShape q 5 [(63, 32)] [[(2, 0), (13, 8), (21, 16), (29, 24)], [(63, 0)], [(63, 0)], [(31, 0), (40, 32)]] &&
    decide (1 ≤ txfOp q) && decide (txfOp q ≤ 5) && (txfOp q != 1 || decide (cmdHandle q 16 = 0))
  handles q := match txfOp q with
    | 1 => [cmdHandle q 8]
    | 2 | 3 => [cmdHandle q 8, cmdHandle q 16, cmdHandle q 24]
    | _ => [cmdHandle q 8, cmdHandle q 16]
/-- The integer format of an element type code. -/
def intOf (ety : Nat) : Option Fp.IFmt :=
  match Fp.Ty.ofCode ety with
  | some (.int I) => some I
  | _ => none
/-- Type codes s32, n32, s64, n64. -/
def wordInt (ety : Nat) : Bool := decide (ety < 4)
/-- An index value, unless it is out of range for a tensor of `n` bits (R354). -/
def indexOf (ety n : Nat) (b : List Byte) : Option Nat :=
  match intOf ety with
  | some I =>
    let v := I.val (natOfBytes b)
    if v < 0 ∨ (2 ^ n : Nat) ≤ v then none else some v.toNat
  | none => none
/-- Writes that a scatter from index `i` on will make, as its index tensor stands at issue; an index that cannot be read yet counts
as a write, and what is not written is subtracted at the end (R354, log 26). -/
def State.scatterCount (s : State) (o : EngineOp) (d x : Layout) : Nat → Nat → Nat × State
  | _, 0 => (0, s)
  | i, n + 1 =>
    let e := match s.elementLoad o x x.cur i with
      | .stop _ s => (true, s)
      | .ok b s => (match indexOf x.rcd.etype d.rcd.n b with
        | some j => !(d.rcd.trim && d.rcd.phantom j)
        | none => false, s)
    let r := e.2.scatterCount o d x (i + 1) n
    (r.1 + b2n e.1, r.2)
/-- The requirements of the table of R354, with ranges that stay within the tensors (log 26). -/
def txfFits (xop : Nat) (d : Layout) (src idx : Option Layout) (start fin count : Nat) : Bool :=
  let one := fun (l : Layout) => l.rcd.rank == 1
  let within := fun (l : Layout) => decide (start < 2 ^ l.rcd.n) && decide (fin ≤ 2 ^ l.rcd.n)
  (d :: (src.toList ++ idx.toList)).all (fun l => !l.broken && l.rcd.peerb == 0 && l.rcd.etype != 14) &&
    (match xop, src, idx with
      | 1, _, _ => within d
      | 2, some x, some i => d.rcd.etype == x.rcd.etype && wordInt i.rcd.etype && one d && one i && within d && within i
      | 3, some x, some i => d.rcd.etype == x.rcd.etype && wordInt i.rcd.etype && one x && one i && within x && within i
      | 4, some x, _ => x.rcd.etype == 11 && one x && !x.table.isEmpty && (intOf d.rcd.etype).isSome && one d && count != 0 &&
          within d
      | 5, some x, _ => (intOf x.rcd.etype).isSome && wordInt d.rcd.etype && one x && one d && within d && within x
      | _, _, _ => false)
/-- TXF: starts the transform that XOP selects (R354). -/
def execTxf (f : FmtT) (s : State) : Answer :=
  .next (engineWord f txfCommand noNote (fun s t q ks =>
    let xop := txfOp q
    let kd := ks.getD 0 0
    let kx := ks.getD 1 0
    let ki := ks.getD 2 0
    let d := s.layout kd
    let x := (ks[1]?).map s.layout
    let i := (ks[2]?).map s.layout
    let start := fld (cmdDw q 3) 31 0
    let count := fld (cmdDw q 3) 63 32
    let ovr := if xop = 3 then (x.getD d).rcd.n else d.rcd.n
    let fin := if count = 0 then 2 ^ ovr else start + count
    let value : DWord := BitVec.ofNat 64 (cmdDw q 2)
    let pc := (s.thread t).pc
    let others := x.toList ++ i.toList
    if d.inflight || others.any Layout.inflight then .ok stBusy s
    else if !txfFits xop d x i start fin count then .ok stShape s
    else if others.any (fun l => shares l d) then .ok stOverlap s
    else
      let s := s.drain (s.coreOf t)
      let id := s.nextEngine
      let es := d.rcd.esize
      let plain := es * d.rcd.written start fin
      let bar := some (cmdBar q)
      match xop with
      | 1 => .ok stOk ((s.fork t pc (.fill kd value) bar plain start fin).setProgress kd id start 0)
      | 2 => .ok stOk ((s.fork t pc (.gather kd kx ki) bar plain start fin).setProgress kd id start 0)
      | 3 =>
        let c := s.scatterCount (s.peeker t) d (i.getD d) start (fin - start)
        .ok stOk ((c.2.fork t pc (.scatter kd kx ki) bar (es * c.1) start fin).setProgress kd id start 0)
      | 4 =>
        let p := fld (cmdDw q 4) 31 0
        let st := fld (cmdDw q 4) 40 32
        .ok stOk ((s.fork t pc (.decode kd kx start) bar (count * es) p fin st start).setProgress kd id p st)
      | _ => .ok stOk ((s.fork t pc (.undelta kd kx value) bar plain start fin value.toNat).setProgress kd id start 0)) s)

/-- An element is written, but for a phantom one under TRIM, and counts (R354). -/
def State.putElement (s : State) (id : Nat) (o : EngineOp) (d : Layout) (x : Nat) (v : List Byte) : Res Unit :=
  if d.rcd.trim && d.rcd.phantom x then .ok () s
  else (s.elementDest o d d.cur x).andThen fun p s => .ok () ((s.placePut o p v).opBytes id d.rcd.esize)
/-- One element of a transform is done, or stops the operation; the value is the new `prog2`. -/
def State.elementDone (id : Nat) (o : EngineOp) (kd : Nat) (r : Res Nat) : State :=
  match r with
  | .stop w s => s.opStop id o (fun s i => s.failOp id o (some i)) w
  | .ok v s =>
    let s := (s.setOp id (fun o => { o with prog := o.prog + 1, prog2 := v })).setProgress kd id (o.prog + 1) 0
    if o.prog + 1 < o.stop then s else s.completeOp id
/-- FILL's element (R354). -/
def State.fillStep (s : State) (id : Nat) (o : EngineOp) (kd : Nat) (value : DWord) : State :=
  let d := s.layout kd
  State.elementDone id o kd
    ((s.putElement id o d o.prog (bytesOfNat d.rcd.esize value.toNat)).andThen fun _ s => .ok 0 s)
/-- GATHER's element (R354). -/
def State.gatherStep (s : State) (id : Nat) (o : EngineOp) (kd kx ki : Nat) : State :=
  let d := s.layout kd
  let x := s.layout kx
  let i := s.layout ki
  State.elementDone id o kd ((s.elementLoad o i i.cur o.prog).andThen fun b s =>
    (match indexOf i.rcd.etype x.rcd.n b with
      | none => Res.ok (bytesOfNat x.rcd.esize (if x.rcd.fill then x.rcd.fillval.toNat else 0)) s
      | some j => s.elementLoad o x x.cur j).andThen fun v s =>
    (s.putElement id o d o.prog v).andThen fun _ s => .ok 0 s)
/-- SCATTER's element (R354). -/
def State.scatterStep (s : State) (id : Nat) (o : EngineOp) (kd kx ki : Nat) : State :=
  let d := s.layout kd
  let x := s.layout kx
  let i := s.layout ki
  State.elementDone id o kd ((s.elementLoad o i i.cur o.prog).andThen fun b s =>
    match indexOf i.rcd.etype d.rcd.n b with
    | none => .ok 0 s
    | some j =>
      (s.elementLoad o x x.cur o.prog).andThen fun v s => (s.putElement id o d j v).andThen fun _ s => .ok 0 s)
/-- UNDELTA's element; `prog2` is the element before it (R354). -/
def State.undeltaStep (s : State) (id : Nat) (o : EngineOp) (kd kx : Nat) : State :=
  let d := s.layout kd
  let x := s.layout kx
  let w := 8 * d.rcd.esize
  State.elementDone id o kd ((s.elementLoad o x x.cur o.prog).andThen fun b s =>
    let delta := match intOf x.rcd.etype with
      | some I => I.val (natOfBytes b)
      | none => 0
    let v := (((o.prog2 : Int) + delta) % (2 ^ w : Nat)).toNat
    (s.putElement id o d o.prog (bytesOfNat d.rcd.esize v)).andThen fun _ s => .ok v s)

/-! ## The decode microengine (R355, R356) -/

/-- `k` bits of the source's stream at bit `p`, lowest first; bits beyond the stream are zero. -/
def State.peekBits (s : State) (o : EngineOp) (x : Layout) (p : Nat) : Nat → Res Nat
  | 0 => .ok 0 s
  | k + 1 =>
    (if x.rcd.ext.getD 0 0 ≤ (p + k) / 8 then Res.ok false s
      else (s.elementLoad o x x.cur ((p + k) / 8)).andThen fun b s => .ok (bitOf (natOfBytes b) ((p + k) % 8)) s).andThen
      fun b s => (s.peekBits o x p k).andThen fun v s => .ok (v + 2 ^ k * b2n b) s
/-- The entry that matches at a position, looking from entry `e` on; none where no entry of the state does. -/
def State.matchEntry (s : State) (o : EngineOp) (x : Layout) (p : Nat) : List DWord → Res (Option Nat)
  | [] => .ok none s
  | d :: r =>
    let e := d.toNat
    (s.peekBits o x p (fld e 3 0)).andThen fun v s =>
      if v = fld e 15 4 then .ok (some e) s
      else if bitOf e 23 then s.matchEntry o x p r
      else .ok none s
/-- A value converted to an integer destination (R192). -/
def intBytes (ety size : Nat) (v : Int) : List Byte :=
  match intOf ety with
  | some I => bytesOfNat size (I.sat v false).bits
  | none => bytesOfNat size 0
/-- One action of DECODE: `prog` is the input bit, `prog2` the state, `prog3` the next output. -/
def State.decodeStep (s : State) (id : Nat) (o : EngineOp) (kd kx start : Nat) : State :=
  let d := s.layout kd
  let x := s.layout kx
  let len := 8 * x.rcd.ext.getD 0 0
  let p := o.prog
  if o.stop ≤ o.prog3 ∨ p = len then s.completeOp id
  else
    let fail : State → State := fun s => s.failOp id o none
    -- what follows an action: the bit position, the outputs written, whether decoding ends, the next state
    let go : State → Nat → Nat → Bool → Nat → State := fun s p n fin st =>
      let s := (s.setOp id (fun o => { o with prog := p, prog2 := st, prog3 := o.prog3 + n })).setProgress kd id p
        (st + 512 * (o.prog3 + n - start))
      if fin || decide (o.stop ≤ o.prog3 + n) then s.completeOp id else s
    let emit : State → Int → Res Unit := fun s v =>
      if d.rcd.trim && d.rcd.phantom o.prog3 then .ok () (s.opBytes id d.rcd.esize)
      else s.putElement id o d o.prog3 (intBytes d.rcd.etype d.rcd.esize v)
    let r : Res State := (s.matchEntry o x p (x.table.drop o.prog2)).andThen fun m s =>
      match m with
      | none => .ok (fail s) s
      | some e =>
        let q := p + fld e 19 16
        let next := fld e 32 24
        let act := fld e 22 20
        let f := fld e 44 40 + 1
        if len < q then .ok (fail s) s
        else if act = 0 then (emit s (fld e 63 40)).andThen fun _ s => .ok (go s q 1 false next) s
        else if act = 2 then .ok (go s q 0 false next) s
        else if act = 3 then .ok (go s q 0 true o.prog2) s
        else if len < q + f then .ok (fail s) s
        else
          (s.peekBits o x q f).andThen fun v s =>
            let v : Int := if act = 4 ∧ bitOf v (f - 1) then (v : Int) - (2 ^ f : Nat) else v
            (emit s v).andThen fun _ s => .ok (go s (q + f) 1 false next) s
    match r with
    | .stop w s => s.opStop id o (fun s i => s.failOp id o (some i)) w
    | .ok s _ => s

/-- The TLDTAB record (R355). -/
def tldtabCommand : Command where
  legal q := cmdShape q 7 [] [[(5, 0)], [(55, 0), (63, 63)], [(9, 0)]] && decide (1 ≤ fld (cmdDw q 3) 9 0) &&
    decide (fld (cmdDw q 3) 9 0 ≤ 512)
  handles q := [cmdHandle q 0]
  barrier := false
/-- An entry keeps the layout of R355 in a table of `n`. -/
def entryOk (n : Nat) (e : Nat) : Bool :=
  let peek := fld e 3 0
  decide (peek ≤ 12) && decide (fld e 15 4 < 2 ^ peek) && decide (fld e 19 16 ≤ 12) && decide (fld e 22 20 ≤ 4) &&
    decide (fld e 32 24 < n) && decide (fld e 39 33 = 0)
/-- The bytes that a record's address names: memory with plain loads of `piece` bytes, or SPM (R351, R355). -/
def State.tableBytes (s : State) (t : ThreadRef) (w align piece n : Nat) : Res (List Byte) :=
  if bitOf w 63 then
    let off := fld w 31 0
    if off % align ≠ 0 then .trapAt trapAlign 0 (BitVec.ofNat 64 off) s
    else if (s.task t.task).spmSize < off + piece * n then .trapAt trapProt 7 (BitVec.ofNat 64 off) s
    else .ok (s.spmBytes t.task off (piece * n)) s
  else
    let va := BitVec.ofNat 64 (fld w 55 0)
    if spaceOf va.toNat = .bad then .trapAt trapProt 1 va s
    else if va.toNat % align ≠ 0 then .trapAt trapAlign 0 va s
    else s.memReadRun t va piece n
/-- TLDTAB: loads a decode table into a layout state, synchronously (R355). -/
def execTldtab (f : FmtT) (s : State) : Answer :=
  .next (engineWord f tldtabCommand noNote (fun s t q ks =>
    let k := ks.getD 0 0
    let n := fld (cmdDw q 3) 9 0
    if 0 < s.opsOn k ∨ (s.layout k).inflight then .ok stBusy s
    else if (s.layout k).broken then .ok stShape s
    else
      (s.tableBytes t (cmdDw q 2) 8 8 n).andThen fun b s =>
        let es := (List.range n).map (dwOf b)
        if es.all (entryOk n) && !bitOf (es.getD (n - 1) 0) 23 then
          .ok stOk (s.modLayout k (fun l => { l with table := es.map (BitVec.ofNat 64) }))
        else .ok stRecord s) s)

/-! ## Ahead of use (R30) -/

/-- What the TWE translates ahead for an operation of the TCE, the merge and the transforms: the records' elements in the order of
its next actions. -/
def State.engineAhead (s : State) (o : EngineOp) : State :=
  let one := fun (p stop n : Nat) => if p + n < stop then [p + n] else []
  let go := fun (s : State) (k : Nat) (xs : Nat → List Nat) => s.walkAhead o (s.layout k) xs
  let next := one o.prog o.stop
  match o.kind with
  | .tcopy a d _ _ _ chv _ _ _ _ =>
    let xs := fun (n : Nat) => if o.prog + n < o.stop then chunkIndices (s.layout d) chv (o.prog + n) else []
    go (go s a xs) d xs
  | .tmerge a b d _ na nb => go (go (go s a (one o.prog na)) b (one o.prog2 nb)) d (one (o.prog + o.prog2) (na + nb))
  | .fill d _ => go s d next
  | .gather d _ i => go (go s i next) d next
  | .scatter _ x i => go (go s i next) x next
  | .decode d x _ => go (go s x (one (o.prog / 8) ((s.layout x).rcd.ext.getD 0 0))) d (one o.prog3 o.stop)
  | .undelta d x _ => go (go s x next) d next
  | _ => s

end Sys2Proof.Machine
end

