-- ==== Sys2Proof/Machine/FabricOps.lean ====
section
/-! DEFINITION. What the fabric words and events share: windows, routes, class-0 budgets, pieces, receive counters, armed
entries, the checks at a target, and the completion of remote operations (R35-R42, R397-R412, R442). -/
namespace Sys2Proof.Machine

/-! ## Peers, routes, budgets (R397-R400) -/

/-- This device's peer id. -/
def State.self (s : State) : Nat := fld (s.greg .peerid).toNat 9 0
/-- The port by which a request to a peer leaves (R398). -/
def routePort (me peer : Nat) : Nat :=
  if me / 32 = peer / 32 then peer % 32 else if me % 32 = peer / 32 then me % 32 else peer / 32
/-- A port is linked and up: the global port of member G of group G is unused (R397). -/
def State.portUp (s : State) (j : Nat) : Bool :=
  decide (j < 32) && !s.linksDown.contains j && !s.fencedPorts.contains j &&
    !(decide (j = s.self % 32) && decide (s.self / 32 = s.self % 32))
/-- The peer that a port links to (R397). -/
def State.portPeer (s : State) (j : Nat) : Nat :=
  if j = s.self % 32 then 32 * (s.self % 32) + s.self / 32 else 32 * (s.self / 32) + j
/-- A request to a peer can leave this device. -/
def State.reachable (s : State) (peer : Nat) : Bool := peer == s.self || s.portUp (routePort s.self peer)
/-- Class-0 flits in VC 0 are charged to a function's bucket (R400). -/
def State.charge (s : State) (func vc bytes : Nat) : State :=
  if vc ≠ 0 then s
  else { s with buckets := Tbl.set 0 s.buckets func (Tbl.get 0 s.buckets func - max 1 ((bytes + 63) / 64)) }

/-! ## Windows (R35-R37, R41) -/

/-- What the window tables give for an access: the target address and what the request presents. -/
structure Window where
  target : Nat
  key : Word
  jobkey : Word
  cls : Nat
  deriving DecidableEq, Repr
/-- Fields of a peer-window address (R35). -/
def peerOf (p : DWord) : Nat := fld p.toNat 53 44
/-- WIN. -/
def winOf (p : DWord) : Nat := fld p.toNat 43 34
/-- OFF. -/
def offOf (p : DWord) : Nat := fld p.toNat 33 0
/-- A peer entry is valid and its table lies in device memory (R36, R40). -/
def peerGood (e : List DWord) : Bool :=
  bitOf (dwAt e 0) 0 && decide (fld (dwAt e 0) 15 3 = 0) && decide (fld (dwAt e 0) 31 26 = 0) && decide (fld (dwAt e 1) 7 0 = 0) &&
    decide (fld (dwAt e 1) 63 52 = 0)
/-- A window entry is valid (R37). -/
def windowGood (e : List DWord) : Bool :=
  bitOf (dwAt e 2) 0 && decide (fld (dwAt e 0) 63 48 = 0) && decide (fld (dwAt e 1) 63 34 = 0) && decide (fld (dwAt e 2) 63 4 = 0) &&
    decide (fld (dwAt e 3) 63 32 = 0)
/-- The reason, of the model's own, for a table line that carries POISON: a CORRUPT trap (R80). -/
def reasonPoison : Nat := 256
/-- Doublewords of a table entry, through the peer cache of 256 entries, which holds none that is not valid (R27, R28, R41), or
the reason where they cannot be read. -/
def State.peerEntry (s : State) (name : Nat × Nat × Nat) (good : List DWord → Bool) (top pa n reason : Nat) :
    Except Nat (List DWord) × State :=
  match assoc s.peerCache name with
  | some d => (.ok d, s)
  | none =>
    if devTop < top then (.error reason, s)
    else if s.poisoned pa then (.error reasonPoison, s)
    else
      let r := s.readDwordsAt (homeDie (pa / 256)) pa n
      (.ok r.1, if good r.1 then { r.2 with peerCache := keepLast 256 (r.2.peerCache ++ [(name, r.1)]) } else r.2)
/-- The valid peer-table entry of a peer, where there is one. -/
def State.peerOf? (s : State) (asid peer : Nat) : Option (List DWord) × State :=
  let c := s.ctx asid
  let base := fld (dwAt c.1 2) 51 14 * 16384
  if !ctxValid c.1 || !bitOf (dwAt c.1 2) 0 then (none, c.2)
  else
    let e := c.2.peerEntry (asid, peer, 1024) peerGood (base + 16384) (base + 16 * peer) 2 1
    match e.1 with
    | .ok d => (if peerGood d then some d else none, e.2)
    | .error _ => (none, e.2)
/-- RCLASS of a peer's entry; class 0 where there is none (R36, R399). -/
def State.peerClass (s : State) (asid peer : Nat) : Nat × State :=
  let e := s.peerOf? asid peer
  (match e.1 with
    | some d => fld (dwAt d 0) 2 1
    | none => 0, e.2)
/-- Step 1 of R39 for `n` bytes with permission bit `perm` of the window entry: what the tables give, or a reason of R40. -/
def State.window (s : State) (asid : Nat) (p : DWord) (n perm : Nat) : Except Nat Window × State :=
  let c := s.ctx asid
  let s := c.2
  let base := fld (dwAt c.1 2) 51 14 * 16384
  if !ctxValid c.1 || !bitOf (dwAt c.1 2) 0 then (.error 1, s)
  else
    let e := s.peerEntry (asid, peerOf p, 1024) peerGood (base + 16384) (base + 16 * peerOf p) 2 1
    match e.1 with
    | .error r => (.error r, e.2)
    | .ok pe =>
      if !peerGood pe then (.error 1, e.2)
      else
        let cnt := fld (dwAt pe 0) 25 16
        let wt := fld (dwAt pe 1) 51 8 * 256
        if cnt < winOf p then (.error 2, e.2)
        else
          let w := e.2.peerEntry (asid, peerOf p, winOf p) windowGood (wt + 32 * (cnt + 1)) (wt + 32 * winOf p) 4 2
          match w.1 with
          | .error r => (.error r, w.2)
          | .ok we =>
            if !windowGood we then (.error 2, w.2)
            else if fld (dwAt we 1) 33 0 < offOf p + n - 1 then (.error 3, w.2)
            else if !bitOf (dwAt we 2) perm then (.error 4, w.2)
            else (.ok { target := fld (dwAt we 0) 47 0 + offOf p, key := loWord (we.getD 3 0), jobkey := hiWord (pe.getD 0 0),
                        cls := fld (dwAt pe 0) 2 1 }, w.2)

/-! ## Pieces (R403) -/

/-- Pieces of an access, split at the 4 KiB boundaries of the target address. -/
def pieceCount (target n : Nat) : Nat := (target % 4096 + n + 4095) / 4096
/-- Offset and length of piece `i`. -/
def pieceOf (target n i : Nat) : Nat × Nat :=
  let lo := i * 4096 - target % 4096
  let hi := min n ((i + 1) * 4096 - target % 4096)
  (lo, hi - lo)
/-- A packet with the fields that every request sets. -/
def blankPacket : Packet :=
  { kind := .get, src := 0, dst := 0, cls := 0, vc := 0, op := 0, piece := 0, pieces := 1, target := 0, len := 0, key := 0, jobkey := 0,
    payload := [], operand := 0, swap := 0, dcnt := 0, cntv := false, incmode := false, last := true, collid := 0, cstep := 0,
    slot := none, marked := false, mirror := false }
/-- The virtual channel of a request: that of its class, but VC 1 for a class-0 request whose bucket is empty (R399, R400). -/
def State.vcFor (s : State) (func cls : Nat) : Nat := if cls = 0 ∧ Tbl.get 0 s.buckets func = 0 then 1 else cls
/-- A packet leaves for its target (R398-R400). -/
def State.send (s : State) (func : Nat) (p : Packet) : State :=
  let vc := s.vcFor func p.cls
  { s.charge func vc (max p.payload.length (if p.kind == .get then 0 else p.len)) with
    fabricOut := s.fabricOut ++ [{ p with src := s.self, vc := vc }] }

/-! ## Local bytes of an operation (R30, R43, R403) -/

/-- Byte ranges of [va, va + n) that lie in one 4 KiB page each. -/
def pagesOf (va n : Nat) : List (Nat × Nat) :=
  (List.range ((va % 4096 + n + 4095) / 4096)).map (fun i =>
    let lo := max va ((va / 4096 + i) * 4096)
    (lo, min (va + n) ((va / 4096 + i + 1) * 4096) - lo))
/-- SPMRANGE for bytes without an alignment of their own. -/
def State.spmCovers (s : State) (task a n : Nat) : Bool := decide (a + n ≤ (s.task task).spmSize)
/-- Bytes at a local address of an operation, with the checks of R24 or R43. -/
def State.localLoad (s : State) (o : EngineOp) (spm : Bool) (a n : Nat) : Res (List Byte) :=
  if spm then
    if s.spmCovers o.task a n then .ok (s.spmBytes o.task a n) s else .trapAt trapProt 7 (BitVec.ofNat 64 a) s
  else
    (eachOf (fun s p => (s.locateVia o.via o.asid (BitVec.ofNat 64 p.1) 1 .read).andThen fun l s =>
      let lines := (List.range ((l.pa % 256 + p.2 + 255) / 256)).map (fun i => l.pa + 256 * i)
      if !l.host && lines.any s.poisoned then .trapAt trapCorrupt 0 (BitVec.ofNat 64 p.1) s
      else
        let r := if l.host then (Memory.bytes s.hostMem l.pa p.2, s) else s.readBytesAt o.die l.pa p.2
        .ok (some r.1) r.2) (pagesOf a n) s).andThen fun bs s => .ok bs.flatten s
/-- Where bytes at a local address will be written. -/
def State.localDest (s : State) (o : EngineOp) (spm : Bool) (a n : Nat) : Res (List (Place × Nat)) :=
  if spm then
    if s.spmCovers o.task a n then .ok [(.spm o.task a, n)] s else .trapAt trapProt 7 (BitVec.ofNat 64 a) s
  else
    eachOf (fun s p => (s.locateVia o.via o.asid (BitVec.ofNat 64 p.1) 1 .write).andThen fun l s =>
      .ok (some (Place.mem l, p.2)) s) (pagesOf a n) s
/-- An operation writes bytes at places that have been found. -/
def State.localPut (s : State) (o : EngineOp) (ds : List (Place × Nat)) (b : List Byte) : State :=
  (ds.foldl (fun (a : State × List Byte) d =>
    (match d.1 with
      | .mem l => a.1.engineWrite o.die l (a.2.take d.2)
      | .spm k off => a.1.spmLand k off (a.2.take d.2), a.2.drop d.2)) (s, b)).1

/-! ## The end of a remote operation (R140, R403, R412) -/

/-- A task that has not ended. -/
def State.taskLives (s : State) (a : Nat) : Bool := ((s.tasks.find? a).map (fun k => k.status != .ended)).getD false
/-- A thread's remote operation has completed; an RFENCE, or a release RATOM, goes on once it was the last (R139, R140). -/
def State.remoteDone (s : State) (t : ThreadRef) (id : Nat) : State :=
  let s := s.modThread t (fun th => { th with remote := th.remote.filter (· ≠ id) })
  let th := s.thread t
  if th.remote.isEmpty then
    match th.status with
    | .parked .rfence => s.wake t
    | .parked (.retry .remote) => s.wake t
    | _ => s
  else s
/-- The local address, level, and peer-window address and length of a remote operation. -/
def EngKind.remote : EngKind → Option (Nat × Bool × DWord × Nat)
  | .rget a spm p n => some (a, spm, p, n)
  | .rput a spm p n _ _ _ => some (a, spm, p, n)
  | .tsend a p n _ _ _ => some (a, false, p, n)
  | .coll _ _ _ a p n => some (a, false, p, n)
  | _ => none
/-- The operation is a triggered send whose arming task has ended (R412). -/
def State.orphan (s : State) (o : EngineOp) : Bool :=
  match o.kind with
  | .tsend _ _ _ _ _ _ => !s.taskLives o.task
  | _ => false
/-- A launch completes once the resources of its tasks are freed, no operation of it runs (R143), and its collective is over:
DONEDEC is subtracted from DONESIG as one release, after bit 63 where a task was killed or the collective failed (R215, R418). -/
def State.finishLaunch (s : State) (lseq : Nat) : State :=
  match s.launch? lseq with
  | none => s
  | some l =>
    let ovr := match l.coll with
      | some c => c.failed || c.finished
      | none => true
    let bad := match l.coll with
      | some c => c.failed
      | none => false
    if l.done < l.rcd.total || !ovr || s.engines.any (fun e => e.2.launch == some lseq) then s
    else
      let s := s.signalDec l.func l.asid l.lseq l.rcd.doneSig (l.killed || bad) l.rcd.doneDec
      let ls := s.launches.erase lseq
      { s with
        launches := ls
        ctxs := if ls.any (fun e => e.2.asid == l.asid) then s.ctxs else s.ctxs.erase l.asid }
/-- An operation that its launch waited for is over. -/
def State.finishFor (s : State) (o : EngineOp) : State :=
  match o.launch with
  | some l => s.finishLaunch l
  | none => s
/-- What stands for a launch's collective where an operation is asked for. -/
def Launch.collOp (l : Launch) (k : EngKind) : EngineOp :=
  { kind := k, task := 2 ^ 64, tid := 0, pc := 0, lseq := l.lseq, num := 0, asid := l.asid, func := l.func,
    core := l.cores.headD 0, bar := none, remain := 0, prog := 0, stop := 0 }
/-- Bytes of memory of an address space that hold unspecified values from now on; those that cannot be reached are left. -/
def State.scrambleRange (s : State) (o : EngineOp) (va n : Nat) : State :=
  match s.localDest o false va n with
  | .stop _ s => s
  | .ok ds s =>
    let b := s.freeBytes n
    b.2.localPut o ds b.1
/-- A collective fails: its reservations are released and its result is unspecified (R418). -/
def State.collFail (s : State) (lseq : Nat) : State :=
  match s.launch? lseq with
  | none => s
  | some l =>
    match l.coll with
    | none => s
    | some c =>
      if c.failed || c.finished then s
      else
        let s := match c.result with
          | some r => s.scrambleRange (l.collOp (.fill 0 0)) r.base r.size
          | none => s
        (s.modLaunch lseq (fun l => { l with coll := some { c with failed := true, reserved := false } })).finishLaunch lseq
/-- A remote operation fails with a record; a send of a task that has ended gives a record with EXITED, and its count is
discarded (R403, R412); an exchange step fails its collective (R418). -/
def State.failRemote (s : State) (id : Nat) (o : EngineOp) (i : TrapInfo) : State :=
  let o := (s.engines.find? id).getD o
  match o.kind with
  | .coll lseq _ _ _ _ _ => (s.endOp id).collFail lseq
  | _ =>
    if s.orphan o then ((s.pushFault o.func { o.record i with exited := true }).endOp id).finishFor o
    else (s.failOp id o (some i)).remoteDone ⟨o.task, o.tid⟩ id
/-- A remote operation has completed at its target. -/
def State.completeRemote (s : State) (id : Nat) (o : EngineOp) : State :=
  match o.kind with
  | .coll _ _ _ _ _ _ => s.endOp id
  | _ => if s.orphan o then (s.endOp id).finishFor o else (s.completeOp id).remoteDone ⟨o.task, o.tid⟩ id
/-- The trap of a poisoned response (R40). -/
def remoteTrap (reason : Nat) (p : DWord) : TrapInfo :=
  if reason = reasonPoison then { code := trapCorrupt, sub := 0, va := p }
  else { code := trapRemote, sub := reason, va := p, peer := peerOf p }

/-! ## Sending the pieces (R39, R403) -/

/-- Reads the window tables for an operation, or fails it with a reason of R40. -/
def State.remoteOpen (s : State) (id : Nat) (o : EngineOp) (p : DWord) (n perm : Nat) : State :=
  if spaceOf p.toNat ≠ .peer then
    s.failRemote id o { code := trapProt, sub := if spaceOf p.toNat = .bad then 1 else 6, va := p }
  else
  -- with no valid context, the local side finds no entry first (R18)
  let c := s.ctx o.asid
  let probe : Res Unit := match ctxValid c.1, o.kind.remote with
    | false, some (a, false, _, _) => (c.2.locateVia o.via o.asid (BitVec.ofNat 64 a) 1 (if perm = 1 then .write else .read)).andThen
        fun _ s => .ok () s
    | _, _ => .ok () c.2
  match probe with
  | .stop r s => s.opStop id o (fun s i => s.failRemote id o i) r
  | .ok _ s =>
  let w := s.window o.asid p n perm
  match w.1 with
  | .error r => w.2.failRemote id o (remoteTrap r p)
  | .ok x =>
    w.2.setOp id (fun o => { o with target := some x.target, key := x.key, jobkey := x.jobkey, cls := x.cls,
                                    queue := List.range (pieceCount x.target n), left := List.range (pieceCount x.target n) })
/-- Fields of a put's packet. -/
def putPacket (o : EngineOp) (id : Nat) (kind : PacketKind) (dst target n i : Nat) : Packet :=
  { blankPacket with
    kind := kind, dst := dst, cls := o.cls, op := id, piece := i, pieces := pieceCount target n,
    target := target + (pieceOf target n i).1, len := (pieceOf target n i).2, key := o.key, jobkey := o.jobkey,
    last := decide (i + 1 = pieceCount target n) }
/-- What the window tables give now for an operation whose entries an invalidation has discarded (R32, R41). A window that has moved by
other than whole 4 KiB pages, which would split what is left otherwise, fails it (log 115). -/
def State.remoteReopen (s : State) (id : Nat) (o : EngineOp) (p : DWord) (n perm target : Nat) : State :=
  let w := s.window o.asid p n perm
  match w.1 with
  | .error r => w.2.failRemote id o (remoteTrap r p)
  | .ok x =>
    if x.target % 4096 ≠ target % 4096 then w.2.failRemote id o (remoteTrap 2 p)
    else w.2.setOp id (fun o => { o with target := some x.target, key := x.key, jobkey := x.jobkey, cls := x.cls, stale := false })
/-- One action of a remote operation at this device: the tables are read, or its next piece is sent (R403). -/
def State.remoteStep (s : State) (id : Nat) (o : EngineOp) : State :=
  match o.kind.remote with
  | none => s
  | some (a, spm, p, n) =>
    let get := match o.kind with
      | .rget _ _ _ _ => true
      | _ => false
    match o.target, o.queue with
    | none, _ => s.remoteOpen id o p n (if get then 1 else 2)
    | some _, [] => s
    | some target, i :: rest =>
      let pc := pieceOf target n i
      if o.stale then s.remoteReopen id o p n (if get then 1 else 2) target
      else if !s.reachable (peerOf p) then s.failRemote id o (remoteTrap 10 (p + BitVec.ofNat 64 pc.1))
      else
        let kind : PacketKind := match o.kind with
          | .rget _ _ _ _ => .get
          | .rput _ _ _ _ _ _ _ => .put
          | .coll _ _ _ _ _ _ => .coll
          | _ => .send
        let base := putPacket o id kind (peerOf p) target n i
        let base := match o.kind with
          | .coll lseq _ step _ _ _ =>
            let l := (s.launch? lseq).getD {}
            { base with collid := l.rcd.collid, cstep := step,
                        slot := l.group.bind (fun g => if g.sepv then some g.slot else none) }
          | _ => base
        let stop := fun (s : State) (r : Stop) => s.opStop id o (fun s i => s.failRemote id o i) r
        if get then
          match s.localDest o spm (a + pc.1) pc.2 with
          | .stop r s => stop s r
          | .ok _ s => (s.send o.func base).setOp id (fun o => { o with queue := rest })
        else
          match s.localLoad o spm (a + pc.1) pc.2 with
          | .stop r s => stop s r
          | .ok b s =>
            let x := match o.kind with
              | .rput _ _ _ _ cntv inc dcnt => (cntv, inc, dcnt)
              | .tsend _ _ _ cntv inc dcnt => (cntv, inc, dcnt)
              -- an exchange step is counted on the counter that the partner has named (R417)
              | _ => (true, false, ((s.readies.find? (fun (e : Ready) => e.job == o.jobkey.toNat && e.id == base.collid && e.member == peerOf p)).map
                  Ready.counter).getD 0)
            (s.send o.func { base with payload := b, cntv := x.1, incmode := x.2.1, dcnt := x.2.2 }).setOp id
              (fun o => { o with queue := rest })

/-! ## Receive counters and armed entries (R406-R412) -/

/-- A receive counter is allocated to an address space (R406). -/
def State.counterOk (s : State) (c asid : Nat) : Bool :=
  decide (c < 4096) && bitOf (s.greg (.cntcfg c)).toNat 0 && decide (fld (s.greg (.cntcfg c)).toNat 12 1 = asid)
/-- The value of a counter. -/
def State.counter (s : State) (c : Nat) : DWord := Tbl.get 0 s.counters c
/-- A task's barrier object counts, while the task lives (R412). -/
def State.countArmed (s : State) (a : Armed) (n : Nat) (err : Bool) : State :=
  match a.bar with
  | some b => if s.taskLives a.task then s.countOff a.task b n err else s
  | none => s
/-- An entry fires: a send starts, or a CARM entry is subtracted (R411, R412). -/
def State.fire (s : State) (a : Armed) : State :=
  match a.kind with
  | .carm => s.countArmed a 1 false
  | .send inc cntv src dst len dcnt =>
    let o : EngineOp :=
      { kind := .tsend src dst len cntv inc dcnt, task := a.task, tid := a.tid, pc := a.pc, lseq := a.lseq, num := a.num,
        asid := a.asid, func := a.func, core := a.core, bar := a.bar, remain := len, prog := 0, stop := 0,
        launch := some a.launch }
    { s with engines := s.engines.put s.nextEngine o, nextEngine := s.nextEngine + 1 }
/-- The next due entry of a counter: least THRESH, then first armed (R412). -/
def nextDue (l : List Armed) (c : Nat) (v : DWord) : Option Armed :=
  (l.filter (fun a => a.counter == c && decide (a.thresh.toNat ≤ v.toNat))).foldl (fun b a =>
    match b with
    | none => some a
    | some x => if a.thresh.toNat < x.thresh.toNat then some a else b) none
/-- Fire every due entry of a counter (R412). -/
def State.fireDue : Nat → State → Nat → State
  | 0, s, _ => s
  | k + 1, s, c =>
    match nextDue s.armed c (s.counter c) with
    | none => s
    | some a => State.fireDue k ({ s with armed := s.armed.erase a }.fire a) c
/-- A counter increment, and what it fires (R137, R412). -/
def State.increment (s : State) (c n : Nat) : State :=
  let s := { s with counters := Tbl.set 0 s.counters c (s.counter c + BitVec.ofNat 64 n) }
  State.fireDue s.armed.length s c

/-! ## The target (R39 step 3, R40, R137, R403, R442) -/

/-- An export entry has no reserved bit set (R38). -/
def exportClean (e : List DWord) : Bool :=
  decide (fld (dwAt e 0) 7 4 = 0) && decide (fld (dwAt e 0) 31 28 = 0) && decide (fld (dwAt e 1) 63 44 = 0) &&
    decide (fld (dwAt e 2) 63 48 = 0) && decide (fld (dwAt e 3) 63 34 = 0)
/-- The export entry that a request's key names, where the table holds it (R38); read as data, POISON or not (log 94). -/
def State.exportEntry (s : State) (p : Packet) : Option (List DWord) × State :=
  let i := p.key.toNat % 4096
  let base := fld (s.greg .expbase).toNat 51 5 * 32
  if fld (s.greg .expcount).toNat 12 0 ≤ i ∨ devTop < base + 32 * (i + 1) then (none, s)
  else
    let r := s.readDwordsAt (homeDie ((base + 32 * i) / 256)) (base + 32 * i) 4
    (some r.1, r.2)
/-- The function whose address space a request's export entry names: its budget carries the response (R400). -/
def State.exportFunc (s : State) (p : Packet) : Option Nat :=
  match (s.exportEntry p).1 with
  | some e => if bitOf (dwAt e 0) 0 && exportClean e then some (s.funcOf (fld (dwAt e 1) 43 32)) else none
  | none => none
/-- A response leaves for the initiator in the VC of its request; the target of a class-0 request charges it to the budget of the
function that the request's export entry names, and a device on the route charges none (R400). A mirror copy's outcome goes to no
one (R399, R433). -/
def State.respond (s : State) (p : Packet) (reason : Nat) (data : List Byte) : State :=
  if p.mirror then s
  else
    let s := match if p.dst = s.self then s.exportFunc p else none with
      | some f => s.charge f p.vc data.length
      | none => s
    { s with responses := s.responses ++ [(p.src, { dst := p.src, op := p.op, piece := p.piece, vc := p.vc, reason := reason, data := data })] }
/-- R39 step 3 for a piece with permission bit `perm` of the export entry: the byte address and ASID, or a reason. -/
def State.exportCheck (s : State) (p : Packet) (n perm : Nat) : Except Nat (Nat × Nat) × State :=
  let r := s.exportEntry p
  let s := r.2
  match r.1 with
  | none => (.error 5, s)
  | some e =>
    let lo := fld (dwAt e 2) 47 0
    let asid := fld (dwAt e 1) 43 32
    if !bitOf (dwAt e 0) 0 || !exportClean e then (.error 5, s)
    else if loWord (e.getD 1 0) ≠ p.key ∨ hiWord (e.getD 0 0) ≠ p.jobkey ∨ p.src < fld (dwAt e 0) 17 8 ∨
        fld (dwAt e 0) 27 18 < p.src then (.error 6, s)
    else if p.target < lo ∨ lo + fld (dwAt e 3) 33 0 < p.target + n - 1 ∨ 2 ^ 48 < p.target + n ∨ !bitOf (dwAt e 0) perm then
      (.error 7, s)
    else
      let c := s.ctx asid
      if !ctxValid c.1 then (.error 8, c.2)
      else
        let w := c.2.walk 0 asid p.target
        match w.1 with
        | .bad _ => (.error 8, w.2)
        | .corrupt => (.error 9, w.2)
        | .leaf log2 frame e =>
          let may := match perm with
            | 1 => bitOf e 2
            | 2 => bitOf e 3
            | _ => bitOf e 3 && bitOf e 4
          if bitOf e 7 then (.error 7, w.2)
          else if bitOf e 9 then (.error 8, w.2)
          else if !may then (.error 7, w.2)
          else (.ok (frame * 4096 + p.target % 2 ^ log2, asid), w.2)
/-- What is known of the operation that a piece belongs to. -/
def State.arrival (s : State) (p : Packet) : Arrival :=
  (s.arrivals.find? (fun a => a.src == p.src && a.op == p.op)).getD
    { src := p.src, op := p.op, pieces := p.pieces, got := [], acks := [], failed := false, adds := [], away := [] }
/-- An operation's record is kept; once every piece has been handled, the increments are made in ascending counter number and the
written pieces are acknowledged, each in the VC in which it came (R399, R403, R442). -/
def State.putArrival (s : State) (a : Arrival) : State :=
  let others := s.arrivals.filter (fun x => !(x.src == a.src && x.op == a.op))
  if a.got.length < a.pieces then { s with arrivals := others ++ [a] }
  else
    let s := { s with arrivals := others }
    let s := if a.failed then s else a.adds.foldl (fun s e => s.increment e.1 e.2) s
    a.acks.foldl (fun s p => s.respond p 0 []) s
/-- The piece of an operation has been handled here: written or failed, acknowledged by this device or not, and what it contributes
to counters. -/
def State.pieceHandled (s : State) (p : Packet) (ok ack : Bool) (add : List (Nat × Nat)) : State :=
  if p.marked then if ack then s.respond p 0 [] else s
  else
    let a := s.arrival p
    let adds := add.foldl (fun t (x : Nat × Nat) => Tbl.put t x.1 ((Tbl.find? t x.1).getD 0 + x.2)) a.adds
    s.putArrival { a with got := a.got ++ [p.piece], failed := a.failed || !ok, adds := adds,
                          acks := if ack then a.acks ++ [{ p with payload := [] }] else a.acks }
/-- A kernel has forwarded the piece: its outcome is the peer's (R433). -/
def State.pieceAway (s : State) (p : Packet) : State :=
  let a := s.arrival p
  s.putArrival { a with away := a.away ++ [p.piece] }
/-- The outcome of a forwarded piece passes on its way to the initiator (R398, R403, R433). -/
def State.pieceBack (s : State) (r : Response) : State :=
  match s.arrivals.find? (fun a => a.src == r.dst && a.op == r.op && a.away.contains r.piece) with
  | none => s
  | some a => s.putArrival { a with away := a.away.erase r.piece, got := a.got ++ [r.piece], failed := a.failed || r.reason != 0 }
/-- A piece fails: nothing is written, and its reason goes back (R40, R403). -/
def State.pieceFails (s : State) (p : Packet) (reason : Nat) : State :=
  (s.pieceHandled p false false []).respond p reason []
/-- What a delivered piece contributes to the increment (R442). -/
def contribution (p : Packet) : List (Nat × Nat) :=
  if !p.cntv || p.marked then []
  else if p.incmode then (if p.last then [(p.dcnt, 1)] else [])
  else [(p.dcnt, p.len)]
/-- The counter that a piece's header names (R442). -/
def namedCounter (p : Packet) : Option Nat := if p.cntv && !p.marked then some p.dcnt else none
/-- A put or send piece is checked and written; one whose header names a counter that is not its address space's fails, whether
it would add to it or not (R39, R137, R403, R406). -/
def State.performPut (s : State) (p : Packet) (counts : Bool) : State :=
  let e := s.exportCheck p p.len 2
  match e.1 with
  | .error r => e.2.pieceFails p r
  | .ok (pa, asid) =>
    let adds := if counts then contribution p else []
    if counts && (namedCounter p).any (fun c => !e.2.counterOk c asid) then e.2.pieceFails p 7
    else
      let s := if p.len = 0 then e.2 else e.2.deviceWrite ⟨pa, false⟩ (p.payload.take p.len)
      s.pieceHandled p true true adds
/-- A get piece is checked and read. -/
def State.performGet (s : State) (p : Packet) : State :=
  let e := s.exportCheck p p.len 1
  match e.1 with
  | .error r => e.2.respond p r []
  | .ok (pa, _) =>
    let lines := (List.range ((pa % 256 + p.len + 255) / 256)).map (fun i => pa + 256 * i)
    if lines.any e.2.poisoned then e.2.respond p 9 []
    else
      let r := e.2.readBytesAt (homeDie (pa / 256)) pa p.len
      r.2.respond p 0 r.1
/-- A remote atomic is checked and performed, in one step (R139, R404). -/
def State.performAtom (s : State) (p : Packet) (op : AtOp) : State :=
  let e := s.exportCheck p 8 3
  match e.1 with
  | .error r => e.2.respond p r []
  | .ok (pa, _) =>
    if e.2.poisoned pa then e.2.respond p 9 []
    else
      let r := e.2.readDwordAt (homeDie (pa / 256)) pa
      let s := match atomNew op true r.1 p.operand p.swap with
        | some v => r.2.deviceWrite ⟨pa, false⟩ (bytesOfNat 8 v.toNat)
        | none => r.2
      s.respond p 0 (bytesOfNat 8 r.1.toNat)

end Sys2Proof.Machine
end

