-- ==== Sys2Proof/Machine/Collective.lean ====
section
/-! DEFINITION. Collectives: arming, reservation and the ready exchange, the exchange steps of a chunk, and completion
(R413-R419). -/
namespace Sys2Proof.Machine

/-! ## Arming and reserving (R416) -/

/-- A collective that this member has armed, with what its launch says of it. -/
structure ArmedColl where
  job : Nat
  id : Nat
  group : Group
  func : Nat
  asid : Nat
  coll : Coll
  deriving DecidableEq, Repr
/-- FUNC and ASID of a queue (R362). -/
def State.qFunc (s : State) (q : Nat) : Nat := fld (s.greg (.qcfg q)).toNat 8 2
/-- ASID of a queue. -/
def State.qAsid (s : State) (q : Nat) : Nat := fld (s.greg (.qcfg q)).toNat 23 12
/-- The collective of a record, once it is armed. -/
def armedOf (func asid : Nat) (r : LaunchRec) (g : Option Group) (c : Option Coll) : Option ArmedColl :=
  match g, c with
  | some g, some c => some { job := g.jobkey.toNat, id := r.collid, group := g, func := func, asid := asid, coll := c }
  | _, _ => none
/-- Every collective armed here: of pending launches and of dispatched ones. -/
def State.armedColls (s : State) : List ArmedColl :=
  s.pending.filterMap (fun p => armedOf (s.qFunc p.q) (s.qAsid p.q) p.rcd p.group p.coll) ++
    s.launches.filterMap (fun e => armedOf e.2.func e.2.asid e.2.rcd e.2.group e.2.coll)
/-- The collective has this job and COLLID. -/
def isColl (job id : Nat) (r : LaunchRec) (g : Option Group) : Bool :=
  r.collid == id && (g.map (fun g => g.jobkey.toNat)) == some job
/-- Change a collective. -/
def State.modColl (s : State) (job id : Nat) (f : Coll → Coll) : State :=
  { s with
    pending := s.pending.map (fun p => if isColl job id p.rcd p.group then { p with coll := p.coll.map f } else p)
    launches := s.launches.map (fun e =>
      if isColl job id e.2.rcd e.2.group then (e.1, { e.2 with coll := e.2.coll.map f }) else e) }
/-- Members other than this one, in the order of the XOR schedule (R89). -/
def Group.others (g : Group) : List Nat :=
  (List.range (2 ^ g.log2n - 1)).map (fun i => g.members.getD (Nat.xor g.self (i + 1)) 0)
/-- The ready message of a member of a collective, once it has come. -/
def State.ready? (s : State) (job id m : Nat) : Option Ready :=
  s.readies.find? (fun e => e.job == job && e.id == id && e.member == m)
/-- The ready exchange of a collective has completed at this member. -/
def State.allReady (s : State) (c : ArmedColl) : Bool :=
  c.coll.reserved && c.group.others.all (fun m => (s.ready? c.job c.id m).isSome)
/-- Exchange step number of a ready message, and of one that takes it back. -/
def stepReady : Nat := 32
/-- A restart. -/
def stepRestart : Nat := 33
/-- The launch whose collective a message is for. -/
def State.collLaunch (s : State) (job id : Nat) : Option Nat :=
  (List.find? (fun (e : Nat × Launch) => isColl job id e.2.rcd e.2.group && e.2.coll.isSome) s.launches).map Prod.fst
/-- The exchange step in which a member is this one's partner (R417). -/
def Group.stepWith (g : Group) (m : Nat) : Option Nat :=
  (List.range g.log2n).find? (fun k => g.members.getD (Nat.xor g.self (2 ^ k)) 1024 == m)
/-- The counter that a collective has reserved for its step with a member (R416, R417). -/
def ArmedColl.counterFor (c : ArmedColl) (m : Nat) : Nat := ((c.group.stepWith m).bind (fun k => c.coll.counters[k]?)).getD 0
/-- A message of the ready exchange to a member, in the class of its peer entry; it leaves where the route is up (R398). -/
def State.tellMember (s : State) (c : ArmedColl) (step m : Nat) : State :=
  if !s.reachable m then s
  else
    let k := s.peerClass c.asid m
    k.2.send c.func { blankPacket with
      kind := .coll, dst := m, cls := k.1, jobkey := c.group.jobkey, collid := c.id, cstep := step, dcnt := c.counterFor m }
/-- The message to the partner of step `k` of the exchange, once the messages of the earlier partners have come (R89, R416). Where it
fails with ROUTE a dispatched launch's collective fails, and that of a pending launch tries again later (R398, R418, log 62). -/
def State.tellNext (s : State) (c : ArmedColl) (k : Nat) : State :=
  let m := c.group.others.getD k 0
  if c.group.others.length ≤ k ∨ !(c.group.others.take k).all (fun m => (s.ready? c.job c.id m).isSome) then s
  else if !s.reachable m then
    match s.collLaunch c.job c.id with
    | some l => s.collFail l
    | none => s
  else (s.modColl c.job c.id (fun x => { x with told := max x.told (k + 1) })).tellMember c stepReady m
/-- The exchange goes as far as it can. -/
def State.tellMembers (s : State) (c : ArmedColl) : State :=
  (List.range (2 ^ c.group.log2n)).foldl (fun (s : State) k => if c.coll.told ≤ k then s.tellNext c k else s) s
/-- S: the result's storage size, that of its record once a task has ended with it; at arm no field of the launch gives it, and the
device's own knowledge stands for it (R416, log 62). -/
def ArmedColl.size (c : ArmedColl) : Nat :=
  match c.coll.result with
  | some r => r.size
  | none => Config.resultSize c.job c.id
/-- Counters, and bytes of staging, that a collective reserves (R416). -/
def ArmedColl.need (c : ArmedColl) : Nat × Nat := (c.group.log2n, c.group.log2n * c.size)
/-- Counters, and bytes of staging, of the pools (R445). -/
def State.collPools (s : State) : Nat × Nat :=
  (fld (s.greg .collcnt).toNat 23 12, fld (s.greg .collpool).toNat 15 0 * 65536)
/-- Receive counters of the pool that no collective has (R416). -/
def State.collCounters (s : State) : List Nat :=
  let held := (s.armedColls.filter (fun x => x.coll.reserved)).flatMap (fun x => x.coll.counters)
  ((List.range s.collPools.1).map (fld (s.greg .collcnt).toNat 11 0 + ·)).filter (fun i => !held.contains i)
/-- The lowest place of the staging pool where `n` bytes are free (R416). -/
def State.collStaging (s : State) (n : Nat) : Option Nat :=
  let lo := fld (s.greg .collpool).toNat 51 16 * 65536
  let held := (s.armedColls.filter (fun x => x.coll.reserved)).map (fun x => (x.coll.base, x.need.2))
  ((lo :: held.map (fun h => h.1 + h.2)).filter (fun b =>
      decide (b + n ≤ lo + s.collPools.2) && held.all (fun h => decide (b + n ≤ h.1) || decide (h.1 + h.2 ≤ b)))).foldl
    (fun (m : Option Nat) b => match m with
      | none => some b
      | some x => some (min x b)) none
/-- What a collective needs, where it fits beside what is reserved: its counters and the first byte of its staging. -/
def State.collFits (s : State) (c : ArmedColl) : Option (List Nat × Nat) :=
  if s.collCounters.length < c.need.1 then none
  else (s.collStaging c.need.2).map (fun b => (s.collCounters.take c.need.1, b))
/-- A collective takes its reservations and says so. -/
def State.collReserve (s : State) (c : ArmedColl) (r : List Nat × Nat) : State :=
  (s.modColl c.job c.id (fun x => { x with reserved := true, counters := r.1, base := r.2, told := 0 })).tellMembers
    { c with coll := { c.coll with reserved := true, counters := r.1, base := r.2, told := 0 } }
/-- A collective gives its reservations up; its ready exchange restarts, here and, by a message to each, at every other member
(R416). -/
def State.collYield (s : State) (c : ArmedColl) : State :=
  let s := s.modColl c.job c.id (fun x => { x with reserved := false, told := 0 })
  c.group.others.foldl (fun (s : State) m => s.tellMember c stepRestart m)
    { s with readies := s.readies.filter (fun e => !(e.job == c.job && e.id == c.id)) }
/-- An attempt to reserve: in ascending COLLID among the job's; later collectives whose exchange is open yield (R416). -/
def State.tryReserve (s : State) (c : ArmedColl) : State :=
  let waits := fun (x : ArmedColl) => !x.coll.reserved && !x.coll.failed && !x.coll.finished
  if !waits c || s.armedColls.any (fun x => x.job == c.job && decide (x.id < c.id) && waits x) then s
  else match s.collFits c with
  | some r => s.collReserve c r
  | none =>
    let s := s.armedColls.foldl (fun (s : State) x =>
      if x.job = c.job ∧ c.id < x.id ∧ x.coll.reserved ∧ !s.allReady x then s.collYield x else s) s
    match s.collFits c with
    | some r => s.collReserve c r
    | none => s

/-! ## Chunks (R415, R417) -/

/-- log2 of the number of chunks. -/
def TRec.chunkLog (r : TRec) : Nat := (bitsSet r.tilemask).length
/-- Bytes of one chunk. -/
def TRec.chunkSize (r : TRec) : Nat := r.size / 2 ^ r.chunkLog
/-- The chunk id of a task (R413). -/
def LaunchRec.chunkOf (r : LaunchRec) (num : Nat) : Nat := gather (r.chunkmap.truncate 48) num
/-- A layout state keeps R415 for its launch. -/
def resultOk (l : Launch) (g : Group) (y : Layout) : Bool :=
  let r := y.rcd
  let k := r.chunkLog
  !r.spm && decide (r.peerb = 0) && decide (k ≤ r.n) && decide (k = (bitsSet l.rcd.chunkmap).length) &&
    (l.rcd.collop % 16 == 1 || decide (g.log2n ≤ k)) &&
    (List.range k).all (fun i => r.tilemask.getLsbD (r.n - 1 - i) && decide (y.cur.getD (r.n - 1 - i) 0 = BitVec.ofNat 48 (2 ^ (r.n - 1 - i))))
/-- The member whose slice a chunk belongs to. -/
def sliceOf (g k c : Nat) : Nat := c * 2 ^ g / 2 ^ k
/-- Every task of a chunk id, of every stage, has ended. -/
def Launch.chunkReady (l : Launch) (c : Nat) (done : List Nat) : Bool :=
  (List.range l.rcd.total).all (fun n => l.rcd.chunkOf (n % (l.rcd.gridx * l.rcd.gridy * l.rcd.gridz)) != c || done.contains n)
/-- In a step, whether this member sends a chunk and whether it receives it: an ALLGATHER chunk travels from its slice's member
along the differing bits, each member passing on what it holds. -/
def stepPart (kind g k self c s : Nat) : Bool × Bool :=
  if kind ≠ 3 then (true, true)
  else
    let d := Nat.xor self (sliceOf g k c)
    if d = 0 then (true, false) else (decide (Nat.log2 d < s), decide (Nat.log2 d = s))
/-- The staging byte of a step for a byte of the result (R416, R417, log 62). -/
def Coll.stage (c : Coll) (size step a : Nat) : Nat := c.base + step * size + a % max size 1
/-- The values of a chunk that a step has received, once all of it has come: the bytes that the kernel, where there is one, has
delivered; one that it cut off is free (R417). -/
def State.stepData (s : State) (c : Coll) (step a n : Nat) : Option (List Byte) × State :=
  let mine := c.got.filter (fun e => e.1 == step && decide (a ≤ e.2.1) && decide (e.2.1 < a + n))
  if (mine.map (fun e => e.2.2.1)).sum < n then (none, s)
  else
    let b := s.freeBytes n
    (some ((List.range n).map (fun i =>
      match mine.find? (fun e => decide (e.2.1 ≤ a + i) && decide (a + i < e.2.1 + e.2.2.2.length)) with
      | some e => e.2.2.2.getD (a + i - e.2.1) 0
      | none => b.1.getD i 0)), b.2)
/-- OPR of the lower member's and the higher member's value, word by word (R417). -/
def combineBytes (opr : Nat) (lo hi : List Byte) : List Byte :=
  let r := redOfUop opr
  let w := if r.wide then 8 else 4
  let at_ := fun (l : List Byte) (i : Nat) => BitVec.ofNat 64 (natOfBytes ((l.drop (w * i)).take w))
  (List.range (lo.length / w)).flatMap (fun i => bytesOfNat w (redNew r.op r.wide (at_ lo i) (at_ hi i)).toNat)
/-- Operations of a launch's collective that have not completed. -/
def State.collOps (s : State) (lseq : Nat) : List EngineOp :=
  (s.engines.map Prod.snd).filter (fun o => match o.kind with
    | .coll l _ _ _ _ _ => l == lseq
    | _ => false)
/-- A step's value leaves for the partner, at the partner's equal offset in window WIN (R417). -/
def State.collSend (s : State) (l : Launch) (g : Group) (c step a n : Nat) : State :=
  let win := fun (v : Nat) =>
    BitVec.ofNat 64 (3 * 2 ^ 54 + (g.members.getD v 0) % 1024 * 2 ^ 44 + g.win * 2 ^ 34)
  let w := s.window l.asid (win g.self) 1 2
  match w.1 with
  | .error _ => w.2.collFail l.lseq
  | .ok x =>
    let p := win (Nat.xor g.self (2 ^ step)) + BitVec.ofNat 64 ((a - x.target) % 2 ^ 34)
    let s := w.2.modColl g.jobkey.toNat l.rcd.collid (fun y => { y with sent := (c, step) :: y.sent })
    { s with engines := s.engines.put s.nextEngine (l.collOp (.coll l.lseq c step a p n)), nextEngine := s.nextEngine + 1 }
/-- One move of a chunk: its value is sent, or what has come is combined; none when it cannot move now. -/
def State.chunkMove (s : State) (l : Launch) (g : Group) (x : Coll) (r : TRec) (c : Nat) : Option State :=
  let step := Tbl.get 0 x.step c
  let kind := l.rcd.collop % 16
  let n := r.chunkSize
  let a := r.base + c * n
  let part := stepPart kind g.log2n r.chunkLog g.self c step
  if x.failed || g.log2n ≤ step || !l.chunkReady c x.tasks then none
  else if part.1 && !x.sent.contains (c, step) then some (s.collSend l g c step a n)
  else if (s.collOps l.lseq).any (fun o => match o.kind with
      | .coll _ c' _ _ _ _ => c' == c && (o.target.isNone || !o.queue.isEmpty)
      | _ => false) then none
  else
    let on := fun (s : State) => s.modColl g.jobkey.toNat l.rcd.collid (fun y => { y with step := y.step.set 0 c (step + 1) })
    if !part.2 then some (on s)
    else
      let d := s.stepData x step a n
      match d.1 with
      | none => none
      | some b =>
        let o := l.collOp (.fill 0 0)
        let v := if kind = 3 then Res.ok b d.2
          else (d.2.localLoad o false a n).andThen fun own s =>
            .ok (if bitOf g.self step then combineBytes (l.rcd.collop / 16 % 8) b own
                 else combineBytes (l.rcd.collop / 16 % 8) own b) s
        match v with
        | .stop _ s => some (s.collFail l.lseq)
        | .ok v s =>
          match s.localDest o false a n with
          | .stop _ s => some (s.collFail l.lseq)
          | .ok ds s => some (on (s.localPut o ds v))
/-- The collective is over once every chunk is and every send has been answered; a REDSCATTER's other chunks are
unspecified (R418). -/
def State.collFinish (s : State) (l : Launch) (g : Group) (x : Coll) (r : TRec) : State :=
  let k := r.chunkLog
  if x.failed || x.finished || (List.range (2 ^ k)).any (fun c => Tbl.get 0 x.step c != g.log2n) || !(s.collOps l.lseq).isEmpty
  then s
  else
    let s := if l.rcd.collop % 16 = 2 then
        (List.range (2 ^ k)).foldl (fun s c =>
          if sliceOf g.log2n k c = g.self then s
          else s.scrambleRange (l.collOp (.fill 0 0)) (r.base + c * r.chunkSize) r.chunkSize) s
      else s
    let s := s.modColl g.jobkey.toNat l.rcd.collid (fun y => { y with finished := true, reserved := false })
    { s with readies := s.readies.filter (fun e => !(e.job == g.jobkey.toNat && e.id == l.rcd.collid)) }.finishLaunch l.lseq
/-- The collective of a launch moves as far as it can. -/
def State.collAdvance : Nat → State → Nat → State
  | 0, s, _ => s
  | k + 1, s, lseq =>
    match s.launch? lseq with
    | none => s
    | some l =>
      match l.group, l.coll with
      | some g, some x =>
        match x.result, armedOf l.func l.asid l.rcd l.group l.coll with
        | some r, some ac =>
          if !s.allReady ac then s
          else match (List.range (2 ^ r.chunkLog)).findSome? (fun c => s.chunkMove l g x r c) with
            | some s => State.collAdvance k s lseq
            | none => s.collFinish l g x r
        | _, _ => s
      | _, _ => s
/-- Moves that a collective can make: a send and a combination for each step of each chunk, and one that fails. -/
def State.collFuel (s : State) (lseq : Nat) : Nat :=
  match s.launch? lseq with
  | some l => 2 * ((l.group.map Group.log2n).getD 0) * 2 ^ (bitsSet l.rcd.chunkmap).length + 2
  | none => 0
/-- Run a launch's collective. -/
def State.collRun (s : State) (lseq : Nat) : State := State.collAdvance (s.collFuel lseq) s lseq
/-- A task of a launch with a collective has ended: its RESULT handle is looked at, and its chunk may be ready (R415, R417). -/
def State.collTask (s : State) (task : Nat) : State :=
  let k := s.task task
  let l := s.launchOf task
  match l.group, l.coll with
  | some g, some x =>
    if k.status != .ended || x.tasks.contains (taskNo task) then s
    else
      match s.handle? task l.rcd.result with
      | none => s.collFail k.launch
      | some y =>
        if !resultOk l g (s.layout y) then s.collFail k.launch
        else
          (s.modLaunch k.launch (fun l => { l with coll := some { x with
            tasks := taskNo task :: x.tasks, result := some (x.result.getD (s.layout y).rcd) } })).collRun k.launch
  | _, _ => s
/-- COLLECTIVE_RESERVE: an armed collective that waits tries to reserve, and one that has reserved goes on with its ready exchange
(R416). A dispatched launch is named by its sequence
number, a pending one by 2^40 + queue × 2^32 + count. -/
def execCollectiveReserve (lseq : Nat) (s : State) : Host.Outcome State Fault Refusal :=
  let c :=
    if lseq < 2 ^ 40 then (s.launch? lseq).bind (fun l => armedOf l.func l.asid l.rcd l.group l.coll)
    else (s.pending.find? (fun p => 2 ^ 40 + p.q * 2 ^ 32 + p.count == lseq)).bind (fun p =>
      armedOf (s.qFunc p.q) (s.qAsid p.q) p.rcd p.group p.coll)
  .next (match c with
    | none => s
    | some c =>
      let s := if c.coll.reserved && !c.coll.failed && !c.coll.finished then s.tellMembers c else s.tryReserve c
      if lseq < 2 ^ 40 then s.collRun lseq else s)

/-! ## What arrives -/

/-- A message of the ready exchange (R416): the member is ready, or it restarts, and with it the exchange here. -/
def State.readyArrives (s : State) (p : Packet) : State :=
  let job := p.jobkey.toNat
  let rest := s.readies.filter (fun e => !(e.job == job && e.id == p.collid && e.member == p.src))
  let s : State := if p.cstep = stepReady then { s with readies := rest ++ [⟨job, p.collid, p.src, p.dcnt⟩] }
    else { s with readies := rest }.modColl job p.collid (fun x => { x with told := 0 })
  let s := (s.armedColls.filter (fun c => c.job == job && c.id == p.collid && c.coll.reserved)).foldl
    (fun (s : State) c => s.tellMembers c) s
  match s.collLaunch job p.collid with
  | some l => s.collRun l
  | none => s
/-- A piece of an exchange step is checked, and its bytes are staged; it contributes to the counter that its header names, as sent the
step's own, which the collective has reserved (R406, R417, R442). -/
def State.performColl (s : State) (p : Packet) (counts : Bool) : State :=
  let e := s.exportCheck p p.len 2
  let job := p.jobkey.toNat
  let failHere := fun (s : State) => match s.collLaunch job p.collid with
    | some l => s.collFail l
    | none => s
  match e.1 with
  | .error r => (if p.marked then e.2 else failHere e.2).pieceFails p r
  | .ok (_, asid) =>
    match e.2.armedColls.find? (fun c => c.job == job && c.id == p.collid && c.coll.reserved) with
    | none => e.2.pieceFails p 7
    | some c =>
      let adds := if counts then contribution p else []
      if counts && (namedCounter p).any (fun n => !c.coll.counters.contains n && !e.2.counterOk n asid) then (failHere e.2).pieceFails p 7
      else
      let b := p.payload.take p.len
      let s := (List.range b.length).foldl (fun (s : State) i =>
        s.wrN (c.coll.stage c.size p.cstep (p.target + i)) [b.getD i 0]) e.2
      let s := s.modColl job p.collid (fun x =>
        { x with got := x.got ++ [(p.cstep, p.target, if p.marked then 0 else p.payload.length, b)] })
      let s := s.pieceHandled p true true adds
      match s.collLaunch job p.collid with
      | some l => s.collRun l
      | none => s

end Sys2Proof.Machine
end

