-- ==== Sys2Proof/Machine/Remap.lean ====
section
/-! DEFINITION. REMAP: the words, and the passes of the remap engine (R160, R163-R171, R351, R352). -/
namespace Sys2Proof.Machine

/-! ## REMAP and REMAP.step (R163-R165, R169, R351) -/

/-- The REMAP record (R351). -/
def remapCommand : Command where
  legal q := cmdShape q 3 [(63, 32)] [[(5, 0)], [(55, 0), (63, 63)]]
  handles q := [cmdHandle q 0]
/-- Start the passes of an accepted REMAP: all that remain, or one (R169, R352). -/
def State.remapStart (s : State) (t : ThreadRef) (q : List Nat) (k : Nat) (step : Bool) (n : Nat) : State :=
  let s := s.modLayout k (fun l => { l with inflight := true, hits := [] })
  s.fork t (s.thread t).pc (.remap k (!step)) (some (cmdBar q)) ((s.layout k).rcd.sizeAll * n) 0 0
/-- REMAP with new rows: the checks of R163 from SHAPE on, M1, and the passes (R164, R165). -/
def State.remapNew (s : State) (t : ThreadRef) (q : List Nat) (k : Nat) (step : Bool) (b : List Byte) : Nat × State :=
  let l := s.layout k
  let n := l.rcd.n
  match rowsOf b n with
  | none => (stShape, s)
  | some m2 =>
    if !l.rcd.trimOk m2 then (stShape, s)
    else if (invert m2 n).isNone then (stSingular, s)
    else
      let m0 := l.cur
      let m1 := buildM1 m0 m2 n l.rcd.o
      let passes := b2n (decide (m1 ≠ m0)) + b2n (decide (m1 ≠ m2))
      if passes ≠ 0 ∧ l.rcd.sv = false then (stShape, s)
      else
        let s := s.modLayout k (fun l => { l with mat := m0, m1 := m1, m2 := m2, matno := if passes = 0 then 2 else 0, passes := passes })
        (stOk, if passes = 0 then s else s.remapStart t q k step (if step then 1 else passes))
/-- REMAP and REMAP.step (R163, R169, R351). A REMAP that the state turns away reads no rows, so it takes no trap. -/
def remapWord (f : FmtT) (step : Bool) (s : State) : State :=
  engineWord f remapCommand noNote (fun s t q ks =>
    let k := ks.getD 0 0
    let l := s.layout k
    let done := fun (r : Nat × State) => Res.ok r.1 (if r.1 = stOk then r.2.setLast [k] stOk else r.2)
    if 0 < s.opsOn k ∨ l.inflight then .ok stBusy s
    else if l.broken ∨ l.rcd.etype = 14 then .ok stShape s
    else if l.stepping then done (stOk, s.remapStart t q k step 1)
    else (s.tableBytes t (cmdDw q 2) 64 16 24).andThen fun b s => done (s.remapNew t q k step b)) s
/-- REMAP: replaces a tensor's matrix, running every remaining pass (R351). -/
def execRemap (f : FmtT) (s : State) : Answer := .next (remapWord f false s)
/-- REMAP.step: runs exactly one pass (R169). -/
def execRemapStep (f : FmtT) (s : State) : Answer := .next (remapWord f true s)

/-! ## A pass (R160, R165-R168, R171) -/

/-- The matrices that the next pass moves between, and the MATNO after it. -/
def Layout.passOf (l : Layout) : List (BitVec 48) × List (BitVec 48) × Nat :=
  if l.matno = 0 ∧ l.m1 ≠ l.mat then (l.mat, l.m1, if l.m1 = l.m2 then 2 else 1) else (l.m1, l.m2, 2)
/-- Every place of an area: unit and slot. -/
def TRec.places (r : TRec) : List (Nat × Nat) :=
  (List.range (if r.spm then 2 ^ r.coreb else 1)).flatMap (fun u => (List.range (2 ^ r.slotBits)).map (fun k => (u, k)))
/-- Words that wait for a pass of a layout state are tried again (R135). -/
def State.wakeRemap (s : State) (k : Nat) : State :=
  s.unretryAll (fun r => r == .remap k)
/-- The location that a slot of this member stands for: the inverse of `TRec.place` (R151, R152). -/
def State.locationOf (s : State) (l : Layout) (p : Nat × Nat) : Nat :=
  (if l.rcd.spm then p.1 else s.memberOf l) * 2 ^ l.rcd.slotBits + p.2
/-- A pass ends with an error: BROKEN, and the slots hold unspecified values (R171). -/
def State.breakRemap (s : State) (id : Nat) (o : EngineOp) (k : Nat) (i : TrapInfo) : State :=
  let s := s.failOp id o (some i)
  let s := s.modLayout k (fun l => { l with inflight := false, stepping := false, broken := true })
  let l := s.layout k
  (s.scramble o l l.rcd.base (l.rcd.places.filter (fun p =>
    !l.rcd.trim || !l.rcd.phantom (matVec ((invert l.cur l.rcd.n).getD []) l.rcd.n (s.locationOf l p))))).wakeRemap k
/-- Elements that this member holds under a matrix, ascending; those that no device touches left out (R161). -/
def State.heldBy (s : State) (l : Layout) (m : List (BitVec 48)) : List Nat :=
  (List.range (2 ^ l.rcd.n)).filter (fun x =>
    !(l.rcd.trim && l.rcd.phantom x) && (l.rcd.peerb == 0 || (l.rcd.place (matVec m l.rcd.n x)).1 == s.memberOf l))
/-- Values of elements under a matrix. -/
def State.valuesUnder (s : State) (o : EngineOp) (l : Layout) (m : List (BitVec 48)) (xs : List Nat) :
    Res (List (Nat × List Byte)) :=
  eachOf (fun s x =>
    let p := l.rcd.place (matVec m l.rcd.n x)
    (s.slotLoad o l l.rcd.base p.1 p.2).andThen fun b s => .ok (some (x, b)) s) xs s
/-- Values that the staging area holds; where it cannot be read they are open. -/
def State.stagingValues (s : State) (o : EngineOp) (l : Layout) : List (List Byte) × State :=
  l.rcd.places.foldl (fun a p =>
    match a.2.slotLoad o l l.rcd.stage p.1 p.2 with
    | .ok b s => (a.1 ++ [b], s)
    | .stop _ s => let b := s.freeBytes l.rcd.esize; (a.1 ++ [b.1], b.2)) ([], s)
/-- What a phantom slot holds after a pass: FILLVAL, or one of the values held before in a phantom slot or in the staging area,
which one is open; what the other members hold there is open too (R160). -/
def State.phantomValue (s : State) (l : Layout) (pool : List (List Byte)) : List Byte × State :=
  if l.rcd.fill then (bytesOfNat l.rcd.esize l.rcd.fillval.toNat, s)
  else
    let w := s.freeWord
    let b := w.2.freeBytes l.rcd.esize
    if l.rcd.peerb == 0 && !pool.isEmpty then (pool.getD (w.1.toNat % pool.length) [], w.2)
    else ((pool ++ [b.1]).getD (w.1.toNat % (pool.length + 1)) [], b.2)
/-- The partner of step `i` of the XOR schedule among the members, steps counted from 1 (R89, R166). -/
def State.partner (s : State) (l : Layout) (i : Nat) : Nat := Nat.xor (s.memberOf l) i
/-- Another access has written the slot of a place, or its word of the staging area, since the pass began (R135). -/
def State.competed (s : State) (o : EngineOp) (l : Layout) (p : Nat × Nat) : Bool :=
  let at_ := fun (base : Nat) =>
    match s.slotAt o.via o.asid l base p.1 p.2 .read with
    | .ok (.mem q) _ => l.hits.any (fun h => h.1 == b2n q.host && meets h.2.1 h.2.2 q.pa l.rcd.esize)
    | .ok (.spm _ off) _ => l.hits.any (fun h => h.1 == p.1 && meets h.2.1 h.2.2 off l.rcd.esize)
    | .stop _ _ => false
  !l.hits.isEmpty && (at_ l.rcd.base || (l.rcd.sv && at_ l.rcd.stage))
/-- Another access has written where an element stands under a matrix, at this member, since the pass began (R135). -/
def State.competedUnder (s : State) (o : EngineOp) (l : Layout) (m : List (BitVec 48)) (x : Nat) : Bool :=
  let p := l.rcd.place (matVec m l.rcd.n x)
  (l.rcd.spm || p.1 == s.memberOf l) && s.competed o l p
/-- The value that an element takes into its new slot: its own, or an open one where accesses have competed for it (R135). -/
def State.movedValue (s : State) (open_ : Bool) (b : List Byte) : List Byte × State :=
  if open_ then s.freeBytes b.length else (b, s)
/-- Peer id of a member of the group. -/
def State.memberPeer (s : State) (l : Layout) (v : Nat) : Nat :=
  (((s.launch? l.lseq).bind Launch.group).map (fun g => g.members.getD v 0)).getD 0
/-- Job of a layout state's launch. -/
def State.jobOf (s : State) (l : Layout) : Word := (((s.launch? l.lseq).bind Launch.group).map Group.jobkey).getD 0
/-- Real elements that move from one member to another in a pass (R166). -/
def movers (r : TRec) (m m' : List (BitVec 48)) (from_ to_ : Nat) : List Nat :=
  (List.range (2 ^ r.n)).filter (fun x =>
    !r.phantom x && (r.place (matVec m r.n x)).1 == from_ && (r.place (matVec m' r.n x)).1 == to_)
/-- Values put at the slots of the new matrix; what comes after the pass. -/
def State.passWrite (s : State) (id : Nat) (o : EngineOp) (k : Nat) (all : Bool) (ws : List (Nat × List Byte)) : State :=
  let l := s.layout k
  let m' := l.passOf.2.1
  let next := l.passOf.2.2
  match eachOf (fun s (w : Nat × List Byte) =>
      let p := l.rcd.place (matVec m' l.rcd.n w.1)
      (s.slotDest o l l.rcd.base p.1 p.2).andThen fun q s => .ok (some (q, w.2)) s) ws s with
  | .stop r s => s.opStop id o (fun s i => s.breakRemap id o k i) r
  | .ok ps s =>
    let s := ps.foldl (fun s p => s.placePut o p.1 p.2) s
    let s := if l.rcd.sv then s.scramble o l l.rcd.stage l.rcd.places else s
    let s := s.opBytes id l.rcd.sizeAll
    let last := next == 2
    let s := s.modLayout k (fun l => { l with matno := next, inflight := false, hits := [], stepping := !all && !last })
    let s := if last || !all then s.completeOp id else s.setOp id (fun o => { o with prog := o.prog + 1, prog2 := 0 })
    s.wakeRemap k
/-- The bytes that a partner has sent for the pass that runs, if it has started this step (R166, R168). -/
def State.fromPartner (s : State) (l : Layout) (p : Nat) : Option (List Byte) :=
  assoc s.exchange ((s.jobOf l).toNat, l.rcd.base, s.memberPeer l p)
/-- Messages of partners that the pass has used go, one of each (R168). -/
def State.usePartners (s : State) (l : Layout) (ps : List Nat) : State :=
  ps.foldl (fun (s : State) p =>
    { s with exchange := s.exchange.eraseP (fun e => e.1 == ((s.jobOf l).toNat, l.rcd.base, s.memberPeer l p)) }) s
/-- What a member sends its partner: the values of the elements that go there; one that another access has written since the pass
began is open (R135, R166). -/
def State.sentBytes (s : State) (o : EngineOp) (l : Layout) (vs : List (Nat × List Byte)) (xs : List Nat) : List Byte × State :=
  xs.foldl (fun (a : List Byte × State) x =>
    let v := a.2.movedValue (s.competedUnder o l l.passOf.1 x) ((assoc vs x).getD [])
    (a.1 ++ v.1, v.2)) ([], s)
/-- Step `i` of a pass between members: this member sends its partner what goes there, which also says that it has started the
step, and the step ends once the partner's message has come; a step with nothing to send and to receive ends at once (R89, R166,
R168). `prog2` is twice the steps that have ended, and one more while an answer is awaited. -/
def State.remapExchange (s : State) (id : Nat) (o : EngineOp) (k : Nat) (vs : List (Nat × List Byte)) : State :=
  let l := s.layout k
  let m := l.passOf.1
  let m' := l.passOf.2.1
  let me := s.memberOf l
  let i := o.prog2 / 2 + 1
  let p := s.partner l i
  let out := movers l.rcd m m' me p
  if out.isEmpty && (movers l.rcd m m' p me).isEmpty then s.setOp id (fun o => { o with prog2 := 2 * i })
  else if o.prog2 % 2 = 0 then
    let peer := s.memberPeer l p
    if !s.reachable peer then s.breakRemap id o k { code := trapRemote, sub := 10, peer := peer }
    else
      let b := s.sentBytes o l vs out
      let c := b.2.peerClass o.asid peer
      (c.2.send o.func { blankPacket with
        kind := .remap, dst := peer, cls := c.1, op := id, target := l.rcd.base, jobkey := s.jobOf l,
        payload := b.1 }).setOp id (fun o => { o with prog2 := 2 * i - 1 })
  else if (s.fromPartner l p).isNone then s
  else s.setOp id (fun o => { o with prog2 := 2 * i })
/-- The elements that this member holds after a pass, with their values: its own and those that partners have sent; phantoms as
R160 says. -/
def State.passValues (s : State) (o : EngineOp) (l : Layout) (vs : List (Nat × List Byte)) (pool : List (List Byte)) :
    List (Nat × List Byte) × State :=
  let m := l.passOf.1
  let m' := l.passOf.2.1
  (s.heldBy l m').foldl (fun (a : List (Nat × List Byte) × State) x =>
    if l.rcd.phantom x then
      let v := a.2.phantomValue l pool
      (a.1 ++ [(x, v.1)], v.2)
    else match assoc vs x with
      | some b =>
        let v := a.2.movedValue (s.competedUnder o l m x || s.competedUnder o l m' x) b
        (a.1 ++ [(x, v.1)], v.2)
      | none => a) ([], s)
/-- A pass over this member's elements; with peer bits, its steps with the other members come first, one after another
(R165-R168). -/
def State.remapPass (s : State) (id : Nat) (o : EngineOp) (k : Nat) (all : Bool) : State :=
  let l := s.layout k
  let m := l.passOf.1
  let m' := l.passOf.2.1
  let me := s.memberOf l
  match s.valuesUnder o l m (s.heldBy l m) with
  | .stop r s => s.opStop id o (fun s i => s.breakRemap id o k i) r
  | .ok vs s =>
    if 0 < l.rcd.peerb ∧ o.prog2 / 2 + 1 < 2 ^ l.rcd.peerb then s.remapExchange id o k vs
    else
      let st := s.stagingValues o l
      let pool := (vs.filter (fun v => l.rcd.phantom v.1)).map Prod.snd ++ st.1
      let inn := ((List.range (2 ^ l.rcd.peerb - 1)).map (fun i => s.partner l (i + 1))).filter (fun p =>
        !(movers l.rcd m m' me p).isEmpty || !(movers l.rcd m m' p me).isEmpty)
      let got := inn.flatMap (fun p =>
        let b := (st.2.fromPartner l p).getD []
        let xs := movers l.rcd m m' p me
        (List.range xs.length).map (fun i => (xs.getD i 0, (b.drop (i * l.rcd.esize)).take l.rcd.esize)))
      let w := st.2.passValues o l (vs ++ got) pool
      let s := w.2.passWrite id o k all w.1
      -- the messages of the partners have been used, once the pass has ended
      if (s.layout k).inflight && (s.engines.find? id).isSome then s else s.usePartners l inn
/-- REMAP_PASS_END: the next pass of the REMAP on a layout state ends (R165). -/
def execRemapPassEnd (lseq va : Nat) (s : State) : Answer :=
  let k := layKey lseq va
  .next (match List.find? (fun (e : Nat × EngineOp) =>
      match e.2.kind with
      | .remap l _ => l == k
      | _ => false) s.engines with
    | none => s
    | some (id, o) =>
      match o.kind with
      | .remap _ all =>
        if o.susp.isNone && ((s.layout k).inflight || s.opRuns o) then ((s.modLayout k (fun l => { l with inflight := true })).remapPass id o k all).settleBarriers else s
      | _ => s)

end Sys2Proof.Machine
end

