-- ==== Sys2Proof/Machine/Fabric.lean ====
section
/-! DEFINITION. Fabric words: major 0x3D without the sepal words, RATOM, and the events of the fabric and of the engines
(R398, R400-R412, R429, R430). -/
namespace Sys2Proof.Machine

/-! ## RGET and RPUT (R401, R402) -/

/-- The record of RGET or RPUT (R401). -/
def fabricCommand (put : Bool) : Command where
  legal q := cmdShape q (if put then 9 else 8) [(10, if put then 8 else 10), (63, 32)]
      [[(55, 0)], [(63, 0)], [(31, 0)], if put then [(11, 0)] else []] &&
    decide (1 ≤ cmdDw q 3) && (!bitOf (cmdDw q 0) 10 || decide (cmdDw q 1 < 2 ^ 32))
  handles _ := []
/-- A peer-window address is required (R14, R42). -/
def State.peerWindow (s : State) (p : DWord) : Res Unit :=
  match spaceOf p.toNat with
  | .bad => .trapAt trapProt 1 p s
  | .local_ => .trapAt trapProt 6 p s
  | .peer => .ok () s
/-- A local address is required, or scratchpad bytes of the task (R14, R42, R43). -/
def State.localSide (s : State) (t : ThreadRef) (spm : Bool) (a n : Nat) : Res Unit :=
  if spm then
    if s.spmCovers t.task a n then .ok () s else .trapAt trapProt 7 (BitVec.ofNat 64 a) s
  else
    match spaceOf a with
    | .bad => .trapAt trapProt 1 (BitVec.ofNat 64 a) s
    | .peer => .trapAt trapProt 6 (BitVec.ofNat 64 a) s
    | .local_ => .ok () s
/-- RGET and RPUT: the checks of R340 and R402, then the operation is forked. -/
def remoteWord (f : FmtT) (put : Bool) (s : State) : State :=
  engineWord f (fabricCommand put) noNote (fun s t q _ =>
    let spm := bitOf (cmdDw q 0) 10
    let a := cmdDw q 1
    let p := BitVec.ofNat 64 (cmdDw q 2)
    let n := cmdDw q 3
    (s.peerWindow p).andThen fun _ s =>
      (s.localSide t spm a n).andThen fun _ s =>
        let k : EngKind :=
          if put then .rput a spm p n (bitOf (cmdDw q 0) 9) (bitOf (cmdDw q 0) 8) (cmdDw q 4) else .rget a spm p n
        let id := s.nextEngine
        let s := s.fork t (s.thread t).pc k (some (cmdBar q)) n 0 0
        .ok stOk (s.modThread t (fun th => { th with remote := th.remote ++ [id] }))) s
/-- RGET: reads from a peer into local memory or scratchpad (R402). -/
def execRget (f : FmtT) (s : State) : Answer := .next (remoteWord f false s)
/-- RPUT: writes local bytes at a peer (R402). -/
def execRput (f : FmtT) (s : State) : Answer := .next (remoteWord f true s)

/-! ## Triggered sends, counters, fence (R140, R405-R412) -/

/-- Entries of the armed table (R410). -/
def armedTable : Nat := 16384
/-- The descriptor of a triggered send (R409). -/
def sendCommand : Command where
  legal q := cmdShape q 10 [(10, 8), (63, 32)] [[(11, 0)], [(63, 0)], [(55, 0)], [(63, 0)], [(31, 0)], [(11, 0)], []] &&
    decide (1 ≤ cmdDw q 5) && (bitOf (cmdDw q 0) 10 || cmdBar q == 0)
  handles _ := []
  barrier := false
/-- An entry joins the armed table, a fork (R131); if it is due, it fires at once (R412). -/
def State.arm (s : State) (t : ThreadRef) (c : Nat) (thresh : DWord) (k : ArmedKind) (bar : Option Nat) : State :=
  let x := s.task t.task
  let a : Armed :=
    { counter := c, thresh := thresh, kind := k, bar := bar, task := t.task, tid := t.tid, pc := (s.thread t).pc, lseq := x.lseq,
      num := x.num, asid := x.asid, func := x.func, core := x.phys, launch := x.launch }
  let s := { s.drain x.phys with armed := s.armed ++ [a] }
  State.fireDue s.armed.length s c
/-- Status DENIED (R410). -/
def stDenied : Nat := 10
/-- Status FULL (R410). -/
def stFull : Nat := 9
/-- TSEND: arms a triggered send; a destination that is no peer-window address traps (R14, R42, R410). -/
def execTsend (f : FmtT) (s : State) : Answer :=
  .next (engineWord f sendCommand noNote (fun s t q _ =>
    let barv := bitOf (cmdDw q 0) 10
    let c := cmdDw q 1
    (if barv then s.spmLocate t (cmdBar q) 32 else .ok () s).andThen fun _ s =>
    (s.peerWindow (BitVec.ofNat 64 (cmdDw q 4))).andThen fun _ s =>
      if !s.counterOk c (s.asidOf t) then .ok stDenied s
      else if armedTable ≤ s.armed.length then .ok stFull s
      else
        let s := if barv then s.countOn t.task (cmdBar q) (cmdDw q 5) else s
        .ok stOk (s.arm t c (BitVec.ofNat 64 (cmdDw q 2))
          (.send (bitOf (cmdDw q 0) 8) (bitOf (cmdDw q 0) 9) (cmdDw q 3) (BitVec.ofNat 64 (cmdDw q 4)) (cmdDw q 5) (cmdDw q 6))
          (if barv then some (cmdBar q) else none))) s)
/-- TCNT: reads a receive counter, an acquire (R408). -/
def execTcnt (f : FmtT) (s : State) : Answer :=
  .next (runLanes (fun s t =>
    let c := (s.readG t f.bo.toNat).toNat
    if !s.counterOk c (s.asidOf t) then .trap trapProt 11 s
    else .ok () ((s.acquire (s.coreOf t)).result t f.h.toNat (wordsOf (s.counter c)))) s)
/-- RFENCE: waits for the thread's remote operations (R140, R405). -/
def execRfence (_ : FmtT) (s : State) : Answer :=
  .next (runPure (fun s t =>
    let s := s.commit t
    if (s.thread t).remote.isEmpty then s else s.park t .rfence) s)
/-- CARM: arms an arrival on a barrier object (R411). -/
def execCarm (f : FmtT) (s : State) : Answer :=
  .next ((runLanes (fun s t =>
    let off := (s.readG t f.h.toNat).toNat
    let c := (s.readG t f.bo.toNat).toNat
    let thresh := s.readPair t f.a.toNat
    (s.spmLocate t off 32).andThen fun _ s =>
      if !s.counterOk c (s.asidOf t) then .trap trapProt 11 s
      else
        let s := s.countOn t.task off 1
        .ok () ((if armedTable ≤ s.armed.length then s.countOff t.task off 1 true else s.arm t c thresh .carm (some off)).commit t))
    s).endCycle)

/-! ## RATOM (R139, R404) -/

/-- RATOM: one atomic at a peer; the thread waits for its response. -/
def ratom (f : FmtA) (op : AtOp) (s : State) : State :=
  runLanes (fun s t =>
    let p := s.readPair t f.a.toNat
    let b := s.readPair t f.b.toNat
    let swap := if op = .cas then s.readPair t (f.b.toNat + 2) else 0
    let pc := (s.thread t).pc
    if spaceOf p.toNat = .bad then .trapAt trapProt 1 p s
    else if p.toNat % 8 ≠ 0 then .trapAt trapAlign 0 p s
    else if spaceOf p.toNat = .local_ then .trapAt trapProt 6 p s
    else if f.ord.getLsbD 1 && !(s.thread t).remote.isEmpty then .stop (.retry .remote) s
    else
      let s := if f.ord.getLsbD 1 then s.drain (s.coreOf t) else s
      let id := s.nextEngine
      let s := { s.commit t with nextEngine := id + 1 }
      let s := s.park t (.ratom id f.d.toNat (f.ord.getLsbD 0) pc p)
      let answer := fun (s : State) (reason : Nat) =>
        { s with responses := s.responses ++ [(s.self, { dst := s.self, op := id, piece := 0, vc := 0, reason := reason, data := [] })] }
      let w := s.window (s.asidOf t) p 8 3
      match w.1 with
      | .error r => .ok () (answer w.2 r)
      | .ok x =>
        if !w.2.reachable (peerOf p) then .ok () (answer w.2 10)
        else
          .ok () (w.2.send (s.task t.task).func { blankPacket with
            kind := .atom op f.ord, dst := peerOf p, cls := x.cls, op := id, target := x.target, len := 8, key := x.key,
            jobkey := x.jobkey, operand := b, swap := swap })) s
/-- RATOM_ADD_B64: 64-bit add at a peer (R404). -/
def execRatomAddB64 (f : FmtA) (s : State) : Answer := .next (ratom f .add s)
/-- RATOM_MIN_S64: signed minimum at a peer (R404). -/
def execRatomMinS64 (f : FmtA) (s : State) : Answer := .next (ratom f .minS s)
/-- RATOM_MIN_N64: unsigned minimum at a peer (R404). -/
def execRatomMinN64 (f : FmtA) (s : State) : Answer := .next (ratom f .minN s)
/-- RATOM_MAX_S64: signed maximum at a peer (R404). -/
def execRatomMaxS64 (f : FmtA) (s : State) : Answer := .next (ratom f .maxS s)
/-- RATOM_MAX_N64: unsigned maximum at a peer (R404). -/
def execRatomMaxN64 (f : FmtA) (s : State) : Answer := .next (ratom f .maxN s)
/-- RATOM_AND_B64: AND at a peer (R404). -/
def execRatomAndB64 (f : FmtA) (s : State) : Answer := .next (ratom f .and s)
/-- RATOM_OR_B64: OR at a peer (R404). -/
def execRatomOrB64 (f : FmtA) (s : State) : Answer := .next (ratom f .or s)
/-- RATOM_XOR_B64: XOR at a peer (R404). -/
def execRatomXorB64 (f : FmtA) (s : State) : Answer := .next (ratom f .xor s)
/-- RATOM_EXCH_B64: exchange at a peer (R404). -/
def execRatomExchB64 (f : FmtA) (s : State) : Answer := .next (ratom f .exch s)
/-- RATOM_CAS_B64: compare-and-swap at a peer (R404). -/
def execRatomCasB64 (f : FmtA) (s : State) : Answer := .next (ratom f .cas s)

/-- What ends a RATOM's wait: its thread, the pair, whether it acquires, its pc and its address. -/
def State.ratomOf (s : State) (op : Nat) : Option (ThreadRef × Nat × Bool × DWord × DWord) :=
  (s.threads.map Prod.snd).findSome? (fun th => match th.status with
    | .parked (.ratom n d acq pc p) => if n = op then some (th.ref, d, acq, pc, p) else none
    | _ => none)
/-- RATOM_TIMEOUT: no response has come within RTIMEOUT (R40, R404). -/
def execRatomTimeout (t : ThreadRef) (s : State) : Answer :=
  .next (match (s.thread t).status with
    | .parked (.ratom _ _ _ pc p) => s.takeTraps [(t, pc, remoteTrap 12 p)]
    | _ => s)

/-! ## Engine operations (R131, R173) -/

/-- One action of an engine operation. -/
def State.engineAct (s : State) (id : Nat) (o : EngineOp) : State :=
  match o.kind with
  | .tcopy a d _ mcast follow chv chan red mask foloff =>
    if s.opRuns o then (s.engineAhead o).copyChunk id o a d mcast follow chv chan red mask foloff else s
  | .tmerge a b d sg na nb => if s.opRuns o then (s.engineAhead o).mergeStep id o a b d sg na nb else s
  | .fill d v => if s.opRuns o then (s.engineAhead o).fillStep id o d v else s
  | .gather d r i => if s.opRuns o then (s.engineAhead o).gatherStep id o d r i else s
  | .scatter d r i => if s.opRuns o then (s.engineAhead o).scatterStep id o d r i else s
  | .decode d r st => if s.opRuns o then (s.engineAhead o).decodeStep id o d r st else s
  | .undelta d r _ => if s.opRuns o then (s.engineAhead o).undeltaStep id o d r else s
  | .rget _ _ _ _ => if o.susp.isNone then s.remoteStep id o else s
  | .rput _ _ _ _ _ _ _ => if o.susp.isNone then s.remoteStep id o else s
  | .tsend _ _ _ _ _ _ => if o.susp.isNone then s.remoteStep id o else s
  | .coll l _ _ _ _ _ => if o.susp.isNone then (s.remoteStep id o).collRun l else s
  | _ => s
/-- ENGINE_CHUNK: an engine operation goes one chunk, element or piece further (R173). -/
def execEngineChunk (op : Nat) (s : State) : Answer :=
  .next (match s.engines.find? op with
    | none => s
    | some o => (s.engineAct op o).settleBarriers)

/-! ## Requests and responses (R39, R398, R403, R429) -/

/-- A piece is checked and performed at the target; `counts` says whether it contributes to a counter (R442). -/
def State.performPiece (s : State) (p : Packet) (counts : Bool) : State :=
  match p.kind with
  | .coll => s.performColl p counts
  | _ => s.performPut p counts
/-- Where a piece goes on arrival: no kernel, a kernel slot, or nowhere (R429). -/
inductive Match
  | noKernel
  | slot (k : Nat)
  | refuse
  deriving DecidableEq, Repr
/-- The slot that takes a packet (R428, R429, R440). -/
def State.matchSlot (s : State) (p : Packet) : Match :=
  if p.marked then .noKernel
  else
    let take := fun (e : Nat × Slot) => if e.2.disabled then Match.refuse else .slot e.1
    match p.kind, p.slot with
    | .coll, some k =>
      match s.slots.find? k with
      | some x => if x.jobkey = p.jobkey ∧ x.releasing = false then take (k, x) else .refuse
      | none => .refuse
    | _, _ =>
      match List.find? (fun (e : Nat × Slot) => e.2.jobkey == p.jobkey && e.2.fclass == p.cls && !e.2.releasing) s.slots with
      | some e => take e
      | none => .noKernel
/-- A piece fails in the switch with reason KERNEL; an exchange step that fails there fails its collective (R418, R430). -/
def State.pieceRefused (s : State) (p : Packet) : State :=
  let s := match p.kind, s.collLaunch p.jobkey.toNat p.collid with
    | .coll, some l => if p.marked then s else s.collFail l
    | _, _ => s
  s.pieceFails p 11
/-- A piece of a put or of a send reaches the switch of its target. -/
def State.pieceArrives (s : State) (p : Packet) : State :=
  match s.matchSlot p with
  | .noKernel => s.performPiece p true
  | .slot k => { s with sepalQ := s.sepalQ ++ [(k, p)] }
  | .refuse => s.pieceRefused p
/-- REMOTE_REQUEST: a request reaches this device and is checked and performed, or goes on (R39, R398). -/
def execRemoteRequest (p : Packet) (s : State) : Answer :=
  let s := if p.dst = s.self then { s with fabricOut := s.fabricOut.erase p } else s
  -- before the service firmware runs, after BOOTFAIL and without power nothing answers here (R449)
  .next (if !s.up then s else (if p.dst ≠ s.self then
      if s.portUp (routePort s.self p.dst) then { s with fabricOut := s.fabricOut ++ [p] } else s.respond p 10 []
    else
      match p.kind with
      | .remap => { s with exchange := s.exchange ++ [((p.jobkey.toNat, p.target, p.src), p.payload)] }
      | .get => s.performGet p
      | .atom op _ => s.performAtom p op
      | .coll => if stepReady ≤ p.cstep then s.readyArrives p else s.pieceArrives p
      | .put => s.pieceArrives p
      | .send => s.pieceArrives p).settleBarriers)
/-- A piece of RGET data is written, and its bytes are subtracted (R138, R403); where a page is missing, the piece is asked for
again once it is there. -/
def State.getArrives (s : State) (id : Nat) (o : EngineOp) (a : Nat) (spm : Bool) (target n : Nat) (r : Response) : State :=
  let pc := pieceOf target n r.piece
  match s.localDest o spm (a + pc.1) pc.2 with
  | .stop x s =>
    let s := s.opStop id o (fun s i => s.failRemote id o i) x
    s.setOp id (fun o => { o with queue := r.piece :: o.queue })
  | .ok ds s =>
    let s := (s.localPut o ds (r.data.take pc.2)).opBytes id pc.2
    s.setOp id (fun o => { o with left := o.left.erase r.piece })
/-- A response to an operation of this device. -/
def State.opResponse (s : State) (id : Nat) (o : EngineOp) (r : Response) : State :=
  match o.kind.remote, o.target with
  | some (a, spm, p, n), some target =>
    if r.reason ≠ 0 then s.failRemote id o (remoteTrap r.reason (p + BitVec.ofNat 64 (pieceOf target n r.piece).1))
    else if !o.left.contains r.piece then s
    else
      let s := match o.kind with
        | .rget _ _ _ _ => s.getArrives id o a spm target n r
        | _ => s.setOp id (fun o => { o with left := o.left.erase r.piece })
      let s := match s.engines.find? id with
        | some o => if o.left.isEmpty && o.queue.isEmpty then s.completeRemote id o else s
        | none => s
      match o.kind with
      | .coll l _ _ _ _ _ => s.collRun l
      | _ => s
  | _, _ => s
/-- A response to a RATOM: the old value, or a precise REMOTE trap (R40, R404). -/
def State.ratomResponse (s : State) (r : Response) : State :=
  match s.ratomOf r.op with
  | none => s
  | some (t, d, acq, pc, p) =>
    if r.reason ≠ 0 then s.takeTraps [(t, pc, remoteTrap r.reason p)]
    else
      let s := if acq then s.acquire (s.coreOf t) else s
      (s.writePair t d (BitVec.ofNat 64 (natOfBytes r.data))).wake t
/-- REMOTE_RESPONSE: data or an acknowledgement returns (R40, R138, R403, R404); one that no operation waits for is discarded, and
one for another device goes on (R398), unless nothing answers here (R449). Where a kernel here has forwarded the piece, its
outcome is known now (R433). -/
def execRemoteResponse (r : Response) (s : State) : Answer :=
  let s := { s with responses := s.responses.erase (s.self, r) }
  .next (if !s.up then s else
    let s := s.pieceBack r
    (if r.dst ≠ s.self then { s with responses := s.responses ++ [(r.dst, r)] }
    else match s.engines.find? r.op with
      | some o => s.opResponse r.op o r
      | none => s.ratomResponse r).settleBarriers)

/-! ## Links and budgets (R398, R400) -/

/-- LINK_DOWN: a port's link is down (R398). -/
def execLinkDown (port : Nat) (s : State) : Answer :=
  .next (if port < 32 ∧ port ∉ s.linksDown then { s with linksDown := s.linksDown ++ [port] } else s)
/-- LINK_UP: a port's link is up again. -/
def execLinkUp (port : Nat) (s : State) : Answer := .next { s with linksDown := s.linksDown.filter (· ≠ port) }
/-- TOKEN_BUCKET_REFILL: RATE flits join a function's bucket, up to BURST (R400). -/
def execTokenBucketRefill (func : Nat) (s : State) : Answer :=
  let c := (s.greg (.c0rate func)).toNat
  .next { s with buckets := s.buckets.set 0 func (min (fld c 31 16) (Tbl.get 0 s.buckets func + fld c 15 0)) }

end Sys2Proof.Machine
end

