-- ==== Sys2Proof/Machine/ThreadEvents.lean ====
section
/-! DEFINITION. Events in the lives of threads and tasks: results, the end of a thread and of a task, successors, page-fault
service, deferred traps, gating and hang reports (R210-R216, R222, R223, R233, R376, R381, R389). -/
namespace Sys2Proof.Machine

/-! ## Threads (R210, R233, R376) -/

/-- RESULT_RETURN: the oldest outstanding result of a thread is written (R233). -/
def execResultReturn (t : ThreadRef) (s : State) : Answer := .next (s.modThread t Thread.returnOne)
/-- THREAD_END: an EXITing thread ends once its results and stores are complete; a TAIL that waits goes on once the tracker
has room (R210, R211), an XSUCC once it is the task's last thread (R212). -/
def execThreadEnd (t : ThreadRef) (s : State) : Answer :=
  .next (match (s.thread t).status with
    | .exiting =>
      if (s.thread t).pend.isEmpty && (s.storesOf t).isEmpty then ((s.stopThread t).afterEnd t.task).collTask t.task else s
    | .parked .tracker => (s.tailGo t).collTask t.task
    | .parked (.xsucc _) => if s.isResident t then s.afterEnd t.task else s
    | _ => s)
/-- A thread has ended, waits, or is parked by a trap (R376). -/
def Thread.rests (th : Thread) : Bool := th.status == .ended || th.status.waits
/-- DEFERRED_TRAP_ENTRY: a deferred-lane trap enters its handler once the task's other threads rest (R376). -/
def execDeferredTrapEntry (t : ThreadRef) (s : State) : Answer :=
  .next (match (s.thread t).status with
    | .parked (.deferred i) =>
      if s.isResident t && (s.threadsOf t.task).all (fun th => th.tid == t.tid || th.rests) then (s.takeRecord t (s.recordOf t i)).settleBarriers
      else s
    | _ => s)

/-! ## Page faults (R296, R381, R389) -/

/-- Threads parked under a token run their region again, or take PAGE as a precise trap at their word (R389). -/
def State.resumeThreads (s : State) (tok : Nat) (fail : Bool) : State :=
  s.threads.foldl (fun s e =>
    match e.2.status with
    | .parked (.page n i) =>
      if n ≠ tok then s
      else if fail then s.takeTraps [(e.2.ref, e.2.pc, i)]
      else (s.rollback e.2.ref).wake e.2.ref
    | _ => s) s
/-- A stream suspended under a token goes on (once its task is restored, if it is saved), or ends at its rank with PAGE for the
member of that rank (R296); that of a task that has been killed is over (R379). -/
def State.resumeStreams (s : State) (tok : Nat) (fail : Bool) : State :=
  s.tasks.foldl (fun s e =>
    e.2.phases.foldl (fun s x =>
      match x.2.susp with
      | some (n, i) =>
        if n ≠ tok ∨ (s.task e.1).status = .ended then s
        else
          let t : ThreadRef := ⟨e.1, 32 * (x.1 / 12)⟩
          if !fail then
            if s.isResident t then s.resumeStream t (x.1 % 12)
            else s.setPhase t (x.1 % 12) { x.2 with susp := some (0, i) }
          else
            let m := x.2.selected.getD x.2.rank 0
            (s.endStream t (x.1 % 12) { x.2 with susp := none } x.2.rank).takeTraps [(onLane t m, (x.2.op m).pc, i)]
      | none => s) s) s
/-- An engine operation ends with the trap that its suspension becomes (R341, R389). -/
def State.failSuspended (s : State) (id : Nat) (o : EngineOp) (i : TrapInfo) : State :=
  match o.kind with
  | .mxgo _ _ _ _ _ => s.failMxgo id o i
  | .remap k _ => s.breakRemap id o k i
  | .tcopy _ _ _ _ _ _ _ _ _ _ => s.failCopy id o i
  | .rget _ _ _ _ | .rput _ _ _ _ _ _ _ | .tsend _ _ _ _ _ _ | .coll _ _ _ _ _ _ => s.failRemote id o i
  | _ => s.failOp id o (some i)
/-- Engine operations suspended under a token go on or fail (R30, R389). -/
def State.resumeEngines (s : State) (tok : Nat) (fail : Bool) : State :=
  s.engines.foldl (fun s e =>
    match e.2.susp with
    | some (n, i) =>
      if n ≠ tok then s
      else if fail then s.failSuspended e.1 e.2 i
      else s.setOp e.1 (fun o => { o with susp := none })
    | none => s) s
/-- RESUME: the host answers a token of the function; an unknown one is ignored (R389), and a write with a reserved bit set is
ignored whole and counted (R7, R446). -/
def execResume (func : Nat) (v : BitVec 64) (s : State) : Answer :=
  let tok := fld v.toNat 31 0
  let fail := bitOf v.toNat 32
  .next (if !s.up ∨ 96 < func then s
  else if 2 ^ 33 ≤ v.toNat then s.bumpF func .werr
  else match s.tokens.find? tok with
    | none => s
    | some k =>
      if k.func ≠ func then s
      else
        let s := { s with tokens := Tbl.erase s.tokens tok }
        (((s.resumeThreads tok fail).resumeStreams tok fail).resumeEngines tok fail).settleBarriers)
/-- PFQ_RECORD_RELEASE: the oldest held record of a function is written once its queue has room (R381). -/
def execPfqRecordRelease (func : Nat) (s : State) : Answer :=
  .next (match s.heldPage.find? (fun e => e.1 == func) with
    | none => s
    | some e =>
      let ring := s.freg func .pfq
      let tail := s.freg func .pfqtail
      if ringRoom ring tail (s.freg func .pfqhead) 64 then
        ({ s with heldPage := s.heldPage.erase e }.wrN (ringSlot ring tail 64) e.2.pack).bumpF func .pfqtail
      else s)

/-! ## The end of a task (R211, R215) -/

/-- A store of a task, or of one that it succeeds, has not drained (R210, R213). -/
def State.undrained (s : State) (k : Task) : Bool :=
  let mine := fun (e : TrackEntry) => e.task == k.age || k.earlier.contains e.task
  s.tracker.any (fun e => e.2.any mine) || s.regq.any (fun e => e.2.any (fun r => r.srcs.any mine)) ||
    s.hostq.any (fun w => mine w.src)
/-- TASK_RESOURCES_FREE: with its stores drained and its operations over, a task's SPM, TMEM lease and tensor table are
freed; its launch may complete (R211, R215). -/
def execTaskResourcesFree (task : Nat) (s : State) : Answer :=
  .next (match s.tasks.find? task with
    | none => s
    | some k =>
      if k.status ≠ .ended ∨ s.undrained k ∨ s.engines.any (fun e => e.2.task == task) then s
      else
        let s := s.collTask task
        let s := k.handles.foldl (fun s h => s.dropHandle task h.1) s
        let s : State := { s with
          tmems := s.tmems.map (fun e => if e.2.lease = some task then (e.1, { e.2 with lease := none }) else e)
          tasks := Tbl.erase s.tasks task
          threads := s.threads.filter (fun e => e.2.task != task) }
        let s := s.unretryAll (fun r => r == .task task)
        (s.modLaunch k.launch (fun l => { l with done := l.done + 1 })).finishLaunch k.launch)

/-! ## Placing threads (R201, R205, R214) -/

/-- Registers of a core's pool. -/
def poolRegs : Nat := 262144
/-- A task whose threads are on a core. -/
def Task.on (k : Task) (core : Nat) : Bool := k.phys == core && (k.status == .resident || k.status == .saving)
/-- Registers of a core's pool that are taken: those of threads that have not ended (R210). -/
def State.regsUsed (s : State) (core : Nat) : Nat :=
  ((s.tasks.filter (fun e => e.2.on core)).map (fun e => (s.liveOf e.1).length * e.2.regs)).sum
/-- Posies on a petal that hold a thread. -/
def State.posiesOn (s : State) (core petal : Nat) : Nat :=
  ((s.petalThreads core petal).foldl (fun (l : List (Nat × Nat)) th =>
    if l.contains (th.task, th.tid / 32) then l else (th.task, th.tid / 32) :: l) []).length
/-- Posies that `n` threads put on a petal (R201). -/
def posiesFor (n petal : Nat) : Nat := ((n + 31) / 32 + 3 - petal) / 4
/-- Registers and posies of a core allow a task of `n` threads (R367). -/
def State.threadsFit (s : State) (core n regs : Nat) : Bool :=
  decide (s.regsUsed core + n * regs ≤ poolRegs) &&
    (List.range 4).all (fun p => decide (s.posiesOn core p + posiesFor n p ≤ 32))
/-- A thread as it starts (R213, R214). -/
def startThread (task tid : Nat) (entry arg : DWord) (tick : Nat) : Thread :=
  { task := task, tid := tid, pc := entry, regionPc := entry,
    regs := Tbl.set 0 (Tbl.set 0 [] 0 (loWord arg)) 1 (hiWord arg), since := tick }
/-- The threads of a task are placed, ready from their first fetch (R373); they start with an acquire, after the queue write and
the dependences that let them start (R142, R144, R145). -/
def State.startThreads (s : State) (task n : Nat) (entry arg : DWord) : State :=
  let core := (s.task task).phys
  let s := (List.range n).foldl (fun (s : State) i =>
    { s with threads := s.threads.put (tkey ⟨task, i⟩) (startThread task i entry arg s.tick) }) s
  { s with gates := s.gates.filter (fun e => e.1 / 4 != core) }.acquire core
/-! ## Gating and hang reports (R222, R223) -/

/-- Every resident thread of a petal waits. -/
def State.petalWaits (s : State) (core petal : Nat) : Bool :=
  let ths := s.petalThreads core petal
  !ths.isEmpty && ths.all (fun th => th.status.waits)
/-- PETAL_POWER_GATE: after T1 of continuous waiting a petal is power-gated (R222). -/
def execPetalPowerGate (core petal : Nat) (s : State) : Answer :=
  .next (if s.gates.find? (petalKey core petal) = some .clock ∧ s.petalWaits core petal then
    { s with gates := s.gates.put (petalKey core petal) .power } else s)
/-- SUB and the object of a wait (R223). -/
def Wait.hang : Wait → Option (Nat × DWord)
  | .phase k => some (1, BitVec.ofNat 64 k)
  | .waitk k => some (2, BitVec.ofNat 64 k)
  | .bwait off _ _ => some (3, BitVec.ofNat 64 off)
  | .mwait _ va _ _ _ _ => some (4, va)
  | .sigw _ va _ _ => some (4, va)
  | .ldq ch _ _ _ => some (5, BitVec.ofNat 64 ch)
  | .stq ch _ _ => some (6, BitVec.ofNat 64 ch)
  | .lock n _ => some (7, BitVec.ofNat 64 n.va)
  | .lockHeld r => some (7, BitVec.ofNat 64 r.name.va)
  | .xsucc va => some (8, va)
  | .tracker => some (8, 0)
  | .launch _ _ va _ => some (9, va)
  | .rfence => some (10, 0)
  | .ratom _ _ _ _ p => some (11, p)
  | .page _ i => some (12, i.va)
  | .deferred i => some (13, i.va)
  | .lkrall | .skrel _ _ | .retry _ => none
/-- HANG_REPORT: after T2 of continuous waiting on a petal, one record per task and waited-on object, of its lowest waiting
TID, as a release (R223, R381); a mask is its posy's (R205). -/
def execHangReport (core petal : Nat) (s : State) : Answer :=
  .next (if !s.petalWaits core petal then s
  else
    ((s.petalThreads core petal).foldl (fun (a : List (Nat × Nat × Nat × DWord) × State) th =>
      match th.status with
      | .parked w =>
        match w.hang with
        | some (sub, va) =>
          let object := (th.task, if sub ≤ 2 then posyOf th.ref else 0, sub, va)
          if a.1.contains object then a
          else
            let r := { a.2.recordOf th.ref { code := trapHang, sub := sub, va := va } with precise := false }
            (object :: a.1, (a.2.drain core).pushFault (a.2.task th.task).func r)
        | none => a
      | _ => a) ([], s)).2)

end Sys2Proof.Machine
end

