-- ==== Sys2Proof/Machine/Queues.lean ====
section
/-! DEFINITION. Launch records, the hardware work queues, LAUNCH, and the check of a record at the arbiter (R18, R142,
R360-R364, R387, R413, R414, R454). -/
namespace Sys2Proof.Machine

/-! ## The launch record (R360, R361, R413) -/

/-- The static checks of a record: its fields, or none where R361, R225, R368 or R413 reject it. -/
def LaunchRec.parse (b : List Byte) : Option LaunchRec :=
  let d := dwOf b
  let stages := fld (d 1) 2 0
  let nchan := fld (d 1) 13 8
  let stageOf := fun (i : Nat) =>
    if i = 0 then (fld (d 0) 55 0, bitOf (d 1) 3, fld (d 3) 42 32, fld (d 3) 54 48)
    else (fld (d (18 + 2 * i)) 55 0, bitOf (d (18 + 2 * i)) 63, fld (d (19 + 2 * i)) 10 0, fld (d (19 + 2 * i)) 22 16)
  let st := (List.range stages).map stageOf
  let chan := fun (i : Nat) => let v := fld (d (26 + i / 16)) (4 * (i % 16) + 3) (4 * (i % 16)); (v % 4, v / 4)
  let grid := fld (d 2) 31 0 * fld (d 2) 63 32 * fld (d 3) 31 0
  let kind := fld (d 16) 35 32
  let zeros := onlyBits (d 0) [(55, 0)] && onlyBits (d 1) [(3, 0), (13, 8)] && onlyBits (d 3) [(42, 0), (54, 48)] &&
    onlyBits (d 4) [(35, 0), (41, 40), (51, 48)] && onlyBits (d 5) [(55, 0)] && onlyBits (d 7) [(55, 0)] &&
    (List.range 4).all (fun i => onlyBits (d (8 + 2 * i)) [(55, 0)]) && onlyBits (d 16) [(45, 0)] &&
    onlyBits (d 18) [(55, 0)] && onlyBits (d 19) [(55, 0)] &&
    (List.range 3).all (fun i => onlyBits (d (20 + 2 * i)) [(55, 0), (63, 63)] &&
      onlyBits (d (21 + 2 * i)) [(10, 0), (22, 16)]) && d 30 == 0 && d 31 == 0
  let unused := ((List.range 4).drop stages).all (fun i => stageOf i == (0, false, 0, 0)) &&
    ((List.range 48).drop nchan).all (fun i => chan i == (0, 0))
  let ranges := decide (1 ≤ stages ∧ stages ≤ 4 ∧ nchan ≤ 48 ∧ 1 ≤ grid ∧ grid * stages ≤ 2 ^ 24 ∧
    fld (d 4) 31 0 ≤ 524288 ∧ fld (d 4) 35 32 ≤ 9) &&
    st.all (fun x => decide (x.1 % 12 = 0 ∧ 1 ≤ x.2.2.1 ∧ x.2.2.1 ≤ 1024 ∧ 1 ≤ x.2.2.2 ∧ x.2.2.2 ≤ 64) &&
      (!x.2.1 || decide (x.2.2.1 ≤ 32)))
  let shape := st.any (fun x => !x.2.1) && decide ((st.filter (fun x => !x.2.1)).length ≤ 2 ^ fld (d 4) 35 32) &&
    (List.range nchan).all (fun i => decide ((chan i).1 < (chan i).2 ∧ (chan i).2 < stages)) &&
    (!bitOf (d 4) 51 || decide (d 19 ≠ 0 ∧ d 19 % 65536 = 0))
  let coll := fld (d 16) 31 0 == 0 || (decide (d 18 ≠ 0 ∧ 1 ≤ kind ∧ kind ≤ 3 ∧ fld (d 17) 63 24 = 0) &&
    !bitOf (d 16) 39 && decide (fld (d 16) 38 36 ≤ if kind = 3 then 0 else 4))
  if zeros && unused && ranges && shape && coll then
    some
      { stages := stages, entry := st.map (fun x => BitVec.ofNat 64 x.1), kind := st.map (fun x => x.2.1),
        threads := st.map (fun x => x.2.2.1), regs := st.map (fun x => x.2.2.2), nchan := nchan,
        chmap := (List.range nchan).map chan, gridx := fld (d 2) 31 0, gridy := fld (d 2) 63 32, gridz := fld (d 3) 31 0,
        scratch := fld (d 4) 31 0, coresLog2 := fld (d 4) 35 32, cls := fld (d 4) 41 40, donate := bitOf (d 4) 48,
        inorder := bitOf (d 4) 49, strict := bitOf (d 4) 50, poruf := bitOf (d 4) 51, doneSig := BitVec.ofNat 64 (d 5),
        doneDec := BitVec.ofNat 64 (d 6), trigSig := BitVec.ofNat 64 (d 7),
        deps := (List.range 4).map (fun i => (BitVec.ofNat 64 (d (8 + 2 * i)), BitVec.ofNat 64 (d (9 + 2 * i)))),
        collid := fld (d 16) 31 0, collop := fld (d 16) 39 32, result := fld (d 16) 45 40,
        chunkmap := BitVec.ofNat 64 (d 17), group := BitVec.ofNat 64 (d 18), ovf := BitVec.ofNat 64 (d 19),
        arg := BitVec.ofNat 64 (d 29) }
  else none

/-- A peer-group descriptor from its doublewords (R414). -/
def Group.parse (self : Nat) (q : List Nat) : Option Group :=
  let d := fun (i : Nat) => q.getD i 0
  let g := fld (d 0) 3 0
  let me := fld (d 0) 17 8
  let member := fun (v : Nat) => fld (d (8 + v / 4)) (16 * (v % 4) + 15) (16 * (v % 4))
  let ms := (List.range (2 ^ g)).map member
  if 1 ≤ g ∧ g ≤ 10 ∧ me < 2 ^ g ∧ onlyBits (d 0) [(3, 0), (17, 8), (41, 32)] ∧ onlyBits (d 1) [(63, 32)] ∧
      onlyBits (d 2) [(6, 0)] ∧ (List.range 5).all (fun i => d (3 + i) == 0) ∧ ms.all (fun m => decide (m < 1024)) ∧
      ms.getD me 1024 = self then
    some { log2n := g, self := me, win := fld (d 0) 41 32, jobkey := BitVec.ofNat 32 (fld (d 1) 63 32),
           slot := fld (d 2) 5 0, sepv := bitOf (d 2) 6, members := ms }
  else none

/-! ## Queues (R362) -/

/-- V of a queue. -/
def State.qValid (s : State) (q : Nat) : Bool := bitOf (s.greg (.qcfg q)).toNat 0
/-- INORDER of a queue. -/
def State.qInorder (s : State) (q : Nat) : Bool := bitOf (s.greg (.qcfg q)).toNat 1
/-- LOG2SLOTS of a queue. -/
def State.qLog (s : State) (q : Nat) : Nat := fld (s.greg (.qcfg q)).toNat 27 24
/-- Address of the slot of a count. -/
def State.qSlot (s : State) (q j : Nat) : Nat := fld (s.greg (.qbase q)).toNat 51 8 * 256 + 256 * (j % 2 ^ s.qLog q)
/-- Counts between HEAD and TAIL. -/
def State.qUse (s : State) (q : Nat) : Nat := ringUse (s.greg (.qtail q)) (s.greg (.qhead q))
/-- The pending launches of a queue, in slot order. -/
def State.pendingOf (s : State) (q : Nat) : List Pending := s.pending.filter (fun p => p.q == q)
/-- A pending launch by its count. -/
def State.pending? (s : State) (q count : Nat) : Option Pending := (s.pendingOf q).find? (fun p => p.count == count)
/-- Change a pending launch. -/
def State.modPending (s : State) (q count : Nat) (f : Pending → Pending) : State :=
  { s with pending := s.pending.map (fun p => if p.q = q ∧ p.count = count then f p else p) }
/-- Take counts up to TAIL, each once HEAD has passed the count a ring before it (R362). -/
def State.takeRecords : Nat → State → Nat → State
  | 0, s, _ => s
  | n + 1, s, q =>
    let j := Tbl.get 0 s.taken q
    if j ≠ (s.greg (.qtail q)).toNat % 2 ^ 32 ∧
        ringUse (BitVec.ofNat 64 j) (s.greg (.qhead q)) < 2 ^ s.qLog q then
      State.takeRecords n { s with
        taken := Tbl.set 0 s.taken q ((j + 1) % 2 ^ 32)
        pending := s.pending ++ [⟨q, j, {}, none, false, [false, false, false, false], none⟩] } q
    else s
/-- A queue write: TAIL moves, and the device takes what it may (R142, R362). -/
def State.setTail (s : State) (q tail : Nat) : State :=
  let s := s.setGreg (.qtail q) (BitVec.ofNat 64 (tail % 2 ^ 32))
  State.takeRecords (2 ^ s.qLog q) s q
/-- The slot at TAIL is written, and TAIL moves on (R387). -/
def State.queueSlot (s : State) (q : Nat) (b : List Byte) : State :=
  let j := (s.greg (.qtail q)).toNat
  let a := s.qSlot q j
  (if a + 256 ≤ devTop then s.wrN a b else s).setTail q (j + 1)

/-! ## LAUNCH (R387) -/

/-- The copy of a LAUNCH into the ring, a release of its thread. -/
def State.launchCopy (s : State) (t : ThreadRef) (q : Nat) (va : DWord) : Res Unit :=
  (s.memReadRun t va 16 16).andThen fun b s => .ok () ((s.drain (s.coreOf t)).queueSlot q b)
/-- Room for one more record. -/
def State.qRoom (s : State) (q : Nat) : Bool := decide (s.qUse q < 2 ^ s.qLog q)
/-- LAUNCH and LAUNCH.nb. -/
def launchWord (f : FmtSA) (nb : Bool) (s : State) : State :=
  runLanes (fun s t =>
    let va := s.readPair t f.a.toNat
    let q := (s.readG t f.d.toNat).toNat
    let answer := fun (s : State) (st : Nat) => Res.ok () ((s.writeG t f.d.toNat (BitVec.ofNat 32 st)).commit t)
    if va.toNat % 64 ≠ 0 then .trapAt trapAlign 0 va s
    else if 8191 < q ∨ s.qValid q = false ∨ s.qFunc q ≠ (s.task t.task).func then answer s 2
    else if !s.qRoom q then
      if nb then answer s 1 else .ok () (s.stand t (.parked (.launch q (s.thread t).pc va f.d.toNat)))
    else (s.launchCopy t q va).andThen fun _ s => answer s 0) s
/-- LAUNCH: queues a launch, parking while the ring is full (R387). -/
def execLaunch (f : FmtSA) (s : State) : Answer := .next (launchWord f false s)
/-- LAUNCH.nb: queues a launch, or answers FULL (R387). -/
def execLaunchNb (f : FmtSA) (s : State) : Answer := .next (launchWord f true s)
/-- The LAUNCH in which a thread waits. -/
def Thread.launching (th : Thread) : Option Wait :=
  match th.status, th.second with
  | .parked (.launch q pc va d), _ => some (.launch q pc va d)
  | _, some (.parked (.launch q pc va d)) => some (.launch q pc va d)
  | _, _ => none
/-- Parked LAUNCHes of a queue go on while there is room, ascending (TASK, TID); what the copy meets is met at the LAUNCH word
(R387, R389). A thread that an earlier one's trap has ended copies nothing (R379). -/
def State.serveLaunches (s : State) (q : Nat) : State :=
  s.threads.foldl (fun s e =>
    match (s.thread e.2.ref).launching with
    | some (.launch q' pc va d) =>
      if q' = q ∧ s.qRoom q then
        match s.launchCopy e.2.ref q va with
        | .ok _ s => ((s.writeG e.2.ref d 0).commitHere e.2.ref).release e.2.ref (.launch q' pc va d)
        | .stop (.trap i) s => s.takeTraps [(e.2.ref, pc, i)]
        | .stop r s => (s.modThread e.2.ref (fun th => { th with pc := pc })).takeStop e.2.ref r
      else s
    | _ => s) s
/-- HEAD passes every count whose launch is dispatched or rejected; later counts are taken, and LAUNCHes go on (R362). -/
def State.headGo (s : State) (q : Nat) : State :=
  let h := match s.pendingOf q with
    | p :: _ => p.count
    | [] => Tbl.get 0 s.taken q
  let s := s.setGreg (.qhead q) (BitVec.ofNat 64 h)
  (State.takeRecords (2 ^ s.qLog q) s q).serveLaunches q
/-- QUEUE_WRITE: a function writes QTAIL; where the queue is not its own or disabled, that is ignored and counted
(R362, R446). -/
def execQueueWrite (func q : Nat) (tail : BitVec 32) (s : State) : Answer :=
  .next (if !s.up then s
  else if 8191 < q ∨ s.qFunc q ≠ func ∨ s.qValid q = false then s.bumpF func .werr
  else s.setTail q tail.toNat)

/-! ## Eligibility and arming (R364, R416) -/

/-- A pending launch of a queue is eligible, among the queue's pending launches in slot order (R364). -/
def eligible (inorder : Bool) (l : List Pending) (p : Pending) : Bool :=
  p.ready && p.met.all id &&
    (match l.takeWhile (fun x => x.count != p.count) with
      | [] => true
      | before => before.all (fun x => x.ready && !x.rcd.inorder) && !inorder && !p.rcd.inorder)
/-- Collectives whose launch is first eligible now are armed (R416). -/
def State.armEligible (s : State) (q : Nat) : State :=
  let l := s.pendingOf q
  (l.filter (fun p => eligible (s.qInorder q) l p && p.rcd.collid != 0 && p.coll.isNone)).foldl (fun s p =>
    s.modPending q p.count (fun p => { p with coll := some {} })) s
/-- A launch is rejected: bit 63 and the decrements of its two signals, and its slot is passed (R361, R215). -/
def State.rejectLaunch (s : State) (q count : Nat) (doneSig doneDec trigSig : DWord) : State :=
  let f := s.qFunc q
  let a := s.qAsid q
  let s := { s with pending := s.pending.filter (fun p => !(p.q == q && p.count == count)) }
  let s := s.signalDec f a 0 doneSig true doneDec
  let s := s.signalDec f a 0 trigSig true 1
  (s.headGo q).armEligible q

/-! ## LAUNCH_CHECK and DEPENDENCE_RECHECK (R361, R363) -/

/-- What a read of a dependence finds. -/
inductive DepRead
  | met (err : Bool)
  | unmet
  | bad
  /-- Its page migrates, or a host page is not translated yet. -/
  | wait
  deriving DecidableEq, Repr
/-- Read a dependence signal (R363, R454); the read that finds it met is an acquire (R144). -/
def State.depRead (s : State) (func asid : Nat) (d : DWord × DWord) : DepRead × State :=
  if d.1 = 0 then (.met false, s)
  else
    let l := s.signalLoc func asid 0 d.1 .read
    match l.1 with
    | .bad => (.bad, l.2)
    | .wait => (.wait, l.2)
    | .found p =>
      let r := l.2.deviceRead p 8
      let v := natOfBytes r.1
      (if v % 2 ^ 63 ≤ d.2.toNat then .met (bitOf v 63) else .unmet, r.2)
/-- Read the dependences that are not met yet. -/
def State.readDeps (s : State) (func asid : Nat) : List ((DWord × DWord) × Bool) → List DepRead × State
  | [] => ([], s)
  | (d, met) :: r =>
    let x := if met then (.met false, s) else s.depRead func asid d
    let y := x.2.readDeps func asid r
    (x.1 :: y.1, y.2)
/-- The dependences are read: the launch is rejected, or what is met is noted. -/
def State.applyDeps (s : State) (q count : Nat) (r : LaunchRec) (l : List DepRead) : State :=
  if l.any (fun x => x == .bad || x == .met true) then s.rejectLaunch q count r.doneSig r.doneDec r.trigSig
  else (s.modPending q count (fun p => { p with met := l.map (fun x => x == .met false) })).armEligible q
/-- Doublewords of an address space as the device reads them. -/
def State.readVa (s : State) (asid : Nat) (va : DWord) : Nat → Res (List Nat)
  | 0 => .ok [] s
  | n + 1 =>
    (s.locateVia .device asid va 8 .read).andThen fun l s =>
      if !l.host && s.poisoned l.pa then .trap trapCorrupt 0 s
      else
        let r := s.deviceRead l 8
        (r.2.readVa asid (va + 8) n).andThen fun q s => .ok (natOfBytes r.1 :: q) s
/-- The group descriptor at GROUP: none where it cannot be read or fails R414; its JOBKEY is that of the members' valid peer
entries. -/
def State.readGroup (s : State) (asid : Nat) (va : DWord) : Res (Option Group) :=
  if va.toNat % 64 ≠ 0 then .ok none s
  else
    (s.readVa asid va 8).andThen fun q s =>
      let g := fld (q.getD 0 0) 3 0
      if g = 0 ∨ 10 < g then .ok none s
      else (s.readVa asid (va + 64) ((2 ^ g + 3) / 4)).andThen fun m s =>
        match Group.parse s.self (q ++ m) with
        | none => .ok none s
        | some x =>
          let r := x.members.foldl (fun (a : Bool × State) m =>
            let e := a.2.peerOf? asid m
            (a.1 && (match e.1 with
              | some d => hiWord (d.getD 0 0) == x.jobkey
              | none => true), e.2)) (true, s)
          .ok (if r.1 then some x else none) r.2
/-- The whole check of a record that has been read (R18, R361). -/
def State.checkLaunch (s : State) (q count : Nat) (b : List Byte) : State :=
  let f := s.qFunc q
  let a := s.qAsid q
  let d := fun (i : Nat) => BitVec.ofNat 64 (fld (dwOf b i) 55 0)
  let reject := fun (s : State) => s.rejectLaunch q count (d 5) (BitVec.ofNat 64 (dwOf b 6)) (d 7)
  let c := s.ctx a
  let s := c.2
  if s.bootFail || !ctxValid c.1 then reject s
  else match LaunchRec.parse b with
    | none => reject s
    | some r =>
      let g := if r.group = 0 then .ok none s else s.readGroup a r.group
      match g with
      | .stop (.retry _) s => s
      | .stop _ s => reject s
      | .ok g s =>
        let big := match g with
          | some g =>
            let n : ArmedColl := { job := g.jobkey.toNat, id := r.collid, group := g, func := f, asid := a, coll := {} }
            decide (r.collid ≠ 0) && (decide (s.collPools.1 < n.need.1) || decide (s.collPools.2 < n.need.2))
          | none => false
        if (decide (r.group ≠ 0) && g.isNone) || big then reject s
        else
          let x := s.readDeps f a (r.deps.map (fun e => (e, false)))
          (x.2.modPending q count (fun p => { p with rcd := r, group := g, ready := true })).applyDeps q count r x.1
/-- LAUNCH_CHECK: a record is read at the arbiter and rejected if invalid; launches wait until memory is ready
(R361, R449). -/
def execLaunchCheck (q count : Nat) (s : State) : Answer :=
  .next (match s.pending? q count with
    | none => s
    | some p =>
      if p.ready || !(s.memReady || s.bootFail) then s
      else
        let a := s.qSlot q count
        let r := if a + 256 ≤ devTop then s.readBytesAt (homeDie (a / 256)) a 256 else ([], s)
        r.2.checkLaunch q count r.1)
/-- DEPENDENCE_RECHECK: the dependences of a launch that are not met are read again (R363). -/
def execDependenceRecheck (q count : Nat) (s : State) : Answer :=
  .next (match s.pending? q count with
    | none => s
    | some p =>
      if !p.ready || p.met.all id then s
      else
        let x := s.readDeps (s.qFunc q) (s.qAsid q) (p.rcd.deps.zip p.met)
        x.2.applyDeps q count p.rcd x.1)

end Sys2Proof.Machine
end

