-- ==== Sys2Proof/Machine/Sched.lean ====
section
/-! DEFINITION. The arbiter, the dispatcher, placement on cores, admission, stage rebalancing and work donation
(R101, R201, R214, R364-R374). -/
namespace Sys2Proof.Machine

/-! ## Arbitration (R365) -/

/-- A pending launch may be chosen: it is eligible, and a collective that it carries has its reservations (R364, R416). -/
def State.choosable (s : State) (p : Pending) : Bool :=
  eligible (s.qInorder p.q) (s.pendingOf p.q) p && (match p.coll with
    | some c => c.reserved
    | none => true)
/-- The member of a list that comes next after `from_`, ascending and wrapping at `n`. -/
def nextAfter (n from_ : Nat) (l : List Nat) : Option Nat :=
  l.foldl (fun b x =>
    match b with
    | none => some x
    | some y => if (x + 2 * n - from_ - 1) % n < (y + 2 * n - from_ - 1) % n then some x else b) none
/-- The launch that the arbiter selects, with its class, function and the class's credit afterwards (R365). -/
def State.arbitrate (s : State) : Option (Pending × Nat × Nat × Nat) :=
  let l := s.pending.filter s.choosable
  (List.range 4).findSome? (fun c =>
    let lc := l.filter (fun p => p.rcd.cls == c)
    let fs := lc.map (fun p => s.qFunc p.q)
    let ptr := s.arbPtr.getD c 0
    let cr := s.arbCr.getD c 0
    let f := if fs.contains ptr && decide (0 < cr) then some (ptr, cr)
      else (nextAfter 128 ptr fs).map (fun f => (f, fld (s.greg (.fweight f)).toNat 7 0))
    match f with
    | none => none
    | some (f, cr) =>
      let lf := lc.filter (fun p => s.qFunc p.q == f)
      match nextAfter 8192 ((assoc s.lastQ (f, c)).getD 8191) (lf.map Pending.q) with
      | none => none
      | some q => (lf.find? (fun p => p.q == q)).map (fun p => (p, c, f, cr - 1)))

/-! ## Mapping (R366, R374) -/

/-- The reserved cores in reservation order (R374). -/
def State.reservedCores (s : State) : List Nat :=
  (List.range (fld (s.greg .c0res).toNat 6 0)).map (fun i => 128 * (i % 4) + 8 * (i / 4) + 7)
/-- A class-0 task occupies a core, or waits for it. -/
def State.class0On (s : State) (core : Nat) : Bool :=
  s.tasks.any (fun e => e.2.phys == core && e.2.status != .saved && ((s.launch? e.2.launch).map (fun l => l.rcd.cls)) == some 0) ||
    s.launches.any (fun e => e.2.rcd.cls == 0 && e.2.waiting.any (fun w => w.phys == core))
/-- Registers that a task of a stage takes. -/
def LaunchRec.taskRegs (r : LaunchRec) (stage : Nat) : Nat := r.threads.getD stage 0 * r.regs.getD stage 0
/-- The reserved registers of a block: of tasks admitted on it and of tasks that wait for it (R366). -/
def State.blockRegs (s : State) (base n : Nat) : Nat :=
  let inside := fun (p : Nat) => decide (base ≤ p) && decide (p < base + n)
  ((s.tasks.filter (fun e => inside e.2.phys && e.2.status != .ended && e.2.status != .saved)).map
      (fun e => e.2.threads * e.2.regs)).sum +
    (s.launches.map (fun e => ((e.2.waiting.filter (fun w => inside w.phys)).map (fun w => e.2.rcd.taskRegs w.stage)).sum)).sum
/-- The block of 2^c cores with the fewest reserved registers; a block with a fenced core only where there is no other, and
one of nothing but fenced cores only where every block is one (R366, R453). -/
def State.bestBlock (s : State) (c : Nat) : Nat :=
  let bases := (List.range (512 / 2 ^ c)).map (fun i => i * 2 ^ c)
  let clean := bases.filter (fun b => !s.fencedCores.any (fun p => decide (b ≤ p) && decide (p < b + 2 ^ c)))
  let some_ := bases.filter (fun b => (List.range (2 ^ c)).any (fun i => !s.fencedCores.contains (b + i)))
  ((if !clean.isEmpty then clean else if !some_.isEmpty then some_ else bases).foldl (fun (best : Option (Nat × Nat)) b =>
    let r := s.blockRegs b (2 ^ c)
    match best with
    | none => some (b, r)
    | some x => if r < x.2 then some (b, r) else best) none).map Prod.fst |>.getD 0
/-- The core of a map onto which the fewest logical cores are mapped, the lowest on a tie (R396). -/
def leastUsed (cores : List Nat) (among : List Nat) : Option Nat :=
  (among.foldl (fun (best : Option (Nat × Nat)) p =>
    let n := (cores.filter (· == p)).length
    match best with
    | none => some (p, n)
    | some x => if n < x.2 ∨ (n = x.2 ∧ p < x.1) then some (p, n) else best) none).map Prod.fst
/-- A core map without some cores: each logical core on them moves to a core that the launch still uses, one outside `avoid`
(R396). -/
def remapCores (gone avoid : List Nat) (cores : List Nat) : List Nat :=
  let keep := cores.filter (fun p => !gone.contains p && !avoid.contains p)
  (List.range cores.length).foldl (fun cs i =>
    let p := cs.getD i 0
    if gone.contains p then
      match leastUsed cs keep with
      | some q => cs.set i q
      | none => cs
    else cs) cores
/-- The map from logical to physical cores (R366). -/
def State.mapCores (s : State) (r : LaunchRec) : List Nat :=
  let n := 2 ^ r.coresLog2
  let free := s.reservedCores.filter (fun p => !s.class0On p && !s.fencedCores.contains p)
  if r.cls = 0 ∧ n ≤ free.length then free.take n
  else remapCores s.fencedCores [] ((List.range n).map (fun i => s.bestBlock r.coresLog2 + i))

/-! ## Placement (R367, R368) -/

/-- EXEC stages in declaration order. -/
def LaunchRec.execs (r : LaunchRec) : List Nat := (List.range r.stages).filter (fun i => !r.kind.getD i false)
/-- The EXEC stages that a stage's channels reach, directly or through later ACCESS stages. -/
def LaunchRec.reaches (r : LaunchRec) : Nat → Nat → List Nat
  | 0, _ => []
  | k + 1, st => (r.chmap.filter (fun c => c.1 == st)).flatMap (fun c =>
      if r.kind.getD c.2 false then r.reaches k c.2 else [c.2])
/-- The EXEC stage whose placement a stage follows. -/
def LaunchRec.leader (r : LaunchRec) (st : Nat) : Option Nat :=
  if r.kind.getD st false then
    (r.reaches 4 st).foldl (fun b x => match b with
      | none => some x
      | some y => if x < y then some x else b) none
  else some st
/-- Logical cores that serve an EXEC stage, ascending, without those that are moving away. -/
def Launch.serving (l : Launch) (st : Nat) : List Nat :=
  (List.range l.serves.length).filter (fun i => l.serves.getD i 0 == st && !l.moved.any (fun m => m.1 == i))
/-- The logical core of a task as placed now (R367, R368). -/
def Launch.place (l : Launch) (st num : Nat) : Nat :=
  if l.rcd.stages = 1 then num % l.cores.length
  else match l.rcd.leader st with
    | none => num % l.cores.length
    | some e => let cs := l.serving e; cs.getD (num % cs.length) 0
/-- A task placed. -/
def Launch.waitTask (l : Launch) (st num : Nat) : WaitTask :=
  let c := l.place st num
  { num := num, stage := st, core := c, phys := l.cores.getD c 0 }
/-- The launch as dispatched: its map, the stages its cores serve, and every task placed (R366-R368). -/
def State.newLaunch (s : State) (p : Pending) : Launch :=
  let es := p.rcd.execs
  let cores := s.mapCores p.rcd
  let l : Launch :=
    { lseq := s.launchSeq.toNat, window := s.clock, q := p.q, func := s.qFunc p.q, asid := s.qAsid p.q, rcd := p.rcd, cores := cores,
      serves := (List.range cores.length).map (fun i => es.getD (i % es.length) 0), group := p.group, coll := p.coll }
  { l with waiting := (List.range p.rcd.stages).flatMap (fun st =>
      (List.range p.rcd.perStage).map (fun n => l.waitTask st n)) }
/-- DISPATCH: the arbiter selects a launch; it takes the next sequence number, its context is kept, and its tasks wait at
their cores (R17, R101, R362, R365-R368). -/
def execDispatch (s : State) : Answer :=
  .next (if !s.memReady then s
  else match s.arbitrate with
    | none => s
    | some (p, c, f, cr) =>
      let l := s.newLaunch p
      let d := s.ctx l.asid
      let s : State := { d.2 with
        ctxs := Tbl.put d.2.ctxs l.asid d.1
        launches := d.2.launches.put l.lseq l
        launchSeq := d.2.launchSeq + 1
        pending := d.2.pending.filter (fun x => !(x.q == p.q && x.count == p.count))
        arbPtr := d.2.arbPtr.set c f
        arbCr := d.2.arbCr.set c cr
        lastQ := assocSet d.2.lastQ (f, c) p.q }
      (s.headGo p.q).armEligible p.q)

/-! ## Admission (R367) -/

/-- Allocations of scratchpad on a core: base and size; a saved task holds none. -/
def State.spmHeld (s : State) (core : Nat) : List (Nat × Nat) :=
  s.tasks.filterMap (fun e =>
    if e.2.phys = core ∧ e.2.status ≠ .saved ∧ 0 < e.2.spmSize then some (e.2.spmBase, e.2.spmSize) else none)
/-- The lowest base at which `n` bytes are free on a core. -/
def State.spmRoom (s : State) (core n : Nat) : Option Nat :=
  let held := s.spmHeld core
  ((0 :: held.map (fun h => h.1 + h.2)).filter (fun b =>
      decide (b + n ≤ 524288) && held.all (fun h => decide (b + n ≤ h.1) || decide (h.1 + h.2 ≤ b)))).foldl
    (fun (m : Option Nat) b => match m with
      | none => some b
      | some x => some (min x b)) none
/-- SPMSIZE of a launch's tasks: SCRATCH rounded up to a multiple of 64 (R279). -/
def LaunchRec.spmSize (r : LaunchRec) : Nat := (r.scratch + 63) / 64 * 64
/-- Number of a task over all stages (R101). -/
def LaunchRec.number (r : LaunchRec) (w : WaitTask) : Nat := w.stage * r.perStage + w.num
/-- The tasks that wait for admission on a core, with their places in its order. -/
def State.waitingOn (s : State) (core : Nat) : List ((Nat × Nat × Nat) × Launch × WaitTask) :=
  s.launches.flatMap (fun e =>
    (e.2.waiting.filter (fun w => w.phys == core)).map (fun w => ((e.2.rcd.cls, e.2.lseq, e.2.rcd.number w), e.2, w)))
/-- The saved tasks that wait for a core, with their places (R396). -/
def State.savedOn (s : State) (core : Nat) : List ((Nat × Nat × Nat) × Task) :=
  s.tasks.filterMap (fun e =>
    if e.2.status = .saved ∧ e.2.phys = core then
      some ((((s.launch? e.2.launch).map (fun l => l.rcd.cls)).getD 0, e.2.lseq, taskNo e.1), e.2)
    else none)
/-- The member of a list with the first place. -/
def firstPlaced {α : Type} (l : List ((Nat × Nat × Nat) × α)) : Option ((Nat × Nat × Nat) × α) :=
  l.foldl (fun b x => match b with
    | none => some x
    | some y => if admitBefore x.1 y.1 then some x else b) none
/-- The tasks of stage `st` that wait for logical core `c` are placed on the stage's other cores, and with them those of the ACCESS
stages that follow them (R368, R369); donated ones stay where they are. -/
def Launch.replace (l : Launch) (st c : Nat) : Launch :=
  let here := fun (w : WaitTask) => w.core == c && w.phys == l.cores.getD c 0
  let back := (l.waiting.filter (fun w => here w && w.stage == st)).map WaitTask.num
  { l with waiting := l.waiting.map (fun w =>
      if here w ∧ l.rcd.leader w.stage = some st ∧ back.contains w.num then l.waitTask w.stage w.num else w) }
/-- A core of a launch still runs tasks of the stage that it served. -/
def State.runsStage (s : State) (lseq core st : Nat) : Bool :=
  s.tasks.any (fun e => e.2.launch == lseq && e.2.core == core && e.2.stage == st && e.2.status != .ended)
/-- Moved cores whose running tasks have ended serve their new stage (R369). -/
def State.settleMoves (s : State) (lseq : Nat) : State :=
  match s.launch? lseq with
  | none => s
  | some l =>
    l.moved.foldl (fun s m =>
      if s.runsStage lseq m.1 (l.serves.getD m.1 0) then s
      else s.modLaunch lseq (fun l =>
        { l with serves := l.serves.set m.1 m.2, moved := l.moved.erase m })) s
/-- A waiting task takes its age and starts (R101, R201, R205, R214, R367). -/
def State.admitTask (s : State) (l : Launch) (w : WaitTask) (base : Nat) : State :=
  let r := l.rcd
  let age := l.lseq * 2 ^ 24 + r.number w
  let k : Task :=
    { age := age, lseq := l.lseq, launch := l.lseq, stage := w.stage, num := w.num, x := w.num % r.gridx,
      y := w.num / r.gridx % r.gridy, z := w.num / (r.gridx * r.gridy), func := l.func, asid := l.asid, core := w.core,
      phys := w.phys, threads := r.threads.getD w.stage 1, regs := r.regs.getD w.stage 64, strict := r.strict,
      access := r.kind.getD w.stage false, spmBase := base, spmSize := r.spmSize }
  let s := { s with tasks := s.tasks.put age k }.modLaunch l.lseq (fun l =>
    { l with waiting := l.waiting.erase w, emptied := l.emptied.erase w.phys })
  s.startThreads age k.threads (r.entry.getD w.stage 0) r.arg
/-- TASK_ADMIT: the first task in a core's order is admitted once registers, scratchpad and posies fit; one that does not fit
holds back those after it (R367); none is admitted on a fenced core (R453). -/
def execTaskAdmit (core : Nat) (s : State) : Answer :=
  let s := s.launches.foldl (fun s e => s.settleMoves e.1) s
  .next (if s.fencedCores.contains core then s
  else match firstPlaced (s.waitingOn core) with
    | none => s
    | some (key, l, w) =>
      let r := l.rcd
      match s.spmRoom core r.spmSize with
      | some base =>
        if s.threadsFit core (r.threads.getD w.stage 1) (r.regs.getD w.stage 64) &&
            !(s.savedOn core).any (fun x => admitBefore x.1 key) then s.admitTask l w base
        else s
      | none => s)

/-! ## Rebalancing and donation (R369-R372) -/

/-- The fill of a stage's input channels summed over the cycles of the window, and the number of channels times cycles; a window in
which no cycle has passed counts the present fill, and a stage without input is full (R369). -/
def Launch.fill (l : Launch) (now st : Nat) : Nat × Nat :=
  let cs := (List.range l.rcd.nchan).filter (fun i => (l.rcd.chmap.getD i (0, 0)).2 == st)
  if cs.isEmpty then (32, 1)
  else if now ≤ l.window then ((cs.map (fun i => (l.chan i).fill)).sum, cs.length)
  else ((cs.map (fun i => (l.chan i).filled now)).sum, cs.length * (now - l.window))
/-- The stages between which a core moves: the first full one and, after it, the first idle one with two cores (R369). -/
def Launch.moves (l : Launch) (now : Nat) : Option (Nat × Nat) :=
  let es := l.rcd.execs
  es.findSome? (fun x =>
    let f := l.fill now x
    if f.1 < 24 * f.2 then none
    else (es.find? (fun y =>
      let g := l.fill now y
      decide (x < y) && decide (g.1 ≤ 8 * g.2) && decide (2 ≤ (l.serving y).length))).map (fun y => (x, y)))
/-- A new window begins. -/
def Launch.newWindow (l : Launch) (now : Nat) : Launch :=
  { l with window := now, chans := l.chans.map (fun e => (e.1, { e.2 with sum := 0, at_ := now })) }
/-- STAGE_REBALANCE: at the end of a window one core may move between stages; what waits for it goes back to its stage's other
cores (R369). -/
def execStageRebalance (lseq : Nat) (s : State) : Answer :=
  let s := s.settleMoves lseq
  .next (match s.launch? lseq with
    | none => s
    | some l =>
      let s' := s.modLaunch lseq (fun l => l.newWindow s.clock)
      match l.moves s.clock with
      | none => s'
      | some (x, y) =>
        let c := (l.serving y).getLastD 0
        (s'.modLaunch lseq (fun l => { l with moved := l.moved ++ [(c, x)] }.replace y c)).settleMoves lseq)
/-- A core holds no task and none waits for it (R370). -/
def State.idleCore (s : State) (core : Nat) : Bool :=
  decide (core < 512) && !s.fencedCores.contains core && !s.tasks.any (fun e => e.2.phys == core) &&
    !s.launches.any (fun e => e.2.waiting.any (fun w => w.phys == core))
/-- The tasks of a launch that wait on a bed, if they may be donated (R371). -/
def Launch.donates (l : Launch) (bed : Nat) : List WaitTask :=
  if l.rcd.donate && !l.pinned then l.waiting.filter (fun w => w.phys / 8 == bed) else []
/-- The greatest of a list by a measure, the first on a tie; none where the greatest is zero. -/
def greatest {α : Type} (f : α → Nat) (l : List α) : Option α :=
  (l.foldl (fun (b : Option α) x => match b with
    | none => if f x = 0 then none else some x
    | some y => if f y < f x then some x else b) none)
/-- STEAL_REQUEST: a bed with an idle core takes a task that has not started from the bed with the most (R370-R372). -/
def execStealRequest (core : Nat) (s : State) : Answer :=
  .next (if !s.idleCore core then s
  else
    let count := fun (bed : Nat) => (s.launches.map (fun e => (e.2.donates bed).length)).sum
    let victim := [0, 1, 2, 3].findSome? (fun i =>
      greatest count ((List.range 16).map (fun b => 16 * Nat.xor (core / 128) i + b)))
    match victim with
    | none => s
    | some bed =>
      match greatest (fun (e : Nat × Launch) => (e.2.donates bed).length) s.launches with
      | none => s
      | some (lseq, l) =>
        match greatest (fun w => l.rcd.number w + 1) (l.donates bed) with
        | none => s
        | some w => s.modLaunch lseq (fun l =>
            { l with waiting := l.waiting.map (fun x => if x = w then { x with phys := core } else x) }))

end Sys2Proof.Machine
end

