-- ==== Sys2Proof/Machine/Preempt.lean ====
section
/-! DEFINITION. Spatial pre-emption: the request, the save and the restore of a task (R113, R392-R396). -/
namespace Sys2Proof.Machine

/-! ## The request (R392-R394) -/

/-- A waiting request of a task on a lock is withdrawn; an upgrade falls back to the mode held (R107, R113). -/
def State.withdraw (s : State) (task : Nat) (n : LockName) : State :=
  match s.lock? task n with
  | none => s
  | some e =>
    match e.st with
    | .wait _ => s.freeLock task n
    | .upg m _ => s.setLock task n (.held m)
    | .held _ => s
/-- The mask on which a thread waits as the member of a stream whose element is held back. -/
def State.streamOf (s : State) (t : ThreadRef) : Option Nat :=
  (List.range 12).find? (fun k => (s.phase t k).susp.isSome && (s.phase t k).arrived.getLsbD (laneOf t))
/-- What a save does to one thread: it is rolled back, unless it is parked in a wait that is saved (R392, R394). -/
def State.settleThread (s : State) (t : ThreadRef) : State :=
  match (s.thread t).status with
  | .ready | .yielded => s.rollback t
  | .parked (.ldq _ _ _ _) | .parked (.stq _ _ _) | .parked (.page _ _) | .parked (.launch _ _ _ _)
  | .parked (.lockHeld _) => s.rollback t
  | .parked (.lock n _) => (s.withdraw t.task n).rollback t
  | .parked (.retry _) =>
    match s.streamOf t with
    | some k => s.park t (.phase k)
    | none => s.rollback t
  | _ => s
/-- Issue of a task stops for a save. -/
def State.beginSave (s : State) (task : Nat) : State :=
  let s := s.modTask task (fun k => { k with status := .saving })
  ((s.liveOf task).foldl (fun s th => s.settleThread th.ref) s).relock
/-- PREEMPT_REQUEST: issue stops on the named cores, and the waits of their tasks are settled (R392-R394). -/
def execPreemptRequest (cores : List Nat) (s : State) : Answer :=
  .next (s.tasks.foldl (fun s e =>
    if cores.contains e.2.phys ∧ (s.task e.1).status = .resident then s.beginSave e.1 else s) s)

/-- SUCCESSOR_PLACE: a successor takes its age and starts once its registers are free (R212, R213); on a core that
has been fenced meanwhile it is pre-empted at once (R453). -/
def execSuccessorPlace (task : Nat) (s : State) : Answer :=
  .next (match s.tasks.find? task with
    | none => s
    | some k =>
      match k.status, k.xsucc with
      | .succeeding, some x =>
        if !s.threadsFit k.phys x.threads x.regs then s
        else
          let n := s.launchSeq.toNat
          let age := n * 2 ^ 24 + taskNo task
          let k' : Task := { k with
            age := age, lseq := n, threads := x.threads, regs := x.regs, trapLo := 0, trapHi := 0, wounded := false,
            grace := false, masks := [], phases := [], xsucc := none, status := .resident, earlier := task :: k.earlier }
          let s : State := { s with
            launchSeq := s.launchSeq + 1
            tasks := (Tbl.erase s.tasks task).put age k'
            threads := s.threads.filter (fun e => e.2.task != task)
            engines := s.engines.map (fun e => if e.2.task = task then (e.1, { e.2 with task := age }) else e)
            armed := s.armed.map (fun a => if a.task = task then { a with task := age } else a)
            tmems := s.tmems.map (fun e => if e.2.lease = some task then (e.1, { e.2 with lease := some age }) else e) }
          let s := s.startThreads age x.threads x.entry x.arg
          if s.fencedCores.contains k.phys then s.beginSave age else s
      | _, _ => s)

/-! ## The save (R392, R393, R395, R396) -/

/-- 64 KiB units of save area for a task: its registers, its scratchpad, and its tile memory where leased. -/
def State.saveUnits (s : State) (k : Task) : Nat :=
  let tm := if (s.tmem k.phys).lease = some k.age ∨ k.savedTmem.isSome then 327680 else 0
  (k.threads * k.regs * 4 + k.spmSize + tm + 65535) / 65536
/-- What must be over before a task is copied: its stores, threads that end or complete an LKRALL, started rotations,
REMAP passes, and the response of a RATOM (R392, R393, R404). -/
def State.quiet (s : State) (k : Task) : Bool :=
  !s.undrained k && (s.liveOf k.age).all (fun th => match th.status with
      | .exiting => false
      | .parked .tracker => false
      | .parked .lkrall => false
      | .parked (.ratom _ _ _ _ _) => false
      | _ => true) &&
    s.engines.all (fun e => e.2.task != k.age || (match e.2.kind with
      | .rrot _ _ _ _ _ started => !started
      | .remap l _ => !(s.layout l).inflight
      | _ => true))
/-- The save pool holds one more task (R392, R447). -/
def State.saveRoom (s : State) (k : Task) : Bool :=
  decide (((s.tasks.filter (fun e => e.2.status == .saved)).map (fun e => s.saveUnits e.2)).sum + s.saveUnits k ≤
    fld (s.greg .savepool).toNat 15 0)
/-- A launch goes on with another core map: what waits for a core of `gone`, and what was saved from one, waits for the core
that its logical core is now on (R396, R453). -/
def State.remapLaunch (s : State) (lseq : Nat) (gone cs : List Nat) : State :=
  let phys := fun (p core : Nat) => if gone.contains p then cs.getD core p else p
  let s := s.modLaunch lseq (fun l =>
    { l with cores := cs, waiting := l.waiting.map (fun w => { w with phys := phys w.phys w.core }) })
  { s with tasks := s.tasks.map (fun e =>
      if e.2.launch = lseq ∧ e.2.status = .saved then (e.1, { e.2 with phys := phys e.2.phys e.2.core }) else e) }
/-- A saved task's core, once its launch runs nothing there, leaves the launch's map for cores that the launch still uses; where
there is none it stays, emptied (R396). -/
def State.vacate (s : State) (k : Task) : State :=
  if s.tasks.any (fun e => e.2.launch == k.launch && e.2.phys == k.phys && e.2.status == .resident) then s
  else
    let l := s.launchOf k.age
    let avoid := s.fencedCores ++ l.emptied ++ (s.tasks.filter (fun e => e.2.status == .saving)).map (fun e => e.2.phys)
    let cs := remapCores [k.phys] avoid l.cores
    let s := s.remapLaunch k.launch [k.phys] cs
    if cs.contains k.phys then s.modLaunch k.launch (fun l => { l with emptied := k.phys :: l.emptied.erase k.phys }) else s
/-- A core leaves every core map; a launch that has no other is mapped anew, as R366 maps one (R453, log 96). -/
def State.unmapCore (s : State) (p : Nat) : State :=
  s.launches.foldl (fun s e =>
    let cs := remapCores [p] s.fencedCores e.2.cores
    s.remapLaunch e.1 [p] (if cs.contains p then s.mapCores e.2.rcd else cs)) s
/-- A fenced core leaves the maps once no save of a task on it is in progress (R453). -/
def State.settleFence (s : State) : State :=
  s.fencedCores.foldl (fun s p =>
    if s.tasks.any (fun e => e.2.phys == p && e.2.status == .saving) then s else s.unmapCore p) s
/-- TASK_SAVE: a task's state goes to a save area and its core's resources are free; the map of its launch is rewritten
(R392, R393, R395, R396). -/
def execTaskSave (task : Nat) (s : State) : Answer :=
  .next (match s.tasks.find? task with
    | none => s
    | some k =>
      if k.status ≠ .saving ∨ s.quiet k = false ∨ s.saveRoom k = false then s
      else
        let m := s.tmem k.phys
        let leased := decide (m.lease = some task)
        let s := if leased then s.modTmem k.phys (fun m => { m with lease := none, config := none }) else s
        let s := s.modTask task (fun k => { k with status := .saved, savedTmem := if leased then some m else none })
        let s : State := { s with engines := s.engines.map (fun e =>
          if e.2.task = task ∧ e.2.kind.remote.isNone then (e.1, { e.2 with core := 1024 }) else e) }
        (s.vacate (s.task task)).settleFence)

/-! ## The restore (R394, R396) -/

/-- The tasks whose words or engine operations wait for a part of a saved task. -/
def State.waitersOn (s : State) (task : Nat) : List Nat :=
  (s.threads.filter (fun e => e.2.status == .parked (.retry (.task task)))).map (fun e => e.2.task) ++
    (s.engines.filter (fun e => e.2.wants == some task)).map (fun e => e.2.task)
/-- A part of a saved task is awaited. -/
def State.awaited (s : State) (task : Nat) : Bool := !(s.waitersOn task).isEmpty
/-- Posies of a task on a petal that hold a thread. -/
def State.taskPosies (s : State) (task petal : Nat) : Nat :=
  ((s.liveOf task).foldl (fun (l : List Nat) th =>
    if th.tid / 32 % 4 ≠ petal ∨ l.contains (th.tid / 32) then l else th.tid / 32 :: l) []).length
/-- The scratchpad base at which a saved task fits on a core with its live threads and its tile memory (R367, R396). -/
def State.restoreRoom (s : State) (k : Task) (core : Nat) : Option Nat :=
  if s.fencedCores.contains core then none
  else if poolRegs < s.regsUsed core + (s.liveOf k.age).length * k.regs then none
  else if (List.range 4).any (fun p => decide (32 < s.posiesOn core p + s.taskPosies k.age p)) then none
  else if k.savedTmem.isSome && (s.tmem core).lease.isSome then none
  else s.spmRoom core k.spmSize
/-- A saved task is the next of its core: an awaited one first, then in the order of R367, tasks that wait for admission
included (R396). -/
def State.nextRestored (s : State) (k : Task) : Bool :=
  let l := s.savedOn k.phys
  let aw := l.filter (fun x => s.awaited x.2.age)
  match firstPlaced (if aw.isEmpty then l else aw) with
  | none => false
  | some (key, x) => x.age == k.age && (!aw.isEmpty || !(s.waitingOn k.phys).any (fun w => admitBefore w.1 key))
/-- A thread goes on where its wait says (R394). -/
def State.resumeThread (s : State) (t : ThreadRef) : State :=
  match (s.thread t).status with
  | .ready => s.wake t
  | .parked (.waitk k) => if s.readK t k = 0 then s.wake t else s
  | .parked (.mwait pc va eq b d _) => (s.park t (.mwait pc va eq b d true)).recheckWait t
  | .parked (.sigw _ _ _ _) => s.recheckWait t
  | .parked (.phase k) => if ((s.phase t k).susp.map Prod.fst) = some 0 then s.resumeStream t k else s
  | _ => s
/-- A saved task is on its core again; its threads go on with an acquire, since the core may be another (R127, R128). -/
def State.restore (s : State) (k : Task) (base : Nat) : State :=
  let s := s.modTask k.age (fun k =>
    { k with status := .resident, spmBase := base, held := [], heldCounts := [], savedTmem := none })
  let s := match k.savedTmem with
    | some m => s.modTmem k.phys (fun _ => m)
    | none => s
  let s : State := { s with engines := s.engines.map (fun e => (e.1, { e.2 with
    core := if e.2.task = k.age then k.phys else e.2.core
    wants := if e.2.wants = some k.age then none else e.2.wants })) }
  let s := (s.modLaunch k.launch (fun l => { l with emptied := l.emptied.erase k.phys })).acquire k.phys
  let s := k.held.foldl (fun s b => s.spmPut k.age b.1 [b.2]) s
  let s := (k.heldCounts.foldl (fun s c => s.countOff k.age c.1 c.2.1 c.2.2) s).settleBarriers
  let s := (s.liveOf k.age).foldl (fun s th => s.resumeThread th.ref) s
  s.unretryAll (fun r => r == .task k.age)
/-- TASK_RESTORE: a saved task returns to its core as room appears; where its part is awaited and no core of the map has
room, the tasks that wait for it are saved themselves (R394, R396). -/
def execTaskRestore (task : Nat) (s : State) : Answer :=
  .next (match s.tasks.find? task with
    | none => s
    | some k =>
      if k.status ≠ .saved then s
      else match s.restoreRoom k k.phys with
        | some base => if s.nextRestored k then s.restore k base else s
        | none =>
          if (s.launchOf task).cores.any (fun p => (s.restoreRoom k p).isSome) then s
          else (s.waitersOn task).foldl (fun s a => if (s.task a).status = .resident then s.beginSave a else s) s)

end Sys2Proof.Machine
end

