-- ==== Sys2Proof/Machine/Invalidate.lean ====
section
/-! DEFINITION. Invalidation commands, and the PCIe address-translation events (R31-R33, R446). -/
namespace Sys2Proof.Machine

/-- Discard what an address space holds in every translation cache for some pages: the leaves, the peer entries where asked, with what
its remote operations have from them, and its host pages (R32 step 1). -/
def State.discard (s : State) (asid : Nat) (all peer : Bool) (lo hi : Nat) : State :=
  { s with
    tlbs := dropTlbs asid all lo hi s.tlbs
    twe := dropTlbs asid all lo hi s.twe
    engines := if peer then s.engines.map (fun e =>
        if e.2.asid == asid && e.2.target.isSome then (e.1, { e.2 with stale := true }) else e) else s.engines
    peerCache := if peer then s.peerCache.filter (fun e => e.1.1 != asid) else s.peerCache
    atc := s.atc.filter (fun e => e.1.1 != asid) }
/-- A command that has been read (R31). -/
def State.invalidate? (s : State) (func : Nat) (d : List Nat) : Inval × State :=
  let w := fun (i : Nat) => d.getD i 0
  let asid := fld (w 0) 11 0
  let f := if func = 0 then (true, s)
    else let c := s.ctx asid; (ctxFunc c.1 == func, c.2)
  let good := f.1 && onlyBits (w 0) [(13, 0)] && onlyBits (w 1) [(55, 0)] && onlyBits (w 2) [(31, 0)] &&
    onlyBits (w 3) [(55, 0)]
  let lo := fld (w 1) 55 0 / 4096 * 4096
  ({ func := func, asid := asid, sig := BitVec.ofNat 64 (fld (w 3) 55 0), dropped := !good, seq := s.nextStore,
     peer := good && bitOf (w 0) 13, ops := s.nextEngine },
    if good then f.2.discard asid (bitOf (w 0) 12) (bitOf (w 0) 13) lo (lo + 4096 * fld (w 2) 31 0) else f.2)
/-- INVALIDATION_COMMAND: the next command of a function's ring is read and its entries are discarded (R31, R32). -/
def execInvalidationCommand (func : Nat) (s : State) : Answer :=
  let ring := s.freg func .invq
  let head := s.freg func .invhead
  .next (if ringLog ring = 0 ∨ ringUse (s.freg func .invtail) head = 0 ∨ devTop < ringBase ring + 32 * 2 ^ ringLog ring then s
  else
    let a := ringSlot ring head 32
    let s := s.bumpF func .invhead
    if s.poisoned a then s.bumpF func .werr
    else
      let r := s.readDwordsAt (homeDie (a / 256)) a 4
      let c := r.2.invalidate? func (r.1.map BitVec.toNat)
      { c.2 with invals := c.2.invals ++ [c.1] })
/-- A remote access of an address space may be on its way through window entries that were read before operation number `n`: a piece
of an operation, or the request of a RATOM, that has not been answered (R32 step 2). -/
def State.remoteBefore (s : State) (asid n : Nat) : Bool :=
  s.engines.any (fun e => decide (e.1 < n) && e.2.asid == asid && e.2.left.any (fun i => !e.2.queue.contains i)) ||
    s.threads.any (fun e => match e.2.status with
      | .parked (.ratom op _ _ _ _) => decide (op < n) && s.asidOf e.2.ref == asid
      | _ => false)
/-- INVALIDATION_COMPLETE: the oldest command of a function completes: its signal is decremented as a release, with bit 63
where it was dropped; the stores, and with PEER = 1 the remote accesses, that may have translated through what it discarded are
performed first (R32 step 2), and a signal's page that migrates holds it back (R31, R50). -/
def execInvalidationComplete (func : Nat) (s : State) : Answer :=
  .next (match s.invals.find? (fun i => i.func == func) with
    | none => s
    | some i =>
      if s.storesBefore i.asid i.seq || (i.peer && s.remoteBefore i.asid i.ops) then s
      else
      let w := s.signalWaits i.asid i.sig
      if w.1 then w.2 else { w.2 with invals := w.2.invals.erase i }.signalDec func i.asid 0 i.sig i.dropped 1)

/-- Writes to a page of host memory that are on their way are issued, each after its core's earlier ones (R63). -/
def State.issuePage (s : State) (frame : Nat) : State :=
  (s.hostq.filter (fun w => decide (w.addr < (frame + 1) * 4096) && decide (frame * 4096 < w.addr + w.bytes.length))).foldl
    (fun (s : State) w => if s.hostq.contains w then s.issueHosts w.core else s) s
/-- ATS_INVALIDATION: a host page leaves the translation cache, and what has translated through it is performed before the device
answers (R33, R32 steps 1 and 2). -/
def execAtsInvalidation (pasid page : Nat) (s : State) : Answer :=
  let hit := fun (e : (Nat × Nat × Nat) × Nat) => e.1.2.1 == pasid && e.1.2.2 == page
  .next ((s.atc.filter hit).foldl (fun (s : State) e => s.issuePage e.2) { s with atc := s.atc.filter (fun e => !hit e) })
/-- ATS_COMPLETION: a translation request is answered: the page's frame is cached, or a page request goes to the host; what
waited is tried again (R33). -/
def execAtsCompletion (pasid page : Nat) (frame : Option Nat) (s : State) : Answer :=
  let l := s.atsPending.filter (fun e => e.2 == (pasid, page))
  .next (if l.isEmpty then s
  else
    let s := { s with atsPending := s.atsPending.filter (fun e => e.2 != (pasid, page)) }
    let s : State := match frame with
      | some f => { s with atc := keepLast 4096 (l.foldl (fun t e => assocSet t e f) s.atc) }
      | none => if s.priPending.contains (pasid, page) then s else { s with priPending := s.priPending ++ [(pasid, page)] }
    s.unretryAll (fun r => match r with | .ats _ p g => p == pasid && g == page | _ => false))
/-- PRI_RESPONSE: the host answers a page request; after a failure a retry of the access takes PROT HOSTDENY (R33). -/
def execPriResponse (pasid page : Nat) (ok : Bool) (s : State) : Answer :=
  .next (if !s.priPending.contains (pasid, page) then s
  else
    let s := { s with priPending := s.priPending.erase (pasid, page) }
    if ok ∨ s.priDenied.contains (pasid, page) then s else { s with priDenied := s.priDenied ++ [(pasid, page)] })

end Sys2Proof.Machine
end

