-- ==== Sys2Proof/Machine/Registers.lean ====
section
/-! DEFINITION. Host accesses to device memory, and writes of the registers of the global block and the function pages (R7,
R72, R80, R362, R374, R397-R400, R406, R444-R448). -/
namespace Sys2Proof.Machine

/-! ## Host accesses to device memory (R72, R80) -/

/-- HOST_WRITE: a host write is a WrN (R72). R53 speaks of a host AtomicOp CAS on an entry and R444 says that the device completes no
AtomicOp: the model has no such request (log 103). -/
def execHostWrite (pa : Nat) (bytes : List (BitVec 8)) (s : State) : Answer :=
  onDevice pa bytes.length (if s.up then s.wrN pa bytes else s)
/-- HOST_READ: a host read, with EP where it touches a poisoned line (R80). -/
def execHostRead (pa len : Nat) (s : State) : Answer :=
  onDevice pa len (if !s.up then s
  else
    let ep := (List.range ((pa + len + 255) / 256 - pa / 256)).any (fun i => s.poisoned (pa + 256 * i))
    let r := s.readBytesAt (homeDie (pa / 256)) pa len
    { r.2 with hostRead := (r.1, ep) })

/-! ## Writes of registers (R7, R445-R447) -/

/-- A write of a register of the global block: taken where `ok`, else ignored and counted by `err` (R7); nothing answers
before the service firmware runs (R449). -/
def State.putG (s : State) (r : GReg) (v : DWord) (ok : Bool) (err : GReg := .regwerr) : State :=
  if !s.up then s else if ok then s.setGreg r v else s.bumpG err
/-- A write of a register of a function page; a page that no function has does not answer. -/
def State.putF (s : State) (f : Nat) (r : FReg) (v : DWord) (ok : Bool) : State :=
  if !s.up || decide (96 < f) then s else if ok then s.setFreg f r v else s.bumpF f .werr
/-- HEAD and TAIL of a queue agree. -/
def State.qIdle (s : State) (q : Nat) : Bool := s.greg (.qtail q) == s.greg (.qhead q)
/-- QCFG_WRITE: the configuration of a queue, ignored while the queue is not empty (R362). -/
def execQcfgWrite (q : Nat) (v : BitVec 64) (s : State) : Answer :=
  let n := v.toNat
  .next (s.putG (.qcfg q) v (decide (q < 8192) && onlyBits n [(8, 0), (27, 12)] && decide (fld n 8 2 ≤ 96) &&
    (!bitOf n 0 || decide (4 ≤ fld n 27 24 ∧ fld n 27 24 ≤ 12)) && s.qIdle q))
/-- QBASE_WRITE: the base of a queue's ring, ignored while the queue is not empty (R362). -/
def execQbaseWrite (q : Nat) (v : BitVec 64) (s : State) : Answer :=
  .next (s.putG (.qbase q) v (decide (q < 8192) && onlyBits v.toNat [(51, 8)] && s.qIdle q))
/-- CTXBASE_WRITE: the base of the context table, taken only while every queue is disabled (R17, R445). -/
def execCtxbaseWrite (v : BitVec 64) (s : State) : Answer :=
  let idle := s.gregs.all (fun e => match e.1 with
    | .qcfg _ => !bitOf e.2.toNat 0
    | _ => true)
  .next (s.putG .ctxbase v (onlyBits v.toNat [(51, 18)] && idle))
/-- COMPAT is symmetric (R99). -/
def symmetric (v : DWord) : Bool :=
  (List.range 6).all (fun i => (List.range 6).all (fun j => v.getLsbD (6 * i + j) == v.getLsbD (6 * j + i)))
/-- LKCFG_WRITE: a domain's matrix and grace period; an asymmetric one is ignored and counted in LKCFGERR (R98, R99). -/
def execLkcfgWrite (d : Nat) (v : BitVec 64) (s : State) : Answer :=
  .next (if d ≤ 96 then s.putG (.lkcfg d) v (onlyBits v.toNat [(35, 0), (63, 48)] && symmetric v) .lkcfgerr
  else s.putG (.lkcfg d) v false)
/-- FWEIGHT_WRITE: a function's weight, 1 to 255 (R362). -/
def execFweightWrite (f : Nat) (v : BitVec 64) (s : State) : Answer :=
  .next (s.putG (.fweight f) v (decide (f ≤ 96 ∧ 1 ≤ v.toNat ∧ v.toNat ≤ 255)))
/-- C0RES_WRITE: the class-0 reservation, 0 to 64 cores (R374). -/
def execC0resWrite (v : BitVec 64) (s : State) : Answer := .next (s.putG .c0res v (decide (v.toNat ≤ 64)))
/-- TIMER_WRITE: T0, T1 or T2 in microseconds, within its range (R224). -/
def execTimerWrite (i : Nat) (v : BitVec 64) (s : State) : Answer :=
  let lo := if i = 2 then 1000 else 1
  let hi := if i = 2 then 60000000 else 1000000
  .next (s.putG (.timer i) v (decide (i ≤ 2 ∧ lo ≤ v.toNat ∧ v.toNat ≤ hi)))
/-- An armed entry on a counter is discarded: its barrier object gets ERROR and loses its bytes (R406). -/
def State.discardArmed (s : State) (a : Armed) : State :=
  match a.kind with
  | .carm => s.countArmed a 1 true
  | .send _ _ _ _ len _ => s.countArmed a len true
/-- CNTCFG_WRITE: a receive counter; with V = 1 it is zero and its armed entries are discarded (R406). -/
def execCntcfgWrite (i : Nat) (v : BitVec 64) (s : State) : Answer :=
  let ok := decide (i < 4096) && onlyBits v.toNat [(12, 0)]
  let t := s.putG (.cntcfg i) v ok
  .next (if s.up && ok && bitOf v.toNat 0 then
    let gone := t.armed.filter (fun a => a.counter == i)
    let t : State := { t with counters := Tbl.set 0 t.counters i 0, armed := t.armed.filter (fun a => a.counter != i) }
    (gone.foldl (fun s a => s.discardArmed a) t).settleBarriers
  else t)
/-- FRAMEIDX_WRITE: the host advances FTAIL (R448). -/
def execFrameidxWrite (h : Nat) (v : BitVec 32) (s : State) : Answer :=
  .next (s.putG (.frameidx h) (BitVec.ofNat 64 (fld (s.greg (.frameidx h)).toNat 63 32 * 2 ^ 32 + v.toNat)) (decide (h < 8)))
/-- RETIDX_WRITE: the host advances RHEAD (R448). -/
def execRetidxWrite (h : Nat) (v : BitVec 32) (s : State) : Answer :=
  .next (s.putG (.retidx h) (BitVec.ofNat 64 (v.toNat * 2 ^ 32 + fld (s.greg (.retidx h)).toNat 31 0)) (decide (h < 8)))
/-- A value a ring register may hold, for entries of a size (R447). -/
def ringOk (v size : Nat) : Bool :=
  onlyBits v [(51, 12), (3, 0)] && (fld v 3 0 == 0 || (decide (4 ≤ fld v 3 0 ∧ fld v 3 0 ≤ 12) &&
    decide (fld v 51 12 * 4096 % (size * 2 ^ fld v 3 0) = 0)))
/-- A write of a ring register of a function page, whose counters are `tail` and `head`. -/
def State.putRingF (s : State) (f : Nat) (r tail head : FReg) (size : Nat) (v : DWord) : State :=
  s.putF f r v (ringOk v.toNat size && (s.freg f tail == s.freg f head || v == s.freg f r))
/-- RING_REGISTER_WRITE: names or changes a ring; a write that changes one that is not empty is ignored (R447). -/
def execRingRegisterWrite (r : RingReg) (v : BitVec 64) (s : State) : Answer :=
  .next (match r with
    | .invq f => s.putRingF f .invq .invtail .invhead 32 v
    | .fq f => s.putRingF f .fq .fqtail .fqhead 64 v
    | .pfq f => s.putRingF f .pfq .pfqtail .pfqhead 64 v
    | .framepool h =>
      let x := (s.greg (.frameidx h)).toNat
      s.putG (.framepool h) v (decide (h < 8) && ringOk v.toNat 8 && (fld x 31 0 == fld x 63 32 || v == s.greg (.framepool h)))
    | .frameret h =>
      let x := (s.greg (.retidx h)).toNat
      s.putG (.frameret h) v (decide (h < 8) && ringOk v.toNat 8 && (fld x 31 0 == fld x 63 32 || v == s.greg (.frameret h))))
/-- A value an area register may take after another: the base only while the size is 0, and the size only growing (R447). -/
def areaOk (old new : DWord) : Bool :=
  onlyBits new.toNat [(51, 16), (15, 0)] &&
    (fld old.toNat 15 0 == 0 || decide (fld new.toNat 51 16 = fld old.toNat 51 16 ∧ fld old.toNat 15 0 ≤ fld new.toNat 15 0))
/-- A write of an area register. -/
def State.putArea (s : State) (r : GReg) (v : DWord) (ok : Bool) : State := s.putG r v (ok && areaOk (s.greg r) v)
/-- AREA_REGISTER_WRITE: names or grows an area (R447). -/
def execAreaRegisterWrite (r : AreaReg) (v : BitVec 64) (s : State) : Answer :=
  .next (match r with
    | .spill h => s.putArea (.spill h) v (decide (h < 8))
    | .lkovf h => s.putArea (.lkovf h) v (decide (h < 8))
    | .savepool => s.putArea .savepool v true
    | .collpool => s.putArea .collpool v true)

/-! ## Registers without a row of their own -/

/-- A register of the global block by its offset, where it is one without a row of its own, and whether a value is in its
range (R445). -/
def globalReg (off : Nat) (v : DWord) : Option (GReg × Bool) :=
  let n := v.toNat
  if off = 0x08 then some (.peerid, decide (n < 1024))
  else if off = 0x10 then some (.expbase, onlyBits n [(51, 5)])
  else if off = 0x18 then some (.expcount, decide (n ≤ 4096))
  else if off = 0x40 then some (.rtimeout, decide (10 ≤ n ∧ n ≤ 10000))
  else if off = 0x48 then some (.plcthr, onlyBits n [(55, 0)])
  else if off = 0x50 then some (.regwerr, n == 0)
  else if off = 0x58 then some (.lkcfgerr, n == 0)
  else if off = 0x3010 then some (.collcnt, onlyBits n [(23, 0)])
  else if 0x50000 ≤ off ∧ off ≤ 0x50000 + 8 * 96 ∧ off % 8 = 0 then some (.c0rate ((off - 0x50000) / 8), onlyBits n [(31, 0)])
  else none
/-- A write of a register of a function page without a row of its own: tails and heads, and the counters (R446). -/
def State.putPage (s : State) (f off : Nat) (v : DWord) : State :=
  let n := v.toNat
  if off = 0x08 then
    s.putF f .invtail (BitVec.ofNat 64 (fld n 31 0)) (decide (ringLog (s.freg f .invq) ≠ 0))
  else if off = 0x18 then s.putF f .fqhead (BitVec.ofNat 64 (fld n 63 32)) true
  else if off = 0x28 then s.putF f .pfqhead (BitVec.ofNat 64 (fld n 63 32)) true
  else if off = 0x38 then s.putF f .fqlost (s.freg f .fqlost &&& ~~~(BitVec.ofNat 64 (fld n 31 0))) (fld n 63 32 == 0)
  else if off = 0x48 then s.putF f .werr 0 (n == 0)
  else s.putF f .werr v false
/-- REGISTER_WRITE: a register without a row of its own; what it may not hold, a read-only register and an offset that lists
nothing are ignored and counted (R7, R445, R446). -/
def execRegisterWrite (p : Page) (off : Nat) (v : BitVec 64) (s : State) : Answer :=
  .next (match p with
    | .global =>
      match globalReg off v with
      | some (r, ok) => s.putG r v ok
      | none => s.putG .regwerr v false
    | .function f => s.putPage f off v)

/-! ## Reads of registers (R7, R8, R445, R446)

No event of the manual's list is a register read: it changes nothing. These say what one returns. -/

/-- HEALTH (R452). -/
def State.health (s : State) : DWord :=
  BitVec.ofNat 64 (b2n s.memReady + 2 * b2n s.bootFail + 4 * b2n s.replace + 8 * b2n s.degraded + 16 * (s.fencedCores.length % 512))
/-- What a read of the global block returns, if it is answered: before the service firmware runs and after BOOTFAIL only HEALTH
is (R449). An offset that lists nothing reads zero. -/
def State.globalRead (s : State) (off : Nat) : Option DWord :=
  let n := fun (base : Nat) => (off - base) / 8
  if off = 0 then (if s.powered then some s.health else none)
  else if !s.up then none
  else some (match globalReg off 0 with
    | some (r, _) => s.greg r
    | none =>
      if off % 8 ≠ 0 then 0
      else if off = 0x20 then s.greg .c0res
      else if 0x28 ≤ off ∧ off < 0x40 then s.greg (.timer (n 0x28))
      else if off = 0x60 then s.greg .ctxbase
      else if 0x1000 ≤ off ∧ off ≤ 0x1000 + 8 * 96 then s.greg (.lkcfg (n 0x1000))
      else if 0x1800 ≤ off ∧ off ≤ 0x1800 + 8 * 96 then s.greg (.fweight (n 0x1800))
      else if 0x2000 ≤ off ∧ off < 0x2100 then
        let h := n 0x2000 / 4
        s.greg (match n 0x2000 % 4 with
          | 0 => .framepool h
          | 1 => .spill h
          | 2 => .lkovf h
          | _ => .frameidx h)
      else if 0x2100 ≤ off ∧ off < 0x2180 then
        s.greg (if n 0x2100 % 2 = 0 then .frameret (n 0x2100 / 2) else .retidx (n 0x2100 / 2))
      else if 0x2200 ≤ off ∧ off < 0x2240 then s.greg (.uforced (n 0x2200))
      else if off = 0x3000 then s.greg .savepool
      else if off = 0x3008 then s.greg .collpool
      else if 0x10000 ≤ off ∧ off < 0x20000 then s.greg (.qcfg (n 0x10000))
      else if 0x20000 ≤ off ∧ off < 0x30000 then s.greg (.qbase (n 0x20000))
      else if 0x40000 ≤ off ∧ off < 0x48000 then s.greg (.cntcfg (n 0x40000))
      else 0)
/-- Two 32-bit counters of a function page as its offset shows them. -/
def State.pair (s : State) (f : Nat) (lo hi : FReg) : DWord :=
  BitVec.ofNat 64 ((s.freg f lo).toNat % 2 ^ 32 + 2 ^ 32 * (s.freg f hi).toNat)
/-- What a read of function `f`'s page returns, if it is answered: before the service firmware runs and after BOOTFAIL only
ATTEST is (R449). RESUME is write-only, an offset that lists nothing reads zero, and so do the counts of a queue of another
function (R8, R446). -/
def State.pageRead (s : State) (f off : Nat) : Option DWord :=
  if 96 < f ∨ s.powered = false then none
  else if off = 0x40 then some (s.freg f .attest)
  else if !s.up then none
  else some (match off with
    | 0x00 => s.freg f .invq
    | 0x08 => s.pair f .invtail .invhead
    | 0x10 => s.freg f .fq
    | 0x18 => s.pair f .fqtail .fqhead
    | 0x20 => s.freg f .pfq
    | 0x28 => s.pair f .pfqtail .pfqhead
    | 0x38 => s.freg f .fqlost
    | 0x48 => s.freg f .werr
    | off =>
      let q := (off - 0x1000) / 16
      if 0x1000 ≤ off ∧ off < 0x21000 ∧ off % 16 ∈ [0, 8] ∧ s.qFunc q = f then
        s.greg (if off % 16 = 0 then .qtail q else .qhead q)
      else 0)

end Sys2Proof.Machine
end

