-- ==== Sys2Proof/Machine/Boot.lean ====
section
/-! DEFINITION. Power, start-up, attestation, fencing and errors (R80, R199, R449-R453). -/
namespace Sys2Proof.Machine

/-! ## Attestation and the service firmware (R450, R451) -/

/-- ATTEST accepts the value: its reserved bits are zero and no request is in progress. -/
def State.attestFree (s : State) (func : Nat) (v : DWord) : Bool :=
  onlyBits v.toNat [(51, 12), (2, 0)] && !bitOf (s.freg func .attest).toNat 0
/-- FAILED stays the device's own bit. -/
def State.setAttest (s : State) (func : Nat) (v : DWord) : State :=
  s.setFreg func .attest ((v &&& ~~~4) ||| (s.freg func .attest &&& 4))
/-- ATTESTATION_REQUEST: ATTEST is written with LOAD = 0; BUSY = 1 starts a report (R450, R451). -/
def execAttestationRequest (func : Nat) (v : BitVec 64) (s : State) : Answer :=
  .next (if s.powered = false ∨ 96 < func then s
  else if s.attestFree func v && !bitOf v.toNat 1 then s.setAttest func v
  else s.bumpF func .werr)
/-- Address of a request's buffer. -/
def attestBuf (v : DWord) : Nat := fld v.toNat 51 12 * 4096
/-- The first 256 bytes of a report; bytes that the layout does not name are free. -/
def reportBytes (self : Nat) (nonce free : List Byte) (fw : BitVec 256) : List Byte :=
  bytesOfNat 8 1 ++ bytesOfNat 8 self ++ free ++ nonce ++ bytesOfNat 32 Config.keeperHash.toNat ++ bytesOfNat 32 fw.toNat ++
    List.replicate 128 0
/-- ATTESTATION_DONE: the report is written to the buffer, and BUSY and FAILED are cleared as a release (R450). -/
def execAttestationDone (func : Nat) (s : State) : Answer :=
  let v := s.freg func .attest
  .next (if !bitOf v.toNat 0 || bitOf v.toNat 1 then s
  else
    let a := attestBuf v
    let f := s.freeBytes 16
    let body := reportBytes s.self (Memory.bytes s.hostMem (a + 32) 32) f.1 s.firmwareHash
    let report := body ++ (List.range 384).map (Config.identitySign body)
    { f.2 with hostMem := Memory.write s.hostMem a report }.setFreg func .attest (v &&& ~~~5))
/-- SERVICE_FIRMWARE_LOAD: ATTEST is written with LOAD = 1, which only the PF's accepts; BUSY = 1 hands the image over, and the
keeper accepts one such request after a cold start (R449, R451). -/
def execServiceFirmwareLoad (func : Nat) (v : BitVec 64) (s : State) : Answer :=
  .next (if s.powered = false ∨ 96 < func then s
  else if s.attestFree func v && bitOf v.toNat 1 && func == 0 && (!bitOf v.toNat 0 || s.boot == .waitLoad) then
    let s := s.setAttest func v
    if bitOf v.toNat 0 then { s with boot := .verifying } else s
  else s.bumpF func .werr)
/-- The descriptor of a LOAD: the image's address, its bytes and its signature, where it is in range (R451). -/
def State.loadImage (s : State) (buf : Nat) : Option (List Byte × List Byte) :=
  let b := Memory.bytes s.hostMem buf 4096
  let addr := natOfBytes (b.take 8)
  let len := natOfBytes ((b.drop 8).take 8)
  let zero := fun (lo n : Nat) => ((b.drop lo).take n).all (fun x => x == 0)
  if addr % 4096 = 0 ∧ len % 4096 = 0 ∧ 4096 ≤ len ∧ len ≤ 2 ^ 24 ∧ zero 0x10 240 ∧ zero 0x280 3456 then
    some (Memory.bytes s.hostMem addr len, (b.drop 0x100).take 384)
  else none
/-- SERVICE_FIRMWARE_VERIFIED: the image is verified against the vendor key: start-up goes on, or the device stays with
BOOTFAIL (R449, R451). -/
def execServiceFirmwareVerified (s : State) : Answer :=
  let v := s.freg 0 .attest
  .next (if s.boot ≠ .verifying then s
  else
    let bad := { s with boot := .failed, bootFail := true }.setFreg 0 .attest ((v ||| 4) &&& ~~~1)
    match s.loadImage (attestBuf v) with
    | none => bad
    | some (image, sig) =>
      if Config.vendorVerify image sig then
        { s with boot := .clearing, firmwareHash := Config.sha256 image }.setFreg 0 .attest (v &&& ~~~5)
      else bad)

/-! ## Power and start-up (R449) -/

/-- The state without power, or as power comes: what is outside the device and the model's own counters stay. -/
def State.blank (s : State) : State :=
  { State.reset with hostMem := s.hostMem, tick := s.tick, fresh := s.fresh, agenda := s.agenda, linksDown := s.linksDown }
/-- COLD_START: power comes, the clock counts from zero (R279), and the boot ROM checks the keeper, which then waits for a LOAD
(R449). -/
def execColdStart (s : State) : Answer :=
  .next (if s.powered then s
  else
    let t := { s.blank with clockBase := s.tick }
    if Config.keeperImageGood s.tick then t else { t with boot := .failed, bootFail := true })
/-- MEMORY_INIT_DONE: every line of device memory is zero, data and metadata, and MEMREADY is set (R69, R449). -/
def execMemoryInitDone (s : State) : Answer :=
  .next (if s.boot = .clearing ∧ s.powered then
    { s with mem := [], metas := [], slices := [], plru := [], l1 := [], regq := [], spills := [], memReady := true, boot := .running } else s)
/-- POWER_LOSS: every register, cache, memory and counter is lost (R449). -/
def execPowerLoss (s : State) : Answer := .next { s.blank with powered := false }

/-! ## Errors and degraded operation (R80, R452, R453) -/

/-- Lines of a slice: those of an L2 slice are homed on its die, those of an RDC slice elsewhere (R55, R65). -/
def State.sliceLines (s : State) (rdc : Bool) (die slice : Nat) : List Nat :=
  ((s.slices.map Prod.fst).filter (fun k => k / 2 ^ 32 == die)).map (fun k => k % 2 ^ 32) |>.filter (fun l =>
    sliceNo l == slice && (die != homeDie l) == rdc)
/-- A slice is fenced: it holds no lines any more. -/
def State.fenceSlice (s : State) (rdc : Bool) (die slice : Nat) : State :=
  if s.fencedSlices.contains (rdc, die, slice) then s
  else
    let s := { s with fencedSlices := s.fencedSlices ++ [(rdc, die, slice)] }
    (s.sliceLines rdc die slice).foldl (fun s l => s.sliceEvict die l) s
/-- Fewer than 504 cores are left, or a die has no usable slice of a kind (R453). -/
def State.wornOut (s : State) : Bool :=
  decide (512 - s.fencedCores.length < 504) || (List.range 4).any (fun d => [false, true].any (fun rdc =>
    decide (64 ≤ (s.fencedSlices.filter (fun x => x.1 == rdc && x.2.1 == d)).length)))
/-- UNIT_FENCE: a unit is fenced: a core's tasks are pre-empted and, once they are saved, it leaves every map, a slice holds no
lines, a port's routes fail; the device runs on (R453). -/
def execUnitFence (u : FenceUnit) (s : State) : Answer :=
  let go := fun (s : State) =>
    let s := { s with degraded := true }
    { s with replace := s.replace || s.wornOut }
  .next (match u with
    | .core p =>
      if 511 < p ∨ p ∈ s.fencedCores then s
      else
        let s := { s with fencedCores := s.fencedCores ++ [p] }
        let s := s.tasks.foldl (fun s e =>
          if e.2.phys = p ∧ (s.task e.1).status = .resident then s.beginSave e.1 else s) s
        go s.settleFence
    | .l2 d k => if 3 < d ∨ 63 < k then s else go (s.fenceSlice false d k)
    | .rdc d k => if 3 < d ∨ 63 < k then s else go (s.fenceSlice true d k)
    | .port j =>
      if 31 < j ∨ j ∈ s.fencedPorts then s else go { s with fencedPorts := s.fencedPorts ++ [j] })
/-- SOFT_ERROR: an error is corrected and counted in its unit, marks its line POISON, or is repaired from spares
(R80, R199, R453). -/
def execSoftError (e : ErrorSite) (s : State) : Answer :=
  match e with
  | .corrected u => .next { s with corrected := assocSet s.corrected u ((assoc s.corrected u).getD 0 + 1) }
  | .uncorrectable pa => onDevice pa 1 ((s.poison pa).countError)
  | .spared _ => .next s

end Sys2Proof.Machine
end

