-- ==== Sys2Proof/Machine/Alu.lean ====
section
/-! DEFINITION. Integer and bit arithmetic of 06_number_formats R184 and 09_ref_integer_control R254-R259 on values. -/
namespace Sys2Proof.Machine.Alu

/-- The high half of the signed product: floor(s(a) × s(b) / 2^w). -/
def mulhS {w : Nat} (a b : BitVec w) : BitVec w := BitVec.ofInt w (a.toInt * b.toInt / 2 ^ w)
/-- The high half of the unsigned product. -/
def mulhN {w : Nat} (a b : BitVec w) : BitVec w := BitVec.ofNat w (a.toNat * b.toNat / 2 ^ w)
/-- Signed minimum. -/
def minS {w : Nat} (a b : BitVec w) : BitVec w := if a.toInt ≤ b.toInt then a else b
/-- Unsigned minimum. -/
def minN {w : Nat} (a b : BitVec w) : BitVec w := if a.toNat ≤ b.toNat then a else b
/-- Signed maximum. -/
def maxS {w : Nat} (a b : BitVec w) : BitVec w := if a.toInt ≤ b.toInt then b else a
/-- Unsigned maximum. -/
def maxN {w : Nat} (a b : BitVec w) : BitVec w := if a.toNat ≤ b.toNat then b else a
/-- |s(a)|, wrapping. -/
def absS {w : Nat} (a : BitVec w) : BitVec w := if a.toInt < 0 then -a else a
/-- Byte i of a word. -/
def byteOf (a : Word) (i : Nat) : Byte := a.extractLsb' (8 * i) 8
/-- d plus four signed byte products. -/
def idp4S (d a b : Word) : Word :=
  (List.range 4).foldl (fun r i => r + BitVec.ofInt 32 ((byteOf a i).toInt * (byteOf b i).toInt)) d
/-- d plus four unsigned byte products. -/
def idp4N (d a b : Word) : Word :=
  (List.range 4).foldl (fun r i => r + BitVec.ofNat 32 ((byteOf a i).toNat * (byteOf b i).toNat)) d

/-- u(a) × 2^n, 0 from n = w on. -/
def shl {w : Nat} (a : BitVec w) (n : Nat) : BitVec w := if n < w then a <<< n else 0
/-- floor(u(a) / 2^n), 0 from n = w on. -/
def shr {w : Nat} (a : BitVec w) (n : Nat) : BitVec w := if n < w then a >>> n else 0
/-- floor(s(a) / 2^n), sign copies from n = w on. -/
def sar {w : Nat} (a : BitVec w) (n : Nat) : BitVec w :=
  if n < w then a.sshiftRight n else if a.toInt < 0 then BitVec.allOnes w else 0
/-- a rotated left by n mod w. -/
def rol {w : Nat} (a : BitVec w) (n : Nat) : BitVec w := a.rotateLeft (n % w)

/-- The number of 1 bits. -/
def popc {w : Nat} (a : BitVec w) : Nat := (bitsSet a).length
/-- The number of 0 bits above the highest 1 bit; w for 0. -/
def clz {w : Nat} (a : BitVec w) : Nat :=
  match (bitsSet a).getLast? with
  | some i => w - 1 - i
  | none => w
/-- The number of 0 bits below the lowest 1 bit; w for 0. -/
def ctz {w : Nat} (a : BitVec w) : Nat := (bitsSet a).headD w
/-- Bit i of the result is bit w − 1 − i. -/
def brev {w : Nat} (a : BitVec w) : BitVec w := a.reverse

/-- The field length m of R259 for position and length bytes. -/
def fieldLen (b : Word) : Nat :=
  let p := (b.extractLsb' 0 8).toNat
  let l := (b.extractLsb' 8 8).toNat
  if 32 ≤ p ∨ l = 0 then 0 else min l (32 - p)
/-- The position byte. -/
def fieldPos (b : Word) : Nat := (b.extractLsb' 0 8).toNat
/-- Extract a field, zero-extended. -/
def bfxN (a b : Word) : Word := BitVec.ofNat 32 (a.toNat / 2 ^ fieldPos b % 2 ^ fieldLen b)
/-- Extract a field, sign-extended. -/
def bfxS (a b : Word) : Word :=
  let m := fieldLen b
  let v := a.toNat / 2 ^ fieldPos b % 2 ^ m
  if m = 0 then 0 else if 2 ^ (m - 1) ≤ v then BitVec.ofNat 32 v - BitVec.ofNat 32 (2 ^ m) else BitVec.ofNat 32 v
/-- Insert the low bits of a into a field of d. -/
def bfi (d a b : Word) : Word :=
  let k := (BitVec.ofNat 32 (2 ^ fieldLen b - 1)) <<< fieldPos b
  (d &&& ~~~k) ||| ((a <<< fieldPos b) &&& k)
/-- Byte permute: selector nibbles 0-3 take bytes of a, 4-7 bytes of d, others 0. -/
def bprm (d a b : Word) : Word :=
  wordOfBytes ((List.range 4).map (fun i =>
    let c := (b.extractLsb' (4 * i) 4).toNat
    if c ≤ 3 then byteOf a c else if c ≤ 7 then byteOf d (c - 4) else 0))

end Sys2Proof.Machine.Alu
end

