-- ==== Sys2Proof/Machine/Int.lean ====
section
/-! DEFINITION. Integer arithmetic: majors 0x00 to 0x02 (R243, R254, R255). -/
namespace Sys2Proof.Machine

/-- NOP: Does nothing; may be chained with any word (R243). -/
def execNop (_ : FmtN) (s : State) : Answer := .next (runPure (fun s _ => s) s)

/-- ADD_B32: Adds two 32-bit registers modulo 2^32 (R254). -/
def execAddB32 (f : FmtR) (s : State) : Answer := .next (opR32 f (fun a b => a + b) s)

/-- SUB_B32: Subtracts two 32-bit registers modulo 2^32 (R254). -/
def execSubB32 (f : FmtR) (s : State) : Answer := .next (opR32 f (fun a b => a - b) s)

/-- MUL_B32: Low 32 bits of the product (R254). -/
def execMulB32 (f : FmtR) (s : State) : Answer := .next (opR32 f (fun a b => a * b) s)

/-- MULH_S32: High 32 bits of the signed product (R254). -/
def execMulhS32 (f : FmtR) (s : State) : Answer := .next (opR32 f Alu.mulhS s)

/-- MULH_N32: High 32 bits of the unsigned product (R254). -/
def execMulhN32 (f : FmtR) (s : State) : Answer := .next (opR32 f Alu.mulhN s)

/-- MIN_S32: Signed 32-bit minimum (R254). -/
def execMinS32 (f : FmtR) (s : State) : Answer := .next (opR32 f Alu.minS s)

/-- MIN_N32: Unsigned 32-bit minimum (R254). -/
def execMinN32 (f : FmtR) (s : State) : Answer := .next (opR32 f Alu.minN s)

/-- MAX_S32: Signed 32-bit maximum (R254). -/
def execMaxS32 (f : FmtR) (s : State) : Answer := .next (opR32 f Alu.maxS s)

/-- MAX_N32: Unsigned 32-bit maximum (R254). -/
def execMaxN32 (f : FmtR) (s : State) : Answer := .next (opR32 f Alu.maxN s)

/-- ABS_S32: Absolute value, wrapping (R254). -/
def execAbsS32 (f : FmtR) (s : State) : Answer := .next (opU32 f Alu.absS s)

/-- NEG_S32: Negation, wrapping (R254). -/
def execNegS32 (f : FmtR) (s : State) : Answer := .next (opU32 f (fun a => -a) s)

/-- MAD_B32: d plus a times b modulo 2^32 (R254). -/
def execMadB32 (f : FmtR) (s : State) : Answer := .next (opD32 f (fun d a b => d + a * b) s)

/-- ADD_B64: 64-bit add on pairs (R254). -/
def execAddB64 (f : FmtR) (s : State) : Answer := .next (opR64 f (fun a b => a + b) s)

/-- SUB_B64: 64-bit subtract on pairs (R254). -/
def execSubB64 (f : FmtR) (s : State) : Answer := .next (opR64 f (fun a b => a - b) s)

/-- MUL_B64: Low 64 bits of the product (R254). -/
def execMulB64 (f : FmtR) (s : State) : Answer := .next (opR64 f (fun a b => a * b) s)

/-- MULH_S64: High 64 bits of the signed product (R254). -/
def execMulhS64 (f : FmtR) (s : State) : Answer := .next (opR64 f Alu.mulhS s)

/-- MULH_N64: High 64 bits of the unsigned product (R254). -/
def execMulhN64 (f : FmtR) (s : State) : Answer := .next (opR64 f Alu.mulhN s)

/-- MIN_S64: Signed 64-bit minimum (R254). -/
def execMinS64 (f : FmtR) (s : State) : Answer := .next (opR64 f Alu.minS s)

/-- MIN_N64: Unsigned 64-bit minimum (R254). -/
def execMinN64 (f : FmtR) (s : State) : Answer := .next (opR64 f Alu.minN s)

/-- MAX_S64: Signed 64-bit maximum (R254). -/
def execMaxS64 (f : FmtR) (s : State) : Answer := .next (opR64 f Alu.maxS s)

/-- MAX_N64: Unsigned 64-bit maximum (R254). -/
def execMaxN64 (f : FmtR) (s : State) : Answer := .next (opR64 f Alu.maxN s)

/-- ABS_S64: 64-bit absolute value, wrapping (R254). -/
def execAbsS64 (f : FmtR) (s : State) : Answer := .next (opU64 f Alu.absS s)

/-- NEG_S64: 64-bit negation, wrapping (R254). -/
def execNegS64 (f : FmtR) (s : State) : Answer := .next (opU64 f (fun a => -a) s)

/-- MAD_B64: 64-bit multiply-add into d (R254). -/
def execMadB64 (f : FmtR) (s : State) : Answer := .next (opD64 f (fun d a b => d + a * b) s)

/-- IDP4_S8: Adds four signed byte products to d (R254). -/
def execIdp4S8 (f : FmtR) (s : State) : Answer := .next (opD32 f Alu.idp4S s)

/-- IDP4_N8: Adds four unsigned byte products to d (R254). -/
def execIdp4N8 (f : FmtR) (s : State) : Answer := .next (opD32 f Alu.idp4N s)

end Sys2Proof.Machine
end

