-- ==== Sys2Proof/Machine/Logic.lean ====
section
/-! DEFINITION. Logic, shifts and bit operations: majors 0x03, 0x04 and 0x15 (R256-R259). -/
namespace Sys2Proof.Machine

/-- A register shift amount: the low 32 bits of B (R256). -/
def amt (b : DWord) : Nat := (b.truncate 32 : Word).toNat

/-- AND_B32: Bitwise AND (R256). -/
def execAndB32 (f : FmtR) (s : State) : Answer := .next (opR32 f (fun a b => a &&& b) s)

/-- OR_B32: Bitwise OR (R256). -/
def execOrB32 (f : FmtR) (s : State) : Answer := .next (opR32 f (fun a b => a ||| b) s)

/-- XOR_B32: Bitwise XOR (R256). -/
def execXorB32 (f : FmtR) (s : State) : Answer := .next (opR32 f (fun a b => a ^^^ b) s)

/-- ANDN_B32: a AND NOT b (R256). -/
def execAndnB32 (f : FmtR) (s : State) : Answer := .next (opR32 f (fun a b => a &&& ~~~b) s)

/-- SHL_B32: Shift left by register amount (R256). -/
def execShlB32 (f : FmtR) (s : State) : Answer := .next (opR32 f (fun a b => Alu.shl a b.toNat) s)

/-- SHR_B32: Logical shift right by register amount (R256). -/
def execShrB32 (f : FmtR) (s : State) : Answer := .next (opR32 f (fun a b => Alu.shr a b.toNat) s)

/-- SAR_B32: Arithmetic shift right by register amount (R256). -/
def execSarB32 (f : FmtR) (s : State) : Answer := .next (opR32 f (fun a b => Alu.sar a b.toNat) s)

/-- ROL_B32: Rotate left by register amount (R256). -/
def execRolB32 (f : FmtR) (s : State) : Answer := .next (opR32 f (fun a b => Alu.rol a b.toNat) s)

/-- AND_B64: 64-bit AND on pairs (R256). -/
def execAndB64 (f : FmtR) (s : State) : Answer := .next (opR64 f (fun a b => a &&& b) s)

/-- OR_B64: 64-bit OR on pairs (R256). -/
def execOrB64 (f : FmtR) (s : State) : Answer := .next (opR64 f (fun a b => a ||| b) s)

/-- XOR_B64: 64-bit XOR on pairs (R256). -/
def execXorB64 (f : FmtR) (s : State) : Answer := .next (opR64 f (fun a b => a ^^^ b) s)

/-- ANDN_B64: 64-bit a AND NOT b (R256). -/
def execAndnB64 (f : FmtR) (s : State) : Answer := .next (opR64 f (fun a b => a &&& ~~~b) s)

/-- SHL_B64: 64-bit shift left (R256). -/
def execShlB64 (f : FmtR) (s : State) : Answer := .next (opR64 f (fun a b => Alu.shl a (amt b)) s)

/-- SHR_B64: 64-bit logical shift right (R256). -/
def execShrB64 (f : FmtR) (s : State) : Answer := .next (opR64 f (fun a b => Alu.shr a (amt b)) s)

/-- SAR_B64: 64-bit arithmetic shift right (R256). -/
def execSarB64 (f : FmtR) (s : State) : Answer := .next (opR64 f (fun a b => Alu.sar a (amt b)) s)

/-- ROL_B64: 64-bit rotate left (R256). -/
def execRolB64 (f : FmtR) (s : State) : Answer := .next (opR64 f (fun a b => Alu.rol a (amt b)) s)

/-- SHLI: Shift left by immediate, 32 or 64 bits (R257). -/
def execShli (f : FmtSh) (s : State) : Answer := .next (opSh f (fun a => Alu.shl a f.n.toNat) (fun a => Alu.shl a f.n.toNat) s)

/-- SHRI: Logical shift right by immediate (R257). -/
def execShri (f : FmtSh) (s : State) : Answer := .next (opSh f (fun a => Alu.shr a f.n.toNat) (fun a => Alu.shr a f.n.toNat) s)

/-- SARI: Arithmetic shift right by immediate (R257). -/
def execSari (f : FmtSh) (s : State) : Answer := .next (opSh f (fun a => Alu.sar a f.n.toNat) (fun a => Alu.sar a f.n.toNat) s)

/-- ROLI: Rotate left by immediate (R257). -/
def execRoli (f : FmtSh) (s : State) : Answer := .next (opSh f (fun a => Alu.rol a f.n.toNat) (fun a => Alu.rol a f.n.toNat) s)

/-- POPC_B32: Counts 1 bits (R258). -/
def execPopcB32 (f : FmtR) (s : State) : Answer := .next (opU32 f (fun a => BitVec.ofNat 32 (Alu.popc a)) s)

/-- POPC_B64: Counts 1 bits of a pair (R258). -/
def execPopcB64 (f : FmtR) (s : State) : Answer := .next (opN64 f (fun a => BitVec.ofNat 32 (Alu.popc a)) s)

/-- CLZ_B32: Counts leading zeros (R258). -/
def execClzB32 (f : FmtR) (s : State) : Answer := .next (opU32 f (fun a => BitVec.ofNat 32 (Alu.clz a)) s)

/-- CLZ_B64: Leading zeros of a pair (R258). -/
def execClzB64 (f : FmtR) (s : State) : Answer := .next (opN64 f (fun a => BitVec.ofNat 32 (Alu.clz a)) s)

/-- CTZ_B32: Counts trailing zeros (R258). -/
def execCtzB32 (f : FmtR) (s : State) : Answer := .next (opU32 f (fun a => BitVec.ofNat 32 (Alu.ctz a)) s)

/-- CTZ_B64: Trailing zeros of a pair (R258). -/
def execCtzB64 (f : FmtR) (s : State) : Answer := .next (opN64 f (fun a => BitVec.ofNat 32 (Alu.ctz a)) s)

/-- BREV_B32: Reverses bits (R258). -/
def execBrevB32 (f : FmtR) (s : State) : Answer := .next (opU32 f Alu.brev s)

/-- BREV_B64: Reverses the bits of a pair (R258). -/
def execBrevB64 (f : FmtR) (s : State) : Answer := .next (opU64 f Alu.brev s)

/-- BFX_N32: Extracts an unsigned bit field (R259). -/
def execBfxN32 (f : FmtR) (s : State) : Answer := .next (opR32 f Alu.bfxN s)

/-- BFX_S32: Extracts a signed bit field (R259). -/
def execBfxS32 (f : FmtR) (s : State) : Answer := .next (opR32 f Alu.bfxS s)

/-- BFI_B32: Inserts a bit field into d (R259). -/
def execBfiB32 (f : FmtR) (s : State) : Answer := .next (opD32 f Alu.bfi s)

/-- BPRM_B32: Permutes bytes of a and d (R259). -/
def execBprmB32 (f : FmtR) (s : State) : Answer := .next (opD32 f Alu.bprm s)

end Sys2Proof.Machine
end

