-- ==== Sys2Proof/Machine/Move.lean ====
section
/-! DEFINITION. Moves, selects, integer compares, flags and immediates: majors 0x05, 0x06, 0x08, 0x10-0x14, 0x16, 0x17
(R260, R262-R266). XLOC and XIDX stand with the tensors. -/
namespace Sys2Proof.Machine

/-- MOV_B32: Copies a register (R260). -/
def execMovB32 (f : FmtR) (s : State) : Answer := .next (opU32 f (fun a => a) s)

/-- MOV_B64: Copies a register pair (R260). -/
def execMovB64 (f : FmtR) (s : State) : Answer := .next (opU64 f (fun a => a) s)

/-- SEL_B32: a when flag fN is 1, else b (R260). -/
def execSelB32 (f : FmtR) (n : BitVec 3) (s : State) : Answer :=
  .next (runPure (fun s t =>
    let v := if s.readF t n.toNat then s.readG t f.a.toNat else s.readG t f.b.toNat
    (s.useLast t (mark f.la [(f.a.toNat, 1)] ++ mark f.lb [(f.b.toNat, 1)])).writeG t f.d.toNat v) s)

/-- CMP: compares two integers into a flag (R262). -/
def execCmp (f : FmtF) (s : State) : Answer :=
  .next (opCmp f (f.ty == 2 || f.ty == 3) (cmpHolds f.cc.toNat f.ty.toNat) s)

/-- CMPI: compares a register with an immediate; D holds the flag and the code (R263). -/
def execCmpi (f : FmtI) (s : State) : Answer :=
  .next (runPure (fun s t =>
    let v := cmpiHolds (f.d.toNat % 8) (s.readG t f.a.toNat) (f.imm.signExtend 32)
    (s.useLast t (mark f.la [(f.a.toNat, 1)])).writeF t (f.d.toNat / 8) v) s)

/-- FAND: AND of two flags (R264). -/
def execFAnd (f : FmtR) (s : State) : Answer := .next (opFlag f (fun a b => a && b) s)

/-- FOR: OR of two flags (R264). -/
def execFOr (f : FmtR) (s : State) : Answer := .next (opFlag f (fun a b => a || b) s)

/-- FXOR: XOR of two flags (R264). -/
def execFXor (f : FmtR) (s : State) : Answer := .next (opFlag f (fun a b => a != b) s)

/-- FNOT: Inverts a flag (R264). -/
def execFNot (f : FmtR) (s : State) : Answer := .next (opFlag f (fun a _ => !a) s)

/-- FSET: a flag from a register that is not 0 (R264). -/
def execFSet (f : FmtR) (s : State) : Answer :=
  .next (runPure (fun s t =>
    let v := s.readG t f.a.toNat != 0
    (s.useLast t (mark f.la [(f.a.toNat, 1)])).writeF t (flagNo f.d) v) s)

/-- FGET: a register from a flag (R264). -/
def execFGet (f : FmtR) (s : State) : Answer :=
  .next (runPure (fun s t => s.writeG t f.d.toNat (bitWord (s.readF t (flagNo f.a)))) s)

/-- ADDI_B32: Adds a signed immediate (R265). -/
def execAddiB32 (f : FmtI) (s : State) : Answer := .next (opI32 f (fun a => a + f.imm.signExtend 32) s)

/-- ADDI_B64: Adds a signed immediate to a pair (R265). -/
def execAddiB64 (f : FmtI) (s : State) : Answer := .next (opI64 f (fun a => a + f.imm.signExtend 64) s)

/-- ANDI: AND with a zero-extended immediate (R265). -/
def execAndi (f : FmtI) (s : State) : Answer := .next (opI32 f (fun a => a &&& f.imm.zeroExtend 32) s)

/-- ORI: OR with a zero-extended immediate (R265). -/
def execOri (f : FmtI) (s : State) : Answer := .next (opI32 f (fun a => a ||| f.imm.zeroExtend 32) s)

/-- XORI: XOR with a zero-extended immediate (R265). -/
def execXori (f : FmtI) (s : State) : Answer := .next (opI32 f (fun a => a ^^^ f.imm.zeroExtend 32) s)

/-- MOVI_N: Loads a zero-extended 16-bit constant (R266). -/
def execMoviN (f : FmtL) (s : State) : Answer := .next (opConst f (f.imm.zeroExtend 32) s)

/-- MOVI_S: Loads a sign-extended 16-bit constant (R266). -/
def execMoviS (f : FmtL) (s : State) : Answer := .next (opConst f (f.imm.signExtend 32) s)

/-- MOVH: Writes the upper 16 bits of a register (R266). -/
def execMovh (f : FmtL) (s : State) : Answer := .next (opL f (fun d => f.imm ++ (d.truncate 16 : BitVec 16)) s)

/-- ADDH: Adds imm times 2^16 (R266). -/
def execAddh (f : FmtL) (s : State) : Answer := .next (opL f (fun d => d + (f.imm ++ (0 : BitVec 16))) s)

end Sys2Proof.Machine
end

