-- ==== Sys2Proof/Machine/Placement.lean ====
section
/-! DEFINITION. The placement unit: regions, decisions, migration, replication, the placement log and the frame rings
(R47-R54, R448). -/
namespace Sys2Proof.Machine

/-! ## Regions (R47) -/

/-- Address of the level-3 table that an address's walk reaches through pointers. -/
def State.leafTable (s : State) (va : Nat) : List Nat → Nat → Option Nat × State
  | [], base => (if base < devTop then some base else none, s)
  | sh :: rest, base =>
    if devTop ≤ base then (none, s)
    else
      let r := s.readDwordAt 0 (base + 8 * (va / 2 ^ sh % 512))
      let e := r.1.toNat
      if !bitOf e 0 || bitOf e 1 || decide (fld e 11 2 ≠ 0) || decide (fld e 63 52 ≠ 0) then (none, r.2)
      else r.2.leafTable va rest (fld e 51 12 * 4096)
/-- A region's 16 entries, with the address of the first. -/
def State.regionEntries (s : State) (asid region : Nat) : Option (Nat × List DWord) × State :=
  let c := s.ctx asid
  let t := if ctxValid c.1 then c.2.leafTable (65536 * region) [39, 30, 21] (ctxPt c.1) else (none, c.2)
  match t.1 with
  | none => (none, t.2)
  | some b =>
    let a := b + 8 * (16 * region % 512)
    let r := t.2.readDwordsAt 0 a 16
    (some (a, r.1), r.2)
/-- Frame of an entry, and the home agent that serves it. -/
def frameOf (e : DWord) : Nat := fld e.toNat 51 12
/-- Home agent of a 4 KiB frame. -/
def frameHome (f : Nat) : Nat := f / 2 ^ 24 % 8
/-- A region is eligible, and its entries do not say that it moves (R47). -/
def regionGood (es : List DWord) : Bool :=
  es.all (fun e => let v := e.toNat
    bitOf v 0 && bitOf v 1 && leafGood 12 v && bitOf v 8 && !bitOf v 7 && !bitOf v 9) &&
    (es.all (fun e => !bitOf e.toNat 6) || runGood es) &&
    es.all (fun e => frameHome (frameOf e) == frameHome (frameOf (es.getD 0 0)))

/-! ## Frame rings (R448) -/

/-- Free frames granted to a home agent: FTAIL - FHEAD. -/
def State.freeFrames (s : State) (h : Nat) : Nat :=
  let v := (s.greg (.frameidx h)).toNat
  if ringLog (s.greg (.framepool h)) = 0 then 0 else (fld v 31 0 + 2 ^ 32 - fld v 63 32) % 2 ^ 32
/-- Take a frame of a home agent; an entry that is not one of its frames is skipped and counted. The 4 KiB frame number of
its first page. -/
def State.takeFrame : Nat → State → Nat → Option Nat × State
  | 0, s, _ => (none, s)
  | n + 1, s, h =>
    let ring := s.greg (.framepool h)
    let v := (s.greg (.frameidx h)).toNat
    if s.freeFrames h = 0 then (none, s)
    else
      let a := ringBase ring + 8 * (fld v 63 32 % 2 ^ ringLog ring)
      let r := if a + 8 ≤ devTop then s.readDwordAt (homeDie (a / 256)) a else (1, s)
      let e := r.1.toNat
      let s := r.2.setGreg (.frameidx h) (BitVec.ofNat 64 (fld v 31 0 + (fld v 63 32 + 1) % 2 ^ 32 * 2 ^ 32))
      if fld e 15 0 ≠ 0 ∨ fld e 63 52 ≠ 0 ∨ devTop ≤ e ∨ frameHome (e / 4096) ≠ h then State.takeFrame n (s.bumpG .regwerr) h
      else (some (e / 4096), s)
/-- Draw one frame from a home agent's ring. -/
def State.drawFrame (s : State) (h : Nat) : Option Nat × State := State.takeFrame 4096 s h
/-- The return ring of a home agent has room (R448). -/
def State.returnRoom (s : State) (h : Nat) : Bool :=
  let v := (s.greg (.retidx h)).toNat
  ringRoom (s.greg (.frameret h)) (BitVec.ofNat 64 (fld v 31 0)) (BitVec.ofNat 64 (fld v 63 32)) 8
/-- Return a 64 KiB frame to the host. -/
def State.returnFrame (s : State) (f : Nat) : State :=
  let h := frameHome f
  let v := (s.greg (.retidx h)).toNat
  if s.returnRoom h then
    (s.wrN (ringSlot (s.greg (.frameret h)) (BitVec.ofNat 64 (fld v 31 0)) 8) (bytesOfNat 8 (4096 * f))).setGreg (.retidx h)
      (BitVec.ofNat 64 ((fld v 31 0 + 1) % 2 ^ 32 + fld v 63 32 * 2 ^ 32))
  else s
/-- The pages of a region are one whole 64 KiB frame. -/
def wholeFrame (es : List DWord) : Option Nat :=
  let f := frameOf (es.getD 0 0)
  if f % 16 = 0 ∧ (List.range 16).all (fun i => frameOf (es.getD i 0) == f + i) then some f else none

/-! ## Moving data (R49, R52) -/

/-- Write the entries of a region (each as one compare-and-swap that succeeds). -/
def State.putEntries (s : State) (a : Nat) (es : List DWord) : State :=
  s.wrN a (es.flatMap (fun e => bytesOfNat 8 e.toNat))
/-- Every cached copy of a line goes, those in L1s too. -/
def State.uncache (s : State) (line : Nat) : State :=
  let s := s.toI line
  { s with l1 := s.l1.filter (fun e => e.1 % 2 ^ 52 / 64 != line) }
/-- What REMAP passes have noted of a line holds of the line that it is copied to (R135). -/
def Layout.carryHits (l : Layout) (src dst : Nat) : Layout :=
  { l with hits := l.hits ++ l.hits.filterMap (fun (h : Nat × Nat × Nat) =>
      let lo := max h.2.1 (256 * src)
      let hi := min (h.2.1 + h.2.2) (256 * src + 256)
      if !l.rcd.spm && h.1 == 0 && decide (lo < hi) then some (0, 256 * dst + (lo - 256 * src), hi - lo) else none) }
/-- A copy of a line's bytes and its POISON bit into another line, whose metadata starts in I. -/
def State.copyLine (s : State) (src dst : Nat) : State :=
  let s := (s.toI src).uncache dst
  let s := { s with layouts := s.layouts.map (fun (e : Nat × Layout) => (e.1, e.2.carryHits src dst)) }
  let b := Memory.bytes s.mem (256 * src) 256
  { s with mem := Memory.write s.mem (256 * dst) b }.setMeta dst { poison := (s.lineMeta src).poison }
/-- Copy the 16 pages of a region into 16 frames from `f` on. -/
def State.copyRegion (s : State) (es : List DWord) (f : Nat) : State :=
  (List.range 256).foldl (fun s i => s.copyLine (16 * frameOf (es.getD (i / 16) 0) + i % 16) (16 * f + i)) s
/-- Lines of the 16 pages. -/
def regionLines (es : List DWord) : List Nat :=
  (List.range 256).map (fun i => 16 * frameOf (es.getD (i / 16) 0) + i % 16)
/-- Discard a region's translations in every cache (R32). -/
def State.dropRegion (s : State) (asid region : Nat) : State :=
  let lo := 65536 * region
  { s with tlbs := dropTlbs asid false lo (lo + 65536) s.tlbs, twe := dropTlbs asid false lo (lo + 65536) s.twe }

/-! ## The placement log (R54) -/

/-- Dies that hold replicas of a region. -/
def State.replicaDies (s : State) (asid region : Nat) : List Nat :=
  (List.range 4).filter (fun d => s.replicas.any (fun r => r.asid == asid && r.region == region && r.die == d))
/-- A record of an action, where the descriptor's PLOGV is set, whatever its V and reserved fields; SEQ counts the records written,
and a log that does not lie in device memory gets none (log 100). -/
def State.plog (s : State) (asid region action from_ to_ home : Nat) : State :=
  let c := s.ctx asid
  let s := c.2
  let d := dwAt c.1 3
  let n := Tbl.get 0 s.plogSeq asid
  let base := fld d 51 12 * 4096
  if !bitOf d 0 || decide (devTop < base + 4096) then s
  else
    let dies := ((s.replicaDies asid region).map (fun d => 2 ^ d)).sum
    let rcd := [65536 * region % 2 ^ 48, action + 256 * from_ + 65536 * to_ + 2 ^ 24 * dies, n % 2 ^ 64,
      Tbl.get 0 s.epochs home % 2 ^ 64]
    let s := s.wrN (base + 32 * (n % 128)) (rcd.flatMap (bytesOfNat 8))
    { s with plogSeq := Tbl.put s.plogSeq asid (n + 1) }

/-! ## Decisions (R48) -/

/-- Accesses counted for a region by die. -/
structure RegionCount where
  asid : Nat
  region : Nat
  rd : List Nat
  wr : List Nat
  deriving DecidableEq, Repr
/-- The counts of a region: those of the frames that its entries name. -/
def State.regionCount (s : State) (asid region : Nat) (es : List DWord) : RegionCount :=
  let of := fun (f : AccessCount → List Nat) => (List.range 4).map (fun d =>
    (es.map (fun e => (f (Tbl.get {} s.counts (frameOf e))).getD d 0)).sum)
  { asid := asid, region := region, rd := of AccessCount.rd, wr := of AccessCount.wr }
/-- Reads and writes of a die. -/
def RegionCount.sum (c : RegionCount) (d : Nat) : Nat := c.rd.getD d 0 + c.wr.getD d 0
/-- Reads and writes of every other die. -/
def RegionCount.others (c : RegionCount) (d : Nat) : Nat :=
  (((List.range 4).filter (· ≠ d)).map c.sum).sum
/-- A threshold of PLCTHR. -/
def State.threshold (s : State) (hi lo : Nat) : Nat := fld (s.greg .plcthr).toNat hi lo
/-- A die's home agents hold enough free frames. -/
def State.dieFree (s : State) (d : Nat) : Bool :=
  decide (s.threshold 55 40 ≤ s.freeFrames (2 * d) + s.freeFrames (2 * d + 1))
/-- The home agent of a die with more free frames, the lower-numbered on a tie. -/
def State.agentOf (s : State) (d : Nat) : Nat :=
  if s.freeFrames (2 * d) < s.freeFrames (2 * d + 1) then 2 * d + 1 else 2 * d
/-- What the placement unit decides for a region. -/
inductive Placement
  | stay
  | migrate (die : Nat)
  | replicate (dies : List Nat)
  deriving DecidableEq, Repr
/-- The first row of R48's table whose condition holds. -/
def State.decidePlacement (s : State) (c : RegionCount) (es : List DWord) (home : Nat) : Placement :=
  let h := home / 2
  if s.threshold 7 0 < (Config.linkOccupancy (Tbl.get 0 s.epochs home)).toNat then .stay
  else if !s.returnRoom home then .stay
  else
    match ([0, 1, 2, 3].find? (fun d => decide (d ≠ h ∧ s.threshold 23 8 ≤ c.sum d ∧ 4 * c.others d ≤ c.sum d) && s.dieFree d)) with
    | some d => .migrate d
    | none =>
      let ds := [0, 1, 2, 3].filter (fun d => decide (d ≠ h ∧ s.threshold 39 24 ≤ c.rd.getD d 0) && s.dieFree d)
      if c.wr.sum = 0 ∧ es.all (fun e => !bitOf e.toNat 3) ∧ ds ≠ [] then .replicate ds else .stay
/-- A migration begins: MIG is set in the 16 entries, and the region's translations are discarded (R49 steps 1, 2). Where the target
agent's ring yields no frame of its own nothing has begun, and no record is written (log 113). -/
def State.beginMigration (s : State) (asid region a : Nat) (es : List DWord) (die : Nat) : State :=
  let to_ := s.agentOf die
  let f := s.drawFrame to_
  match f.1 with
  | none => f.2
  | some frame =>
    let es' := es.map (fun e => e ||| 0x200)
    let m : Migration := ⟨asid, region, frameHome (frameOf (es.getD 0 0)), to_, frame, a, es', s.nextStore⟩
    let s := (f.2.putEntries a es').dropRegion asid region
    { s with migrations := s.migrations ++ [m] }
/-- A replica of the region on a die is made, or made anew in the frame of one that is not released yet (R52). -/
def State.makeReplica (s : State) (asid region : Nat) (es : List DWord) (die : Nat) : State :=
  let mine := fun (r : Replica) => r.asid == asid && r.region == region && r.die == die
  match s.replicas.find? mine with
  | some r =>
    if r.dropped.isSome then
      let s := s.copyRegion es r.frame
      { s with replicas := s.replicas.map (fun q => if q = r then { q with dropped := none } else q) }
    else s
  | none =>
    let f := s.drawFrame (s.agentOf die)
    match f.1 with
    | none => f.2
    | some frame =>
      let s := f.2.copyRegion es frame
      { s with replicas := s.replicas ++ [⟨asid, region, die, frame, none⟩] }
/-- Replicas are made on dies, and REP is set in the 16 entries; a replica from before REP was cleared serves no read until it
has been copied again, and is released at the end of the epoch after this one (R52). -/
def State.replicate (s : State) (asid region a : Nat) (es : List DWord) (dies : List Nat) : State :=
  let home := frameHome (frameOf (es.getD 0 0))
  let s : State := if es.all (fun e => bitOf e.toNat 10) then s
    else { s with replicas := s.replicas.map (fun r =>
      if r.asid = asid ∧ r.region = region ∧ r.dropped = none then { r with dropped := some (Tbl.get 0 s.epochs home + 1) } else r) }
  let live := fun (s : State) => s.replicas.filter (fun r => r.asid == asid && r.region == region && r.dropped.isNone)
  let n := (live s).length
  let s := dies.foldl (fun (s : State) d => s.makeReplica asid region es d) s
  if (live s).length = n then s
  else (s.putEntries a (es.map (fun e => e ||| 0x400))).plog asid region 2 home home home
/-- One region's decision at the end of an epoch. -/
def State.placeRegion (s : State) (home : Nat) (x : Nat × Nat) : State :=
  let r := s.regionEntries x.1 x.2
  match r.1 with
  | none => r.2
  | some (a, es) =>
    if !regionGood es || frameHome (frameOf (es.getD 0 0)) != home then r.2
    else match r.2.decidePlacement (r.2.regionCount x.1 x.2 es) es home with
      | .stay => r.2
      | .migrate d => r.2.beginMigration x.1 x.2 a es d
      | .replicate ds => r.2.replicate x.1 x.2 a es ds
/-- A replica at the end of an epoch of the home agent of its frame: where REP is found clear it serves no walk any more, and at
the end of the next epoch it is released, once its frame can be returned (R52, R448). The record names the home agent of the frame
in the region's first entry, whatever its V and TGT say, or the replica's own where the entries cannot be read (log 101). -/
def State.releaseReplica (s : State) (home : Nat) (x : Replica) : State :=
  if frameHome x.frame ≠ home then s
  else
    let r := s.regionEntries x.asid x.region
    let s := r.2
    let es := match r.1 with
      | some e => e.2
      | none => []
    let now := Tbl.get 0 s.epochs home
    match x.dropped with
    | none =>
      if es ≠ [] ∧ es.all (fun e => bitOf e.toNat 0 && bitOf e.toNat 10) then s
      else { s with replicas := s.replicas.map (fun q => if q = x then { q with dropped := some (now + 1) } else q) }
    | some e =>
      if now < e ∨ s.returnRoom home = false then s
      else
      let s := (List.range 256).foldl (fun s i => s.uncache (16 * x.frame + i)) s
      let s := { s with replicas := s.replicas.erase x }.returnFrame x.frame
      let at_ := if es = [] then home else frameHome (frameOf (es.getD 0 0))
      s.plog x.asid x.region 3 at_ at_ home
/-- PLACEMENT_EPOCH: a home agent decides once for each region that it serves and clears their counts; replicas are released
(R48, R52). -/
def execPlacementEpoch (home : Nat) (s : State) : Host.Outcome State Fault Refusal :=
  .next (if 7 < home ∨ s.powered = false then s
  else
    let old := s.replicas
    let s := s.regions.foldl (fun s x => s.placeRegion home x) s
    let s := (s.replicas.filter (fun x => old.contains x)).foldl (fun s x => s.releaseReplica home x) s
    { s with
      counts := s.counts.filter (fun e => frameHome e.1 != home)
      epochs := Tbl.put s.epochs home (Tbl.get 0 s.epochs home + 1) })
/-- A migration is abandoned: MIG is cleared in the entries that are still as the unit left them, the new frame goes back,
and the log says so (R49, R54). -/
def State.abandon (s : State) (m : Migration) (es : List DWord) : State :=
  let back := (List.range 16).map (fun i =>
    let e := es.getD i 0
    if e = m.entries.getD i 0 then e &&& ~~~0x200 else e)
  ((s.putEntries m.addr back).returnFrame m.frame).plog m.asid m.region 4 m.from_ m.from_ m.from_
/-- A line in U is merged (R49 step 3). -/
def State.mergeU (s : State) (line : Nat) : State := if (s.lineMeta line).st = .u then s.merge line else s
/-- MIGRATION_FINISH: once the stores that translated before are performed, the region's lines are merged, written back and
copied, and its entries name the new frames; a lock on a line, or an entry that has changed, abandons the move (R49 steps 2 to 5,
R51, R54). -/
def execMigrationFinish (asid region : Nat) (s : State) : Host.Outcome State Fault Refusal :=
  .next (match s.migrations.find? (fun m => m.asid == asid && m.region == region) with
    | none => s
    | some m =>
      if !s.returnRoom m.from_ || !s.returnRoom m.to_ || s.storesBefore asid m.seq then s
      else
        let r := s.readDwordsAt 0 m.addr 16
        let es := r.1
        let s : State := { r.2 with migrations := r.2.migrations.erase m }
        let s := (regionLines m.entries).foldl (fun s l => s.mergeU l) s
        if es ≠ m.entries ∨ (regionLines es).any (fun l => (s.lineMeta l).hint) then s.abandon m es
        else
          let s := (s.copyRegion es m.frame)
          let s := (regionLines es).foldl (fun s l => s.uncache l) s
          let new := (List.range 16).map (fun i =>
            (es.getD i 0 &&& ~~~(0x000FFFFFFFFFF200 : DWord)) ||| BitVec.ofNat 64 ((m.frame + i) * 4096))
          let s := s.putEntries m.addr new
          let s := match wholeFrame es with
            | some f => s.returnFrame f
            | none => s
          s.plog asid region 1 m.from_ m.to_ m.from_)
/-- MIG_REWALK: a thread that waits on MIG = 1 walks again once it is clear; so do the device's own decrements (R50, log 44). -/
def execMigRewalk (t : ThreadRef) (s : State) : Host.Outcome State Fault Refusal :=
  .next (match (s.thread t).status with
    | .parked (.retry (.mig asid page)) =>
      let w := s.walk (dieOf (s.coreOf t)) asid (4096 * page)
      (match w.1 with
        | .leaf _ _ e => if bitOf e 9 then w.2 else w.2.unretry t
        | _ => w.2.unretry t).retrySignals
    | _ => s.retrySignals)

end Sys2Proof.Machine
end

