-- ==== Sys2Proof/Machine/Rrot.lean ====
section
/-! DEFINITION. The bed's ring rotation (R84, R307-R309). -/
namespace Sys2Proof.Machine

/-- RROT: issues a rotation, the next one of its launch on its core (R307, R308). -/
def execRrot (f : FmtT) (s : State) : Answer :=
  .next (runLanes (fun s t =>
    let bar := (s.readG t f.h.toNat).toNat
    let src := (s.readG t f.a.toNat).toNat
    let dst := (s.readG t (f.a.toNat + 1)).toNat
    let n := (s.readG t f.bo.toNat).toNat
    let size := (s.task t.task).spmSize
    let bad := fun (o : Nat) => Res.trapAt trapAlign 0 (BitVec.ofNat 64 o) s
    let far := fun (o : Nat) => Res.trapAt trapProt 7 (BitVec.ofNat 64 o) s
    if src % 64 ≠ 0 then bad src
    else if dst % 64 ≠ 0 then bad dst
    else if n % 64 ≠ 0 ∨ n < 64 ∨ 262144 < n then bad n
    else if size < src + n then far src
    else if size < dst + n then far dst
    else (s.spmLocate t bar 32).andThen fun _ s =>
      let l := (s.task t.task).launch
      let core := s.coreOf t
      let i := Tbl.get 0 ((s.launch? l).getD {}).rrots core
      let s := s.modLaunch l (fun l => { l with rrots := l.rrots.put core (i + 1), pinned := true })
      .ok () ((s.fork t (s.thread t).pc (.rrot src dst n i none false) (some bar) n 0 0).commit t)) s).endCycle

/-- The rotation of a launch with number `i` on a core that has not started; one of a task whose save has begun stays as it is
(R393). -/
def State.rrotAt (s : State) (launch core i : Nat) : Option (Nat × EngineOp) :=
  List.find? (fun (e : Nat × EngineOp) =>
    match e.2.kind with
    | .rrot _ _ _ j _ false => j == i && e.2.core == core && (s.task e.2.task).launch == launch && !(s.task e.2.task).away
    | _ => false) s.engines
/-- Source bytes of a rotation's core. -/
def State.rrotTile (s : State) (o : EngineOp) : List Byte :=
  match o.kind with
  | .rrot src _ n _ _ _ => s.spmBytes o.task src n
  | _ => []
/-- The eight rotations of a bed with the least number that all have issued. -/
def State.rrotReady (s : State) (launch bed : Nat) : Option (List (Nat × EngineOp)) :=
  let first := s.engines.filterMap (fun e =>
    match e.2.kind with
    | .rrot _ _ _ j _ false => if e.2.core == 8 * bed && (s.task e.2.task).launch == launch then some j else none
    | _ => none)
  (List.mergeSort first).findSome? (fun i => (List.range 8).mapM (fun k => s.rrotAt launch (8 * bed + k) i))
/-- The rotations that pair on a bed carry one count (R309): their tiles are equally long. -/
def oneCount (tiles : List (List Byte)) : Bool := tiles.all (fun t => t.length == (tiles.headD []).length)
/-- RROT_START: all source bytes of a bed are read, each core taking its predecessor's tile; `prog2` of each notes whether the eight
counts differ (R308, R309). -/
def execRrotStart (launch bed : Nat) (s : State) : Answer :=
  .next (match s.rrotReady launch bed with
    | none => s
    | some ops =>
      let tiles := ops.map (fun e => s.rrotTile e.2)
      (List.range ops.length).foldl (fun s k =>
        s.setOp (ops.getD k (0, s.peeker ⟨0, 0⟩)).1 (fun o =>
          match o.kind with
          | .rrot src dst n i _ _ => { o with kind := .rrot src dst n i (some (tiles.getD ((k + 7) % 8) [])) true, prog2 := b2n (!oneCount tiles) }
          | _ => o)) s)
/-- RROT_ARRIVE: the predecessor's tile is written, as far as the own count goes; every receiver of a pairing whose counts differ sets
ERROR (R308, R309). -/
def execRrotArrive (op : Nat) (s : State) : Answer :=
  .next (match s.engines.find? op with
    | none => s
    | some o =>
      match o.kind with
      | .rrot _ dst n _ (some tile) true =>
        let s := s.spmLand o.task dst (tile.take n)
        (if o.prog2 = 0 then s.completeOp op else s.errorOp op o).settleBarriers
      | _ => s)

end Sys2Proof.Machine
end

