-- ==== Sys2Proof/Machine/Sepal.lean ====
section
/-! DEFINITION. Switch flow processors: SKLD and SKREL, the load check, contexts, and the sepal instructions
(R420, R426-R443). -/
namespace Sys2Proof.Machine

/-! ## The load check (R439) -/

/-- What the load check needs of a word: its cycles, and where it may go. -/
inductive KWord
  | plain (cost : Nat)
  | branch (always : Bool) (off : Nat)
  | loop (count len : Nat)
  | done
  deriving DecidableEq, Repr
/-- The kind of a word that R434 admits, from its OP. -/
def kwordOf (w : Word) : KWord :=
  match fld w.toNat 31 26 with
  | 0x10 => .branch (bitOf w.toNat 24) (fld w.toNat 11 0)
  | 0x11 => .loop (fld w.toNat 25 16 + 1) (fld w.toNat 11 0)
  | 0x12 => .done
  | 0x18 | 0x19 | 0x1A | 0x28 => .plain 2
  | 0x20 | 0x21 | 0x25 => .plain 4
  | _ => .plain 1
/-- A word of a kernel. -/
def kAt (p : List KWord) (i : Nat) : Option KWord := p[i]?
/-- LOOP bodies: first and last word. -/
def bodiesOf (p : List KWord) : List (Nat × Nat) :=
  (List.range p.length).filterMap (fun i => match kAt p i with
    | some (.loop _ len) => some (i + 1, i + len)
    | _ => none)
/-- Branches: their place and target. -/
def branchesOf (p : List KWord) : List (Nat × Nat) :=
  (List.range p.length).filterMap (fun i => match kAt p i with
    | some (.branch _ off) => some (i, i + off)
    | _ => none)
/-- A word lies in a body. -/
def inBody (b : Nat × Nat) (i : Nat) : Bool := decide (b.1 ≤ i) && decide (i ≤ b.2)
/-- One body contains another. -/
def contains_ (a b : Nat × Nat) : Bool := decide (a.1 ≤ b.1) && decide (b.2 ≤ a.2)
/-- Rows 2 to 4. -/
def shapeOk (p : List KWord) : Bool :=
  let bs := bodiesOf p
  let br := branchesOf p
  br.all (fun e => decide (e.2 < p.length)) && bs.all (fun b => decide (b.2 < p.length)) &&
    bs.all (fun a => bs.all (fun b => decide (a.2 < b.1) || decide (b.2 < a.1) || contains_ a b || contains_ b a)) &&
    bs.all (fun b => decide ((bs.filter (fun a => contains_ a b)).length ≤ 2)) &&
    br.all (fun e => bs.all (fun b => !inBody b e.2 || inBody b e.1))
/-- Words that follow a word along some path; none after DONE. -/
def nextsOf (p : List KWord) (i : Nat) : List Nat :=
  match kAt p i with
  | some (.branch true off) => [i + off]
  | some (.branch false off) => [i + 1, i + off]
  | some .done => []
  | _ => [i + 1]
/-- Words that some path from word 0 reaches, one past the last among them (row 5). -/
def reached (p : List KWord) : List Nat :=
  (List.range p.length).foldl (fun r i => if r.contains i then r ++ (nextsOf p i).filter (fun j => !r.contains j) else r) [0]
/-- The greater of two path costs, where there is a path. -/
def maxPath (a b : Option Nat) : Option Nat :=
  match a, b with
  | some x, some y => some (max x y)
  | none, b => b
  | a, none => a
/-- The greatest cost of a path from each word of [lo, hi], first word first: to a DONE, or, as a pass of a body, to leaving the
range; none where there is no such path. A LOOP costs 1 + count × pass(body) and goes on after its body or at the target of a branch
that leaves it (R439). -/
def pathCosts (p : List KWord) (pass : Bool) : Nat → Nat → Nat → List (Option Nat)
  | 0, _, _ => []
  | d + 1, lo, hi =>
    (List.range (hi + 1 - lo)).reverse.foldl (fun acc k =>
      let i := lo + k
      let at_ := fun (j : Nat) => (acc[j - (i + 1)]?).getD (if pass then some 0 else none)
      (match kAt p i with
        | some (.plain c) => (at_ (i + 1)).map (c + ·)
        | some (.branch true off) => (at_ (i + off)).map (1 + ·)
        | some (.branch false off) => (maxPath (at_ (i + 1)) (at_ (i + off))).map (1 + ·)
        | some (.loop n len) =>
          let one := ((pathCosts p true d (i + 1) (i + len)).headD none).getD 0
          let outs := (branchesOf p).filter (fun e => inBody (i + 1, i + len) e.1 && !inBody (i + 1, i + len) e.2)
          ((outs.map (fun e => at_ e.2)).foldl maxPath (at_ (i + len + 1))).map (1 + n * one + ·)
        | some .done => if pass then none else some 1
        | none => if pass then some 0 else none) :: acc) []
/-- The bits a sepal word must hold zero, from its OP, I and U bits (R434); none for an OP the table does not have. -/
def sepalZeros (w : Word) : Option Nat :=
  let span := fun (hi lo : Nat) => 2 ^ (hi + 1) - 2 ^ lo
  match fld w.toNat 31 26 with
  | 0x01 | 0x02 | 0x03 | 0x04 | 0x05 | 0x06 | 0x07 | 0x08 | 0x09 => some (if bitOf w.toNat 17 then 0 else span 12 0)
  | 0x0A | 0x0B => some (span 21 16)
  | 0x0C => some (if bitOf w.toNat 16 then 0 else span 11 0)
  | 0x10 => some (if bitOf w.toNat 24 then span 25 25 + span 23 12 else span 21 12)
  | 0x11 => some (span 15 12)
  | 0x12 | 0x2D => some (span 25 0)
  | 0x14 => some (span 21 18 + span 13 0)
  | 0x15 => some (span 25 22 + span 13 0)
  | 0x16 | 0x18 | 0x20 => some (span 17 14)
  | 0x17 | 0x19 => some (span 25 22)
  | 0x1A | 0x21 => some 0
  | 0x22 | 0x23 | 0x24 => some (span 14 0)
  | 0x25 => some (span 18 17 + span 14 0)
  | 0x26 => some (span 19 17 + span 14 0)
  | 0x28 => some (span 17 17 + span 12 0)
  | 0x2C | 0x2E => some (span 25 22 + span 17 0)
  | 0x30 => some (span 21 0)
  | 0x31 => some (span 25 8)
  | _ => none
/-- Operands that R432 and R434 refuse: a CC of 6 or 7, a T of 3 (2 for VRED), OFF = 0, a header field that PHL or PHS may not
name. -/
def sepalOperands (w : Word) : Bool :=
  match fld w.toNat 31 26 with
  | 0x0C => decide (fld w.toNat 23 21 < 6)
  | 0x10 => fld w.toNat 11 0 != 0
  | 0x14 => decide (fld w.toNat 17 14 < 13)
  | 0x15 => [4, 7, 8, 9].contains (fld w.toNat 17 14)
  | 0x22 | 0x23 | 0x24 => decide (fld w.toNat 16 15 < 3)
  | 0x25 => decide (fld w.toNat 16 15 < 2)
  | _ => true
/-- Row 1 of the load check: a word that R434 and R432 accept. -/
def sepalLegal (w : Word) : Bool :=
  match sepalZeros w with
  | some z => w.toNat &&& z == 0 && sepalOperands w
  | none => false
/-- The load check: a kernel that passes always ends within its budget (R439). -/
def kernelOk (ws : List Word) (budget : Nat) : Bool :=
  let p := ws.map kwordOf
  ws.all sepalLegal && shapeOk p && !(reached p).contains p.length &&
    decide (((pathCosts p false 4 0 (p.length - 1)).headD none).getD 0 ≤ budget)

/-! ## SKLD and SKREL (R420, R427, R428) -/

/-- The record of SKLD (R420). -/
def kernelCommand : Command where
  legal q := cmdShape q 11 [] [[(55, 0)], [(11, 0), (23, 16), (63, 32)], [(18, 0), (41, 32)], [(31, 0)]] &&
    decide (cmdDw q 1 % 4 = 0) && decide (1 ≤ fld (cmdDw q 2) 11 0) && decide (fld (cmdDw q 2) 11 0 ≤ 2048) &&
    decide (fld (cmdDw q 3) 18 0 % 64 = 0) && decide (fld (cmdDw q 3) 18 0 ≤ 262144) &&
    decide (1 ≤ fld (cmdDw q 3) 41 32) && decide (fld (cmdDw q 3) 41 32 ≤ 512)
  handles _ := []
  barrier := false
/-- The host has granted an ASID this job and these ports. -/
def State.granted (s : State) (asid : Nat) (job ports : Word) : Bool :=
  s.grants.any (fun g => g.1 == asid && g.2.1 == job && (ports &&& ~~~g.2.2) == 0)
/-- The lowest place for `n` bytes in a sepal's flow memory beside what its slots hold. -/
def State.flowRoom (s : State) (sepal n : Nat) : Option Nat :=
  let held := s.slots.filterMap (fun e => if e.1 / 4 = sepal ∧ 0 < e.2.flowb then some (e.2.flowBase, e.2.flowb) else none)
  let at_ := List.mergeSort (0 :: held.map (fun h => h.1 + h.2))
  at_.find? (fun a => decide (a + n ≤ 262144) && held.all (fun h => !meets a n h.1 h.2))
/-- The lowest free slot whose sepal has the flow memory, and where. -/
def State.freeSlot (s : State) (n : Nat) : Option (Nat × Nat) :=
  (List.range 64).findSome? (fun k =>
    if (s.slots.find? k).isSome then none else (s.flowRoom (k / 4) n).map (fun a => (k, a)))
/-- Status NOSLOT. -/
def stNoSlot : Nat := 11
/-- Status REJECTED. -/
def stRejected : Nat := 12
/-- Status BOUND. -/
def stBound : Nat := 13
/-- SKLD: loads a kernel and binds it to a slot (R420, R427). -/
def execSkld (f : FmtT) (s : State) : Answer :=
  .next (engineWord f kernelCommand noNote (fun s t q _ =>
    let job := BitVec.ofNat 32 (fld (cmdDw q 2) 63 32)
    let ports := BitVec.ofNat 32 (cmdDw q 4)
    let cls := fld (cmdDw q 2) 23 16
    let n := fld (cmdDw q 3) 18 0
    let budget := fld (cmdDw q 3) 41 32
    let code := BitVec.ofNat 64 (cmdDw q 1)
    if !s.granted (s.asidOf t) job ports then .ok stDenied s
    else if s.slots.any (fun e => e.2.jobkey == job && e.2.fclass == cls) then .ok stBound s
    else
      match s.freeSlot n with
      | none => .ok stNoSlot s
      | some (k, base) =>
        (s.memReadRun t code 4 (fld (cmdDw q 2) 11 0)).andThen fun b s =>
          let ws := wordsOfBytes b
          if !kernelOk ws budget then .ok stRejected s
          else
            let x := s.task t.task
            let v : Slot :=
              { asid := s.asidOf t, func := x.func, jobkey := job, fclass := cls, ports := ports, budget := budget, words := ws,
                flowBase := base, flowb := n, code := code, task := t.task, num := x.num, tid := t.tid, lseq := x.lseq }
            .ok (stOk + 256 * k) { s with slots := s.slots.put k v }) s)
/-- Packets of a slot that wait for a context or run in one. -/
def State.slotBusy (s : State) (k : Nat) : Bool :=
  s.ctxts.any (fun e => e.2.slot == k) || s.sepalQ.any (fun e => e.1 == k)
/-- A slot whose packets have all left is freed, and SKRELs that wait for it go on (R428). -/
def State.freeKernel (s : State) (k : Nat) : State :=
  let s := { s with slots := s.slots.erase k }
  s.threads.foldl (fun s e =>
    match e.2.status with
    | .parked (.skrel n h) => if n = k then (s.writeG e.2.ref h (BitVec.ofNat 32 stOk)).wake e.2.ref else s
    | _ => s) s
/-- SKREL: releases a slot (R420, R428). -/
def execSkrel (f : FmtT) (s : State) : Answer :=
  .next (runPure (fun s t =>
    let k := (s.readG t f.bo.toNat).toNat
    match s.slots.find? k with
    | none => (s.result t f.h.toNat [BitVec.ofNat 32 stDenied]).commit t
    | some x =>
      if x.asid ≠ s.asidOf t then (s.result t f.h.toNat [BitVec.ofNat 32 stDenied]).commit t
      else
        let s := { s.commit t with slots := s.slots.put k { x with releasing := true } }
        (s.park t (.skrel k f.h.toNat))) s)
/-- SKREL_COMPLETE: the last context of a released slot has executed DONE (R428). -/
def execSkrelComplete (slot : Nat) (s : State) : Answer :=
  .next (match s.slots.find? slot with
    | none => s
    | some x => if x.releasing && !s.slotBusy slot then s.freeKernel slot else s)

/-! ## Contexts (R431, R435, R440) -/

/-- SEPAL_CONTEXT_START: the oldest packet of a sepal's slots starts in its next free context (R431). -/
def execSepalContextStart (sepal : Nat) (s : State) : Answer :=
  .next (match s.sepalQ.find? (fun e => e.1 / 4 == sepal),
      ((List.range 4).map (4 * sepal + ·)).find? (fun k => (s.ctxts.find? k).isNone) with
    | some (slot, p), some k =>
      let c : Ctx := { slot := slot, pkt := p, y := Tbl.set 0 [] 0 (BitVec.ofNat 32 p.len) }
      { s with sepalQ := s.sepalQ.erase (slot, p), ctxts := s.ctxts.put k c }
    | _, _ => s)
/-- The kernel returns to a body's first word while passes remain (R435). -/
def loopBack (pc : Nat) : List (Nat × Nat × Nat) → Nat × List (Nat × Nat × Nat)
  | [] => (pc, [])
  | (a, b, n) :: r =>
    if pc = b + 1 then (if n = 0 then loopBack pc r else (a, (a, b, n - 1) :: r)) else (pc, (a, b, n) :: r)
/-- The context after its current word. -/
def Ctx.next (c : Ctx) : Ctx := let r := loopBack (c.pc + 1) c.loops; { c with pc := r.1, loops := r.2 }
/-- A branch leaves every loop whose body does not hold its target (R435). -/
def Ctx.goto (c : Ctx) (pc : Nat) : Ctx :=
  { c with pc := pc, loops := c.loops.dropWhile (fun l => !inBody (l.1, l.2.1) pc) }
/-- What a sepal word does. -/
inductive KRes
  | go (c : Ctx) (s : State)
  | to_ (c : Ctx) (pc : Nat) (s : State)
  | trap (sub : Nat) (va : DWord)
/-- The thread that loaded a kernel, or its task, has ended. -/
def State.issuerEnded (s : State) (x : Slot) : Bool :=
  match s.threads.find? (tkey ⟨x.task, x.tid⟩) with
  | some th => th.status == .ended
  | none => true
/-- A kernel traps: its slot is disabled, its packets fail, and one record is written (R440). -/
def State.sepalTrap (s : State) (c : Ctx) (sub : Nat) (va : DWord) : State :=
  match s.slots.find? c.slot with
  | none => s
  | some x =>
    let lost := (s.ctxts.filter (fun e => e.2.slot == c.slot)).map (fun e => e.2.pkt) ++
      (s.sepalQ.filter (fun e => e.1 == c.slot)).map Prod.snd
    let s : State :=
      { s with
        slots := s.slots.put c.slot { x with disabled := true }
        ctxts := s.ctxts.filter (fun e => e.2.slot != c.slot)
        sepalQ := s.sepalQ.filter (fun e => e.1 != c.slot) }
    let s := lost.foldl State.pieceRefused s
    s.pushFault x.func
      { code := trapEngine, sub := sub, exited := s.issuerEnded x, tid := x.tid, va := va, pc := x.code + BitVec.ofNat 64 (4 * c.pc),
        task := x.num, peer := c.pkt.src, lseq := x.lseq, asid := x.asid }
/-- A sepal word runs in the context whose turn it is, and charges its cycles (R440). -/
def onSepal (cycles : Nat) (f : State → Ctx → KRes) (s : State) : State :=
  match s.actor with
  | .sepal k =>
    match s.ctxts.find? k with
    | none => s
    | some c =>
      match f s { c with cycles := c.cycles + cycles } with
      | .go c s => { s with ctxts := s.ctxts.put k c.next }
      | .to_ c pc s => { s with ctxts := s.ctxts.put k (c.goto pc) }
      | .trap sub va => (s.sepalTrap c sub va).settleBarriers
  | _ => s
/-- Scalar register. -/
def Ctx.reg (c : Ctx) (r : BitVec 4) : Word := Tbl.get 0 c.y r.toNat
/-- Write a scalar register. -/
def Ctx.setReg (c : Ctx) (r : BitVec 4) (v : Word) : Ctx := { c with y := c.y.set 0 r.toNat v }
/-- A lane of a vector register. -/
def Ctx.lane (c : Ctx) (r : BitVec 3) (i : Nat) : Word := Tbl.get 0 c.w (16 * r.toNat + i)
/-- Write a vector register. -/
def Ctx.setVec (c : Ctx) (r : BitVec 3) (v : Nat → Word) : Ctx :=
  { c with w := (List.range 16).foldl (fun w i => w.set 0 (16 * r.toNat + i) (v i)) c.w }
/-- yd ← g a b on registers. -/
def sepalR (d a b : BitVec 4) (g : Word → Word → Word) (s : State) : State :=
  onSepal 1 (fun s c => .go (c.setReg d (g (c.reg a) (c.reg b))) s) s
/-- yd ← g a imm, the immediate sign-extended. -/
def sepalI (d a : BitVec 4) (imm : BitVec 17) (g : Word → Word → Word) (s : State) : State :=
  onSepal 1 (fun s c => .go (c.setReg d (g (c.reg a) (imm.signExtend 32))) s) s

/-! ## Scalar instructions (R434, R438) -/

/-- Left shift; 0 from 32 on. -/
def kShl (a b : Word) : Word := if b.toNat < 32 then a <<< b.toNat else 0
/-- Right shift; 0 from 32 on. -/
def kShr (a b : Word) : Word := if b.toNat < 32 then a >>> b.toNat else 0
/-- Signed minimum. -/
def kMin (a b : Word) : Word := if a.toInt ≤ b.toInt then a else b
/-- Signed maximum. -/
def kMax (a b : Word) : Word := if b.toInt ≤ a.toInt then a else b
/-- SEPAL_ADD: sum of registers (R434). -/
def execSepalAdd (d a b : BitVec 4) (s : State) : Answer := .next (sepalR d a b (· + ·) s)
/-- SEPAL_ADD_IMM: sum with an immediate (R434). -/
def execSepalAddImm (d a : BitVec 4) (imm : BitVec 17) (s : State) : Answer := .next (sepalI d a imm (· + ·) s)
/-- SEPAL_SUB: difference of registers (R434). -/
def execSepalSub (d a b : BitVec 4) (s : State) : Answer := .next (sepalR d a b (· - ·) s)
/-- SEPAL_SUB_IMM: difference with an immediate (R434). -/
def execSepalSubImm (d a : BitVec 4) (imm : BitVec 17) (s : State) : Answer := .next (sepalI d a imm (· - ·) s)
/-- SEPAL_AND: AND of registers (R434). -/
def execSepalAnd (d a b : BitVec 4) (s : State) : Answer := .next (sepalR d a b (· &&& ·) s)
/-- SEPAL_AND_IMM: AND with an immediate (R434). -/
def execSepalAndImm (d a : BitVec 4) (imm : BitVec 17) (s : State) : Answer := .next (sepalI d a imm (· &&& ·) s)
/-- SEPAL_OR: OR of registers (R434). -/
def execSepalOr (d a b : BitVec 4) (s : State) : Answer := .next (sepalR d a b (· ||| ·) s)
/-- SEPAL_OR_IMM: OR with an immediate (R434). -/
def execSepalOrImm (d a : BitVec 4) (imm : BitVec 17) (s : State) : Answer := .next (sepalI d a imm (· ||| ·) s)
/-- SEPAL_XOR: XOR of registers (R434). -/
def execSepalXor (d a b : BitVec 4) (s : State) : Answer := .next (sepalR d a b (· ^^^ ·) s)
/-- SEPAL_XOR_IMM: XOR with an immediate (R434). -/
def execSepalXorImm (d a : BitVec 4) (imm : BitVec 17) (s : State) : Answer := .next (sepalI d a imm (· ^^^ ·) s)
/-- SEPAL_SHL: left shift of registers (R434). -/
def execSepalShl (d a b : BitVec 4) (s : State) : Answer := .next (sepalR d a b kShl s)
/-- SEPAL_SHL_IMM: left shift with an immediate (R434). -/
def execSepalShlImm (d a : BitVec 4) (imm : BitVec 17) (s : State) : Answer := .next (sepalI d a imm kShl s)
/-- SEPAL_SHR: right shift of registers (R434). -/
def execSepalShr (d a b : BitVec 4) (s : State) : Answer := .next (sepalR d a b kShr s)
/-- SEPAL_SHR_IMM: right shift with an immediate (R434). -/
def execSepalShrImm (d a : BitVec 4) (imm : BitVec 17) (s : State) : Answer := .next (sepalI d a imm kShr s)
/-- SEPAL_MIN: signed minimum of registers (R434). -/
def execSepalMin (d a b : BitVec 4) (s : State) : Answer := .next (sepalR d a b kMin s)
/-- SEPAL_MIN_IMM: signed minimum with an immediate (R434). -/
def execSepalMinImm (d a : BitVec 4) (imm : BitVec 17) (s : State) : Answer := .next (sepalI d a imm kMin s)
/-- SEPAL_MAX: signed maximum of registers (R434). -/
def execSepalMax (d a b : BitVec 4) (s : State) : Answer := .next (sepalR d a b kMax s)
/-- SEPAL_MAX_IMM: signed maximum with an immediate (R434). -/
def execSepalMaxImm (d a : BitVec 4) (imm : BitVec 17) (s : State) : Answer := .next (sepalI d a imm kMax s)
/-- SEPAL_MOVI: a zero-extended immediate (R434). -/
def execSepalMovi (d : BitVec 4) (imm : BitVec 16) (s : State) : Answer :=
  .next (onSepal 1 (fun s c => .go (c.setReg d (imm.zeroExtend 32)) s) s)
/-- SEPAL_MOVH: the upper half (R434). -/
def execSepalMovh (d : BitVec 4) (imm : BitVec 16) (s : State) : Answer :=
  .next (onSepal 1 (fun s c => .go (c.setReg d (imm ++ (c.reg d).truncate 16)) s) s)
/-- The conditions of CMP (R434). -/
def kCond (cc : BitVec 3) (a b : Word) : Bool :=
  match cc.toNat with
  | 0 => a == b
  | 1 => a != b
  | 2 => decide (a.toInt < b.toInt)
  | 3 => decide (b.toInt ≤ a.toInt)
  | 4 => decide (a.toNat < b.toNat)
  | _ => decide (b.toNat ≤ a.toNat)
/-- SEPAL_CMP: a condition flag from registers (R434). -/
def execSepalCmp (d : BitVec 2) (cc : BitVec 3) (a b : BitVec 4) (s : State) : Answer :=
  .next (onSepal 1 (fun s c => .go { c with c := putBit c.c d.toNat (kCond cc (c.reg a) (c.reg b)) } s) s)
/-- SEPAL_CMP_IMM: a condition flag from a register and an immediate (R434). -/
def execSepalCmpImm (d : BitVec 2) (cc : BitVec 3) (a : BitVec 4) (imm : BitVec 16) (s : State) : Answer :=
  .next (onSepal 1 (fun s c => .go { c with c := putBit c.c d.toNat (kCond cc (c.reg a) (imm.signExtend 32)) } s) s)
/-- SEPAL_BR: forward if the flag, or with N its complement, is 1 (R434). -/
def execSepalBr (n : Bool) (cf : BitVec 2) (off : BitVec 12) (s : State) : Answer :=
  .next (onSepal 1 (fun s c => if c.c.getLsbD cf.toNat != n then .to_ c (c.pc + off.toNat) s else .go c s) s)
/-- SEPAL_BR_ALWAYS: forward (R434). -/
def execSepalBrAlways (off : BitVec 12) (s : State) : Answer :=
  .next (onSepal 1 (fun s c => .to_ c (c.pc + off.toNat) s) s)
/-- SEPAL_LOOP: runs the next LEN words LC + 1 times (R435). -/
def execSepalLoop (lc : BitVec 10) (len : BitVec 12) (s : State) : Answer :=
  .next (onSepal 1 (fun s c =>
    if len.toNat = 0 then .go c s
    else .to_ { c with loops := (c.pc + 1, c.pc + len.toNat, lc.toNat) :: c.loops } (c.pc + 1) s) s)
/-- One byte of a CRC-32C update (R438). -/
def crcByte (crc b : Word) : Word :=
  (List.range 8).foldl (fun (x : Word) _ => if x.getLsbD 0 then (x >>> 1) ^^^ 0x82F63B78 else x >>> 1) (crc ^^^ b)
/-- A CRC-32C update with the four bytes of a word. -/
def crcWord (a b : Word) : Word := (bytesOfWord b).foldl (fun x y => crcByte x (y.zeroExtend 32)) a
/-- SEPAL_HASH: a CRC-32C update (R438). -/
def execSepalHash (d a b : BitVec 4) (s : State) : Answer :=
  .next (onSepal 2 (fun s c => .go (c.setReg d (crcWord (c.reg a) (c.reg b))) s) s)
/-- SEPAL_CLK: the arithmetic clock's low word (R434, R279). -/
def execSepalClk (d : BitVec 4) (s : State) : Answer :=
  .next (onSepal 1 (fun s c => .go (c.setReg d (BitVec.ofNat 32 (s.clock))) s) s)
/-- SEPAL_TRP: traps with an argument (R440). -/
def execSepalTrp (n : BitVec 8) (s : State) : Answer := .next (onSepal 1 (fun _ _ => .trap 16 (n.zeroExtend 64)) s)

/-! ## The header (R432) -/

/-- KIND of a packet. -/
def kindNo : PacketKind → Nat
  | .send => 2
  | .coll => 3
  | _ => 1
/-- A header field. -/
def Packet.header (p : Packet) (f : Nat) : Nat :=
  match f with
  | 0 => p.src
  | 1 => p.dst
  | 2 => p.cls
  | 3 => kindNo p.kind
  | 4 => p.len
  | 5 => p.target % 2 ^ 32
  | 6 => p.target / 2 ^ 32 % 65536
  | 7 => p.dcnt
  | 8 => b2n p.cntv
  | 9 => b2n p.incmode
  | 10 => b2n p.last
  | 11 => if kindNo p.kind = 3 then p.collid else 0
  | 12 => if kindNo p.kind = 3 then p.cstep else 0
  | _ => 0
/-- The header with a field changed; none where the value breaks the field's limit. -/
def Packet.setHeader (p : Packet) (f v : Nat) : Option Packet :=
  match f with
  | 4 => if v ≤ p.len then some { p with len := v } else none
  | 7 => if v < 4096 then some { p with dcnt := v } else none
  | 8 => if v < 2 then some { p with cntv := v == 1 } else none
  | 9 => if v < 2 then some { p with incmode := v == 1 } else none
  | _ => none
/-- SEPAL_PHL: reads a header field (R432). -/
def execSepalPhl (d : BitVec 4) (fld : BitVec 4) (s : State) : Answer :=
  .next (onSepal 1 (fun s c => .go (c.setReg d (BitVec.ofNat 32 (Packet.header c.pkt fld.toNat))) s) s)
/-- SEPAL_PHS: writes a header field (R432). -/
def execSepalPhs (a : BitVec 4) (fld : BitVec 4) (s : State) : Answer :=
  .next (onSepal 1 (fun s c =>
    match Packet.setHeader c.pkt fld.toNat (c.reg a).toNat with
    | some p => .go { c with pkt := p } s
    | none => .trap 22 0) s)

/-! ## Payload and flow memory (R436) -/

/-- An address that a sepal word forms. -/
def Ctx.addr (c : Ctx) (a : BitVec 4) (off : BitVec 14) : Nat := (c.reg a + off.zeroExtend 32).toNat
/-- A payload address of `n` bytes traps. -/
def payloadTrap (a n : Nat) : Option Nat := if a % n ≠ 0 then some 19 else if 4096 ≤ a then some 18 else none
/-- A flow address of `n` bytes traps. -/
def flowTrap (x : Slot) (a n : Nat) : Option Nat := if a % n ≠ 0 then some 19 else if x.flowb < a + n then some 17 else none
/-- Payload bytes; those at or beyond LEN read zero. -/
def payloadBytes (p : Packet) (a n : Nat) : List Byte :=
  (List.range n).map (fun i => if a + i < p.len then p.payload.getD (a + i) 0 else 0)
/-- The payload with bytes written; those at or beyond LEN are discarded. -/
def payloadPut (p : Packet) (a : Nat) (b : List Byte) : Packet :=
  { p with payload := (List.range p.payload.length).map (fun i =>
      if a ≤ i ∧ i < a + b.length ∧ i < p.len then b.getD (i - a) 0 else p.payload.getD i 0) }
/-- The slot of a context. -/
def State.slotOf (s : State) (c : Ctx) : Option Slot := s.slots.find? c.slot
/-- Write flow memory of a context's slot. -/
def State.flowPut (s : State) (c : Ctx) (a : Nat) (b : List Byte) : State :=
  { s with slots := s.slots.modify c.slot (fun x => { x with flow := Memory.write x.flow a b }) }
/-- Run with the slot's flow memory at an address of `n` bytes. -/
def onFlow (s : State) (c : Ctx) (a n : Nat) (k : Slot → KRes) : KRes :=
  match s.slotOf c with
  | none => .go c s
  | some x => match flowTrap x a n with
    | some sub => .trap sub 0
    | none => k x
/-- Run with the payload at an address of `n` bytes. -/
def onPayload (a n : Nat) (k : KRes) : KRes :=
  match payloadTrap a n with
  | some sub => .trap sub 0
  | none => k
/-- SEPAL_PKL: a payload word (R436). -/
def execSepalPkl (d a : BitVec 4) (off : BitVec 14) (s : State) : Answer :=
  .next (onSepal 1 (fun s c =>
    onPayload (c.addr a off) 4 (.go (c.setReg d (wordOfBytes (payloadBytes c.pkt (c.addr a off) 4))) s)) s)
/-- SEPAL_PKS: a payload word is written (R436). -/
def execSepalPks (a b : BitVec 4) (off : BitVec 14) (s : State) : Answer :=
  .next (onSepal 1 (fun s c =>
    onPayload (c.addr a off) 4 (.go { c with pkt := payloadPut c.pkt (c.addr a off) (bytesOfWord (c.reg b)) } s)) s)
/-- SEPAL_FLD: a flow word (R436). -/
def execSepalFld (d a : BitVec 4) (off : BitVec 14) (s : State) : Answer :=
  .next (onSepal 2 (fun s c =>
    onFlow s c (c.addr a off) 4 (fun x => .go (c.setReg d (Memory.word x.flow (c.addr a off))) s)) s)
/-- SEPAL_FST: a flow word is written (R436). -/
def execSepalFst (a b : BitVec 4) (off : BitVec 14) (s : State) : Answer :=
  .next (onSepal 2 (fun s c =>
    onFlow s c (c.addr a off) 4 (fun _ => .go c (s.flowPut c (c.addr a off) (bytesOfWord (c.reg b))))) s)
/-- SEPAL_FAT: a flow word is read and added to, in one step (R436, R443). -/
def execSepalFat (d a b : BitVec 4) (off : BitVec 14) (s : State) : Answer :=
  .next (onSepal 2 (fun s c =>
    onFlow s c (c.addr a off) 4 (fun x =>
      let old := Memory.word x.flow (c.addr a off)
      .go (c.setReg d old) (s.flowPut c (c.addr a off) (bytesOfWord (old + c.reg b))))) s)
/-- SEPAL_VLD: sixteen words of payload or flow memory (R436). -/
def execSepalVld (sp : Bool) (d : BitVec 3) (a : BitVec 4) (off : BitVec 14) (s : State) : Answer :=
  .next (onSepal 4 (fun s c =>
    let ad := c.addr a off
    let set := fun (b : List Byte) => KRes.go (c.setVec d (fun i => wordOfBytes ((b.drop (4 * i)).take 4))) s
    if sp then onFlow s c ad 64 (fun x => set (Memory.bytes x.flow ad 64))
    else onPayload ad 64 (set (payloadBytes c.pkt ad 64))) s)
/-- The address of a VST, whose base YA and YB name: ya + off, with yb added where the device adds it (R434, R436, log 18). -/
def Ctx.vstAddr (c : Ctx) (a b : BitVec 4) (off : BitVec 14) : Nat :=
  (c.reg a + (if Config.vstIndexed then c.reg b else 0) + off.zeroExtend 32).toNat
/-- SEPAL_VST: sixteen words are written to payload or flow memory (R436). -/
def execSepalVst (sp : Bool) (v : BitVec 3) (a b : BitVec 4) (off : BitVec 14) (s : State) : Answer :=
  .next (onSepal 4 (fun s c =>
    let ad := c.vstAddr a b off
    let w := (List.range 16).flatMap (fun i => bytesOfWord (c.lane v i))
    if sp then onFlow s c ad 64 (fun _ => .go c (s.flowPut c ad w))
    else onPayload ad 64 (.go { c with pkt := payloadPut c.pkt ad w } s)) s)

/-! ## Vectors (R437) -/

/-- A pattern as a word. -/
def wordN (n : Nat) : Word := BitVec.ofNat 32 n
/-- A lane by its type: i32, f32, or a half of two BF16. -/
def kLane (i : Word → Word → Word) (f : Fp.Fmt → Nat → Nat → Nat) (ty : BitVec 2) (a b : Word) : Word :=
  match ty.toNat with
  | 0 => i a b
  | 1 => wordN (f Fp.f32 a.toNat b.toNat)
  | _ => wordN (f Fp.bf (a.toNat % 65536) (b.toNat % 65536) + 65536 * f Fp.bf (a.toNat / 65536) (b.toNat / 65536))
/-- A lanewise instruction. -/
def sepalV (d a b : BitVec 3) (g : Word → Word → Word) (s : State) : State :=
  onSepal 1 (fun s c => .go (c.setVec d (fun i => g (c.lane a i) (c.lane b i))) s) s
/-- SEPAL_VADD: lanewise sum (R437). -/
def execSepalVadd (d a b : BitVec 3) (ty : BitVec 2) (s : State) : Answer :=
  .next (Machine.sepalV d a b (kLane (· + ·) Fp.addBits ty) s)
/-- SEPAL_VMAX: lanewise maximum (R437). -/
def execSepalVmax (d a b : BitVec 3) (ty : BitVec 2) (s : State) : Answer :=
  .next (Machine.sepalV d a b (kLane kMax (fun F x y => (Fp.minMax F true x y).bits) ty) s)
/-- SEPAL_VMIN: lanewise minimum (R437). -/
def execSepalVmin (d a b : BitVec 3) (ty : BitVec 2) (s : State) : Answer :=
  .next (Machine.sepalV d a b (kLane kMin (fun F x y => (Fp.minMax F false x y).bits) ty) s)
/-- SEPAL_VRED: the sum of the lanes; as f32 the exact sum, rounded once (R437). -/
def execSepalVred (d : BitVec 4) (a : BitVec 3) (ty : BitVec 2) (s : State) : Answer :=
  .next (onSepal 4 (fun s c =>
    let l := (List.range 16).map (c.lane a)
    let v := if ty = 0 then l.foldl (· + ·) 0 else wordN (Fp.accumulate (l.map (fun x => Fp.f32.val x.toNat)) false).bits
    .go (c.setReg d v) s) s)
/-- SEPAL_VCVT_UP: the f32 value of one BF16 half of each lane (R437). -/
def execSepalVcvtUp (d a : BitVec 3) (h : BitVec 1) (s : State) : Answer :=
  .next (onSepal 1 (fun s c =>
    .go (c.setVec d (fun i =>
      wordN (Fp.convert (.flt Fp.f32) (.flt Fp.bf) .rn ((c.lane a i).toNat / 65536 ^ h.toNat % 65536)).bits)) s) s)
/-- SEPAL_VCVT_DN: one half of each lane becomes the BF16 value of an f32 lane (R437). -/
def execSepalVcvtDn (d a : BitVec 3) (h : BitVec 1) (s : State) : Answer :=
  .next (onSepal 1 (fun s c =>
    .go (c.setVec d (fun i =>
      let v := (Fp.convert (.flt Fp.bf) (.flt Fp.f32) .rn (c.lane a i).toNat).bits % 65536
      let o := (c.lane d i).toNat
      wordN (if h = 0 then o / 65536 * 65536 + v else v * 65536 + o % 65536))) s) s)

/-! ## Disposition (R433) -/

/-- A port that a kernel may name. -/
def State.portLegal (s : State) (c : Ctx) (p : Nat) : Bool :=
  match s.slotOf c with
  | some x => decide (p < 32) && x.ports.getLsbD p && s.portUp p
  | none => false
/-- SEPAL_FWD: the packet will leave by a port (R433). -/
def execSepalFwd (a : BitVec 4) (s : State) : Answer :=
  .next (onSepal 1 (fun s c =>
    if s.portLegal c (c.reg a).toNat then .go { c with disp := .fwd (c.reg a).toNat } s else .trap 20 0) s)
/-- SEPAL_DROP: the packet will fail (R433). -/
def execSepalDrop (s : State) : Answer := .next (onSepal 1 (fun s c => .go { c with disp := .drop } s) s)
/-- SEPAL_MIRR: a marked copy will be sent, at most four (R433). -/
def execSepalMirr (a : BitVec 4) (s : State) : Answer :=
  .next (onSepal 1 (fun s c =>
    if !s.portLegal c (c.reg a).toNat then .trap 20 0
    else if 4 ≤ c.mirrors.length then .trap 21 0
    else .go { c with mirrors := c.mirrors ++ [(c.reg a).toNat] } s) s)
/-- A marked packet for the peer at a port. -/
def State.sendMarked (s : State) (p : Packet) (port : Nat) (mirror : Bool) : State :=
  { s with fabricOut := s.fabricOut ++ [{ p with dst := s.portPeer port, marked := true, mirror := mirror }] }
/-- The packet of a context with its disposition applied; a piece that is mirrored or forwarded contributes to no counter (R433,
R442). -/
def State.dispose (s : State) (c : Ctx) : State :=
  let s := c.mirrors.foldl (fun s p => s.sendMarked c.pkt p true) s
  match c.disp with
  | .deliver => s.performPiece c.pkt c.mirrors.isEmpty
  | .fwd p => (s.sendMarked c.pkt p false).pieceAway c.pkt
  | .drop => s.pieceRefused c.pkt
/-- SEPAL_DONE: applies the disposition and frees the context (R433). -/
def execSepalDone (s : State) : Answer :=
  .next (match s.actor with
    | .sepal k =>
      match s.ctxts.find? k with
      | none => s
      | some c => ({ s with ctxts := s.ctxts.erase k }.dispose c).settleBarriers
    | _ => s)

end Sys2Proof.Machine
end

