-- ==== Sys2Proof/Machine/Dispatch.lean ====
section
/-! DEFINITION. exec: the meaning of every step, one arm per constructor of Instr. -/
namespace Sys2Proof.Machine

/-- What an instruction or event does at a state: one call of its meaning. -/
def exec (i : Instr) (s : State) : Host.Outcome State Fault Refusal :=
  match i with
  | .nop f => Sys2Proof.Machine.execNop f s
  | .addB32 f => Sys2Proof.Machine.execAddB32 f s
  | .subB32 f => Sys2Proof.Machine.execSubB32 f s
  | .mulB32 f => Sys2Proof.Machine.execMulB32 f s
  | .mulhS32 f => Sys2Proof.Machine.execMulhS32 f s
  | .mulhN32 f => Sys2Proof.Machine.execMulhN32 f s
  | .minS32 f => Sys2Proof.Machine.execMinS32 f s
  | .minN32 f => Sys2Proof.Machine.execMinN32 f s
  | .maxS32 f => Sys2Proof.Machine.execMaxS32 f s
  | .maxN32 f => Sys2Proof.Machine.execMaxN32 f s
  | .absS32 f => Sys2Proof.Machine.execAbsS32 f s
  | .negS32 f => Sys2Proof.Machine.execNegS32 f s
  | .madB32 f => Sys2Proof.Machine.execMadB32 f s
  | .idp4S8 f => Sys2Proof.Machine.execIdp4S8 f s
  | .idp4N8 f => Sys2Proof.Machine.execIdp4N8 f s
  | .addB64 f => Sys2Proof.Machine.execAddB64 f s
  | .subB64 f => Sys2Proof.Machine.execSubB64 f s
  | .mulB64 f => Sys2Proof.Machine.execMulB64 f s
  | .mulhS64 f => Sys2Proof.Machine.execMulhS64 f s
  | .mulhN64 f => Sys2Proof.Machine.execMulhN64 f s
  | .minS64 f => Sys2Proof.Machine.execMinS64 f s
  | .minN64 f => Sys2Proof.Machine.execMinN64 f s
  | .maxS64 f => Sys2Proof.Machine.execMaxS64 f s
  | .maxN64 f => Sys2Proof.Machine.execMaxN64 f s
  | .absS64 f => Sys2Proof.Machine.execAbsS64 f s
  | .negS64 f => Sys2Proof.Machine.execNegS64 f s
  | .madB64 f => Sys2Proof.Machine.execMadB64 f s
  | .andB32 f => Sys2Proof.Machine.execAndB32 f s
  | .orB32 f => Sys2Proof.Machine.execOrB32 f s
  | .xorB32 f => Sys2Proof.Machine.execXorB32 f s
  | .andnB32 f => Sys2Proof.Machine.execAndnB32 f s
  | .shlB32 f => Sys2Proof.Machine.execShlB32 f s
  | .shrB32 f => Sys2Proof.Machine.execShrB32 f s
  | .sarB32 f => Sys2Proof.Machine.execSarB32 f s
  | .rolB32 f => Sys2Proof.Machine.execRolB32 f s
  | .andB64 f => Sys2Proof.Machine.execAndB64 f s
  | .orB64 f => Sys2Proof.Machine.execOrB64 f s
  | .xorB64 f => Sys2Proof.Machine.execXorB64 f s
  | .andnB64 f => Sys2Proof.Machine.execAndnB64 f s
  | .shlB64 f => Sys2Proof.Machine.execShlB64 f s
  | .shrB64 f => Sys2Proof.Machine.execShrB64 f s
  | .sarB64 f => Sys2Proof.Machine.execSarB64 f s
  | .rolB64 f => Sys2Proof.Machine.execRolB64 f s
  | .shli f => Sys2Proof.Machine.execShli f s
  | .shri f => Sys2Proof.Machine.execShri f s
  | .sari f => Sys2Proof.Machine.execSari f s
  | .roli f => Sys2Proof.Machine.execRoli f s
  | .popcB32 f => Sys2Proof.Machine.execPopcB32 f s
  | .clzB32 f => Sys2Proof.Machine.execClzB32 f s
  | .ctzB32 f => Sys2Proof.Machine.execCtzB32 f s
  | .brevB32 f => Sys2Proof.Machine.execBrevB32 f s
  | .popcB64 f => Sys2Proof.Machine.execPopcB64 f s
  | .clzB64 f => Sys2Proof.Machine.execClzB64 f s
  | .ctzB64 f => Sys2Proof.Machine.execCtzB64 f s
  | .brevB64 f => Sys2Proof.Machine.execBrevB64 f s
  | .bfxN32 f => Sys2Proof.Machine.execBfxN32 f s
  | .bfxS32 f => Sys2Proof.Machine.execBfxS32 f s
  | .bfiB32 f => Sys2Proof.Machine.execBfiB32 f s
  | .bprmB32 f => Sys2Proof.Machine.execBprmB32 f s
  | .movB32 f => Sys2Proof.Machine.execMovB32 f s
  | .movB64 f => Sys2Proof.Machine.execMovB64 f s
  | .xloc f => Sys2Proof.Machine.execXloc f s
  | .xidx f => Sys2Proof.Machine.execXidx f s
  | .selB32 f e => Sys2Proof.Machine.execSelB32 f e s
  | .cmp f => Sys2Proof.Machine.execCmp f s
  | .fcmp f => Sys2Proof.Machine.execFcmp f s
  | .fAnd f => Sys2Proof.Machine.execFAnd f s
  | .fOr f => Sys2Proof.Machine.execFOr f s
  | .fXor f => Sys2Proof.Machine.execFXor f s
  | .fNot f => Sys2Proof.Machine.execFNot f s
  | .fSet f => Sys2Proof.Machine.execFSet f s
  | .fGet f => Sys2Proof.Machine.execFGet f s
  | .addiB32 f => Sys2Proof.Machine.execAddiB32 f s
  | .addiB64 f => Sys2Proof.Machine.execAddiB64 f s
  | .andi f => Sys2Proof.Machine.execAndi f s
  | .ori f => Sys2Proof.Machine.execOri f s
  | .xori f => Sys2Proof.Machine.execXori f s
  | .cmpi f => Sys2Proof.Machine.execCmpi f s
  | .moviN f => Sys2Proof.Machine.execMoviN f s
  | .moviS f => Sys2Proof.Machine.execMoviS f s
  | .movh f => Sys2Proof.Machine.execMovh f s
  | .addh f => Sys2Proof.Machine.execAddh f s
  | .mand f => Sys2Proof.Machine.execMand f s
  | .mor f => Sys2Proof.Machine.execMor f s
  | .mxor f => Sys2Proof.Machine.execMxor f s
  | .mandn f => Sys2Proof.Machine.execMandn f s
  | .mmov f => Sys2Proof.Machine.execMmov f s
  | .msetg f => Sys2Proof.Machine.execMsetg f s
  | .mgetg f => Sys2Proof.Machine.execMgetg f s
  | .mself f => Sys2Proof.Machine.execMself f s
  | .mclr f => Sys2Proof.Machine.execMclr f s
  | .mall f => Sys2Proof.Machine.execMall f s
  | .ballot f => Sys2Proof.Machine.execBallot f s
  | .popcm f => Sys2Proof.Machine.execPopcm f s
  | .rankm f => Sys2Proof.Machine.execRankm f s
  | .join f => Sys2Proof.Machine.execJoin f s
  | .leave f => Sys2Proof.Machine.execLeave f s
  | .waitk f => Sys2Proof.Machine.execWaitk f s
  | .shfl f k => Sys2Proof.Machine.execShfl f k s
  | .shflx f k => Sys2Proof.Machine.execShflx f k s
  | .redm f k => Sys2Proof.Machine.execRedm f k s
  | .scanm f k => Sys2Proof.Machine.execScanm f k s
  | .mrgrk f k => Sys2Proof.Machine.execMrgrk f k s
  | .bra f => Sys2Proof.Machine.execBra f s
  | .call f => Sys2Proof.Machine.execCall f s
  | .jmpr f => Sys2Proof.Machine.execJmpr f s
  | .callr f => Sys2Proof.Machine.execCallr f s
  | .ret f => Sys2Proof.Machine.execRet f s
  | .region f => Sys2Proof.Machine.execRegion f s
  | .tail f => Sys2Proof.Machine.execTail f s
  | .exit f => Sys2Proof.Machine.execExit f s
  | .xsucc f => Sys2Proof.Machine.execXsucc f s
  | .trig f => Sys2Proof.Machine.execTrig f s
  | .yield f => Sys2Proof.Machine.execYield f s
  | .yieldExpire t => Sys2Proof.Machine.execYieldExpire t s
  | .ld f => Sys2Proof.Machine.execLd f s
  | .st f => Sys2Proof.Machine.execSt f s
  | .lds f => Sys2Proof.Machine.execLds f s
  | .sts f => Sys2Proof.Machine.execSts f s
  | .pref f => Sys2Proof.Machine.execPref f s
  | .ldq f => Sys2Proof.Machine.execLdq f s
  | .stq f => Sys2Proof.Machine.execStq f s
  | .wprd f => Sys2Proof.Machine.execWprd f s
  | .channelOverflow lseq ch => Sys2Proof.Machine.execChannelOverflow lseq ch s
  | .atomAddB32 f => Sys2Proof.Machine.execAtomAddB32 f s
  | .atomMinS32 f => Sys2Proof.Machine.execAtomMinS32 f s
  | .atomMinN32 f => Sys2Proof.Machine.execAtomMinN32 f s
  | .atomMaxS32 f => Sys2Proof.Machine.execAtomMaxS32 f s
  | .atomMaxN32 f => Sys2Proof.Machine.execAtomMaxN32 f s
  | .atomAndB32 f => Sys2Proof.Machine.execAtomAndB32 f s
  | .atomOrB32 f => Sys2Proof.Machine.execAtomOrB32 f s
  | .atomXorB32 f => Sys2Proof.Machine.execAtomXorB32 f s
  | .atomExchB32 f => Sys2Proof.Machine.execAtomExchB32 f s
  | .atomCasB32 f => Sys2Proof.Machine.execAtomCasB32 f s
  | .atomFaddF32 f => Sys2Proof.Machine.execAtomFaddF32 f s
  | .atomAddB64 f => Sys2Proof.Machine.execAtomAddB64 f s
  | .atomMinS64 f => Sys2Proof.Machine.execAtomMinS64 f s
  | .atomMinN64 f => Sys2Proof.Machine.execAtomMinN64 f s
  | .atomMaxS64 f => Sys2Proof.Machine.execAtomMaxS64 f s
  | .atomMaxN64 f => Sys2Proof.Machine.execAtomMaxN64 f s
  | .atomAndB64 f => Sys2Proof.Machine.execAtomAndB64 f s
  | .atomOrB64 f => Sys2Proof.Machine.execAtomOrB64 f s
  | .atomXorB64 f => Sys2Proof.Machine.execAtomXorB64 f s
  | .atomExchB64 f => Sys2Proof.Machine.execAtomExchB64 f s
  | .atomCasB64 f => Sys2Proof.Machine.execAtomCasB64 f s
  | .atomFaddF64 f => Sys2Proof.Machine.execAtomFaddF64 f s
  | .atomsAddB32 f => Sys2Proof.Machine.execAtomsAddB32 f s
  | .atomsMinS32 f => Sys2Proof.Machine.execAtomsMinS32 f s
  | .atomsMinN32 f => Sys2Proof.Machine.execAtomsMinN32 f s
  | .atomsMaxS32 f => Sys2Proof.Machine.execAtomsMaxS32 f s
  | .atomsMaxN32 f => Sys2Proof.Machine.execAtomsMaxN32 f s
  | .atomsAndB32 f => Sys2Proof.Machine.execAtomsAndB32 f s
  | .atomsOrB32 f => Sys2Proof.Machine.execAtomsOrB32 f s
  | .atomsXorB32 f => Sys2Proof.Machine.execAtomsXorB32 f s
  | .atomsExchB32 f => Sys2Proof.Machine.execAtomsExchB32 f s
  | .atomsCasB32 f => Sys2Proof.Machine.execAtomsCasB32 f s
  | .atomsFaddF32 f => Sys2Proof.Machine.execAtomsFaddF32 f s
  | .redAdd f => Sys2Proof.Machine.execRedAdd f s
  | .redMinS f => Sys2Proof.Machine.execRedMinS f s
  | .redMinN f => Sys2Proof.Machine.execRedMinN f s
  | .redMaxS f => Sys2Proof.Machine.execRedMaxS f s
  | .redMaxN f => Sys2Proof.Machine.execRedMaxN f s
  | .redAnd f => Sys2Proof.Machine.execRedAnd f s
  | .redOr f => Sys2Proof.Machine.execRedOr f s
  | .redXor f => Sys2Proof.Machine.execRedXor f s
  | .redFaddF32 f => Sys2Proof.Machine.execRedFaddF32 f s
  | .redFaddF64 f => Sys2Proof.Machine.execRedFaddF64 f s
  | .redFaddBf2 f => Sys2Proof.Machine.execRedFaddBf2 f s
  | .redsAddB32 f => Sys2Proof.Machine.execRedsAddB32 f s
  | .redsMinS32 f => Sys2Proof.Machine.execRedsMinS32 f s
  | .redsMinN32 f => Sys2Proof.Machine.execRedsMinN32 f s
  | .redsMaxS32 f => Sys2Proof.Machine.execRedsMaxS32 f s
  | .redsMaxN32 f => Sys2Proof.Machine.execRedsMaxN32 f s
  | .redsAndB32 f => Sys2Proof.Machine.execRedsAndB32 f s
  | .redsOrB32 f => Sys2Proof.Machine.execRedsOrB32 f s
  | .redsXorB32 f => Sys2Proof.Machine.execRedsXorB32 f s
  | .redsFaddF32 f => Sys2Proof.Machine.execRedsFaddF32 f s
  | .redsFaddBf2 f => Sys2Proof.Machine.execRedsFaddBf2 f s
  | .mwaitEq f => Sys2Proof.Machine.execMwaitEq f s
  | .mwaitNe f => Sys2Proof.Machine.execMwaitNe f s
  | .mwaitRecheck t => Sys2Proof.Machine.execMwaitRecheck t s
  | .stcmp f => Sys2Proof.Machine.execStcmp f s
  | .ldexp f => Sys2Proof.Machine.execLdexp f s
  | .ldtB16 f => Sys2Proof.Machine.execLdtB16 f s
  | .ldtB32 f => Sys2Proof.Machine.execLdtB32 f s
  | .ldtB64 f => Sys2Proof.Machine.execLdtB64 f s
  | .sttB16 f => Sys2Proof.Machine.execSttB16 f s
  | .sttB32 f => Sys2Proof.Machine.execSttB32 f s
  | .sttB64 f => Sys2Proof.Machine.execSttB64 f s
  | .binit f => Sys2Proof.Machine.execBinit f s
  | .barr f => Sys2Proof.Machine.execBarr f s
  | .bdrop f => Sys2Proof.Machine.execBdrop f s
  | .bwait f => Sys2Proof.Machine.execBwait f s
  | .bexp f => Sys2Proof.Machine.execBexp f s
  | .btest f => Sys2Proof.Machine.execBtest f s
  | .lkacq f => Sys2Proof.Machine.execLkacq f s
  | .lkupg f => Sys2Proof.Machine.execLkupg f s
  | .lkrel f lv => Sys2Proof.Machine.execLkrel f lv s
  | .lkrall f => Sys2Proof.Machine.execLkrall f s
  | .lkchk f => Sys2Proof.Machine.execLkchk f s
  | .lkrallComplete task => Sys2Proof.Machine.execLkrallComplete task s
  | .graceExpired task => Sys2Proof.Machine.execGraceExpired task s
  | .rrot f => Sys2Proof.Machine.execRrot f s
  | .rrotStart lseq bed => Sys2Proof.Machine.execRrotStart lseq bed s
  | .rrotArrive op => Sys2Proof.Machine.execRrotArrive op s
  | .faddF32 f => Sys2Proof.Machine.execFaddF32 f s
  | .fsubF32 f => Sys2Proof.Machine.execFsubF32 f s
  | .fmulF32 f => Sys2Proof.Machine.execFmulF32 f s
  | .ffmaF32 f => Sys2Proof.Machine.execFfmaF32 f s
  | .fminF32 f => Sys2Proof.Machine.execFminF32 f s
  | .fmaxF32 f => Sys2Proof.Machine.execFmaxF32 f s
  | .fabsF32 f => Sys2Proof.Machine.execFabsF32 f s
  | .fnegF32 f => Sys2Proof.Machine.execFnegF32 f s
  | .frndF32Rn f => Sys2Proof.Machine.execFrndF32Rn f s
  | .frndF32Rz f => Sys2Proof.Machine.execFrndF32Rz f s
  | .frndF32Ru f => Sys2Proof.Machine.execFrndF32Ru f s
  | .frndF32Rd f => Sys2Proof.Machine.execFrndF32Rd f s
  | .faddF64 f => Sys2Proof.Machine.execFaddF64 f s
  | .fsubF64 f => Sys2Proof.Machine.execFsubF64 f s
  | .fmulF64 f => Sys2Proof.Machine.execFmulF64 f s
  | .ffmaF64 f => Sys2Proof.Machine.execFfmaF64 f s
  | .fminF64 f => Sys2Proof.Machine.execFminF64 f s
  | .fmaxF64 f => Sys2Proof.Machine.execFmaxF64 f s
  | .fabsF64 f => Sys2Proof.Machine.execFabsF64 f s
  | .fnegF64 f => Sys2Proof.Machine.execFnegF64 f s
  | .frndF64Rn f => Sys2Proof.Machine.execFrndF64Rn f s
  | .frndF64Rz f => Sys2Proof.Machine.execFrndF64Rz f s
  | .frndF64Ru f => Sys2Proof.Machine.execFrndF64Ru f s
  | .frndF64Rd f => Sys2Proof.Machine.execFrndF64Rd f s
  | .hadd2H f => Sys2Proof.Machine.execHadd2H f s
  | .hsub2H f => Sys2Proof.Machine.execHsub2H f s
  | .hmul2H f => Sys2Proof.Machine.execHmul2H f s
  | .hfma2H f => Sys2Proof.Machine.execHfma2H f s
  | .hmin2H f => Sys2Proof.Machine.execHmin2H f s
  | .hmax2H f => Sys2Proof.Machine.execHmax2H f s
  | .hadd2Bf f => Sys2Proof.Machine.execHadd2Bf f s
  | .hsub2Bf f => Sys2Proof.Machine.execHsub2Bf f s
  | .hmul2Bf f => Sys2Proof.Machine.execHmul2Bf f s
  | .hfma2Bf f => Sys2Proof.Machine.execHfma2Bf f s
  | .hmin2Bf f => Sys2Proof.Machine.execHmin2Bf f s
  | .hmax2Bf f => Sys2Proof.Machine.execHmax2Bf f s
  | .dot4E4 f => Sys2Proof.Machine.execDot4E4 f s
  | .dot4E5 f => Sys2Proof.Machine.execDot4E5 f s
  | .frcpF32 f => Sys2Proof.Machine.execFrcpF32 f s
  | .frsqF32 f => Sys2Proof.Machine.execFrsqF32 f s
  | .fsqrtF32 f => Sys2Proof.Machine.execFsqrtF32 f s
  | .fexp2F32 f => Sys2Proof.Machine.execFexp2F32 f s
  | .flog2F32 f => Sys2Proof.Machine.execFlog2F32 f s
  | .fsinF32 f => Sys2Proof.Machine.execFsinF32 f s
  | .fcosF32 f => Sys2Proof.Machine.execFcosF32 f s
  | .fdivF32 f => Sys2Proof.Machine.execFdivF32 f s
  | .fsqrtF64 f => Sys2Proof.Machine.execFsqrtF64 f s
  | .fdivF64 f => Sys2Proof.Machine.execFdivF64 f s
  | .frcpF64 f => Sys2Proof.Machine.execFrcpF64 f s
  | .fclassF32 f => Sys2Proof.Machine.execFclassF32 f s
  | .fclassF64 f => Sys2Proof.Machine.execFclassF64 f s
  | .cvt f => Sys2Proof.Machine.execCvt f s
  | .blkAddB32 f => Sys2Proof.Machine.execBlkAddB32 f s
  | .blkMovB32 f => Sys2Proof.Machine.execBlkMovB32 f s
  | .blkAndB32 f => Sys2Proof.Machine.execBlkAndB32 f s
  | .blkXorB32 f => Sys2Proof.Machine.execBlkXorB32 f s
  | .blkFaddF32 f => Sys2Proof.Machine.execBlkFaddF32 f s
  | .blkFmulF32 f => Sys2Proof.Machine.execBlkFmulF32 f s
  | .blkFfmaF32 f => Sys2Proof.Machine.execBlkFfmaF32 f s
  | .blkFmaxF32 f => Sys2Proof.Machine.execBlkFmaxF32 f s
  | .blkHfma2H f => Sys2Proof.Machine.execBlkHfma2H f s
  | .blkHfma2Bf f => Sys2Proof.Machine.execBlkHfma2Bf f s
  | .blkFfmaF64 f => Sys2Proof.Machine.execBlkFfmaF64 f s
  | .mxcfg f => Sys2Proof.Machine.execMxcfg f s
  | .mxlds f => Sys2Proof.Machine.execMxlds f s
  | .mxswap f => Sys2Proof.Machine.execMxswap f s
  | .mxmul f => Sys2Proof.Machine.execMxmul f s
  | .mxst f => Sys2Proof.Machine.execMxst f s
  | .mxzero f => Sys2Proof.Machine.execMxzero f s
  | .mxgo f => Sys2Proof.Machine.execMxgo f s
  | .mxstat f => Sys2Proof.Machine.execMxstat f s
  | .mxgoStep core => Sys2Proof.Machine.execMxgoStep core s
  | .tdef f => Sys2Proof.Machine.execTdef f s
  | .trel f => Sys2Proof.Machine.execTrel f s
  | .tcopy f => Sys2Proof.Machine.execTcopy f s
  | .remap f => Sys2Proof.Machine.execRemap f s
  | .remapStep f => Sys2Proof.Machine.execRemapStep f s
  | .tmerge f => Sys2Proof.Machine.execTmerge f s
  | .txf f => Sys2Proof.Machine.execTxf f s
  | .tstat f => Sys2Proof.Machine.execTstat f s
  | .tldtab f => Sys2Proof.Machine.execTldtab f s
  | .engineChunk op => Sys2Proof.Machine.execEngineChunk op s
  | .remapPassEnd lseq va => Sys2Proof.Machine.execRemapPassEnd lseq va s
  | .rget f => Sys2Proof.Machine.execRget f s
  | .rput f => Sys2Proof.Machine.execRput f s
  | .tsend f => Sys2Proof.Machine.execTsend f s
  | .tcnt f => Sys2Proof.Machine.execTcnt f s
  | .rfence f => Sys2Proof.Machine.execRfence f s
  | .carm f => Sys2Proof.Machine.execCarm f s
  | .skld f => Sys2Proof.Machine.execSkld f s
  | .skrel f => Sys2Proof.Machine.execSkrel f s
  | .skrelComplete slot => Sys2Proof.Machine.execSkrelComplete slot s
  | .ratomAddB64 f => Sys2Proof.Machine.execRatomAddB64 f s
  | .ratomMinS64 f => Sys2Proof.Machine.execRatomMinS64 f s
  | .ratomMinN64 f => Sys2Proof.Machine.execRatomMinN64 f s
  | .ratomMaxS64 f => Sys2Proof.Machine.execRatomMaxS64 f s
  | .ratomMaxN64 f => Sys2Proof.Machine.execRatomMaxN64 f s
  | .ratomAndB64 f => Sys2Proof.Machine.execRatomAndB64 f s
  | .ratomOrB64 f => Sys2Proof.Machine.execRatomOrB64 f s
  | .ratomXorB64 f => Sys2Proof.Machine.execRatomXorB64 f s
  | .ratomExchB64 f => Sys2Proof.Machine.execRatomExchB64 f s
  | .ratomCasB64 f => Sys2Proof.Machine.execRatomCasB64 f s
  | .ratomTimeout t => Sys2Proof.Machine.execRatomTimeout t s
  | .trap f => Sys2Proof.Machine.execTrap f s
  | .srd f => Sys2Proof.Machine.execSrd f s
  | .swr f => Sys2Proof.Machine.execSwr f s
  | .rteRestart f => Sys2Proof.Machine.execRteRestart f s
  | .rteNext f => Sys2Proof.Machine.execRteNext f s
  | .fltrd f => Sys2Proof.Machine.execFltrd f s
  | .launch f => Sys2Proof.Machine.execLaunch f s
  | .launchNb f => Sys2Proof.Machine.execLaunchNb f s
  | .sigw f => Sys2Proof.Machine.execSigw f s
  | .sigwRecheck t => Sys2Proof.Machine.execSigwRecheck t s
  | .bkpt f => Sys2Proof.Machine.execBkpt f s
  | .deferredTrapEntry t => Sys2Proof.Machine.execDeferredTrapEntry t s
  | .resume func v => Sys2Proof.Machine.execResume func v s
  | .pfqRecordRelease func => Sys2Proof.Machine.execPfqRecordRelease func s
  | .resultReturn t => Sys2Proof.Machine.execResultReturn t s
  | .storeError t pc va sub => Sys2Proof.Machine.execStoreError t pc va sub s
  | .threadEnd t => Sys2Proof.Machine.execThreadEnd t s
  | .taskResourcesFree task => Sys2Proof.Machine.execTaskResourcesFree task s
  | .successorPlace task => Sys2Proof.Machine.execSuccessorPlace task s
  | .petalPowerGate core petal => Sys2Proof.Machine.execPetalPowerGate core petal s
  | .hangReport core petal => Sys2Proof.Machine.execHangReport core petal s
  | .queueWrite func q tail => Sys2Proof.Machine.execQueueWrite func q tail s
  | .launchCheck q count => Sys2Proof.Machine.execLaunchCheck q count s
  | .dependenceRecheck q count => Sys2Proof.Machine.execDependenceRecheck q count s
  | .dispatch => Sys2Proof.Machine.execDispatch s
  | .taskAdmit core => Sys2Proof.Machine.execTaskAdmit core s
  | .stageRebalance lseq => Sys2Proof.Machine.execStageRebalance lseq s
  | .stealRequest core => Sys2Proof.Machine.execStealRequest core s
  | .preemptRequest cores => Sys2Proof.Machine.execPreemptRequest cores s
  | .taskSave task => Sys2Proof.Machine.execTaskSave task s
  | .taskRestore task => Sys2Proof.Machine.execTaskRestore task s
  | .sectorRead core pa => Sys2Proof.Machine.execSectorRead core pa s
  | .registration core => Sys2Proof.Machine.execRegistration core s
  | .registrationAck core => Sys2Proof.Machine.execRegistrationAck core s
  | .l1Eviction core line => Sys2Proof.Machine.execL1Eviction core line s
  | .sliceEviction die line => Sys2Proof.Machine.execSliceEviction die line s
  | .rds die line => Sys2Proof.Machine.execRds die line s
  | .rdx die line => Sys2Proof.Machine.execRdx die line s
  | .wb die line => Sys2Proof.Machine.execWb die line s
  | .evc die line => Sys2Proof.Machine.execEvc die line s
  | .redu die line op => Sys2Proof.Machine.execRedu die line op s
  | .redf pa op v => Sys2Proof.Machine.execRedf pa op v s
  | .wrn pa bytes => Sys2Proof.Machine.execWrn pa bytes s
  | .spill die core line => Sys2Proof.Machine.execSpill die core line s
  | .placementEpoch home => Sys2Proof.Machine.execPlacementEpoch home s
  | .migrationFinish asid region => Sys2Proof.Machine.execMigrationFinish asid region s
  | .migRewalk t => Sys2Proof.Machine.execMigRewalk t s
  | .invalidationCommand func => Sys2Proof.Machine.execInvalidationCommand func s
  | .invalidationComplete func => Sys2Proof.Machine.execInvalidationComplete func s
  | .atsInvalidation pasid page => Sys2Proof.Machine.execAtsInvalidation pasid page s
  | .atsCompletion pasid page frame => Sys2Proof.Machine.execAtsCompletion pasid page frame s
  | .priResponse pasid page ok => Sys2Proof.Machine.execPriResponse pasid page ok s
  | .hostWrite pa bytes => Sys2Proof.Machine.execHostWrite pa bytes s
  | .hostRead pa len => Sys2Proof.Machine.execHostRead pa len s
  | .remoteRequest p => Sys2Proof.Machine.execRemoteRequest p s
  | .remoteResponse r => Sys2Proof.Machine.execRemoteResponse r s
  | .collectiveReserve lseq => Sys2Proof.Machine.execCollectiveReserve lseq s
  | .sepalContextStart sepal => Sys2Proof.Machine.execSepalContextStart sepal s
  | .sepalAdd d a b => Sys2Proof.Machine.execSepalAdd d a b s
  | .sepalAddImm d a imm => Sys2Proof.Machine.execSepalAddImm d a imm s
  | .sepalSub d a b => Sys2Proof.Machine.execSepalSub d a b s
  | .sepalSubImm d a imm => Sys2Proof.Machine.execSepalSubImm d a imm s
  | .sepalAnd d a b => Sys2Proof.Machine.execSepalAnd d a b s
  | .sepalAndImm d a imm => Sys2Proof.Machine.execSepalAndImm d a imm s
  | .sepalOr d a b => Sys2Proof.Machine.execSepalOr d a b s
  | .sepalOrImm d a imm => Sys2Proof.Machine.execSepalOrImm d a imm s
  | .sepalXor d a b => Sys2Proof.Machine.execSepalXor d a b s
  | .sepalXorImm d a imm => Sys2Proof.Machine.execSepalXorImm d a imm s
  | .sepalShl d a b => Sys2Proof.Machine.execSepalShl d a b s
  | .sepalShlImm d a imm => Sys2Proof.Machine.execSepalShlImm d a imm s
  | .sepalShr d a b => Sys2Proof.Machine.execSepalShr d a b s
  | .sepalShrImm d a imm => Sys2Proof.Machine.execSepalShrImm d a imm s
  | .sepalMin d a b => Sys2Proof.Machine.execSepalMin d a b s
  | .sepalMinImm d a imm => Sys2Proof.Machine.execSepalMinImm d a imm s
  | .sepalMax d a b => Sys2Proof.Machine.execSepalMax d a b s
  | .sepalMaxImm d a imm => Sys2Proof.Machine.execSepalMaxImm d a imm s
  | .sepalMovi d imm => Sys2Proof.Machine.execSepalMovi d imm s
  | .sepalMovh d imm => Sys2Proof.Machine.execSepalMovh d imm s
  | .sepalCmp d cc a b => Sys2Proof.Machine.execSepalCmp d cc a b s
  | .sepalCmpImm d cc a imm => Sys2Proof.Machine.execSepalCmpImm d cc a imm s
  | .sepalBr n cf off => Sys2Proof.Machine.execSepalBr n cf off s
  | .sepalBrAlways off => Sys2Proof.Machine.execSepalBrAlways off s
  | .sepalLoop lc len => Sys2Proof.Machine.execSepalLoop lc len s
  | .sepalDone => Sys2Proof.Machine.execSepalDone s
  | .sepalPhl d fld => Sys2Proof.Machine.execSepalPhl d fld s
  | .sepalPhs a fld => Sys2Proof.Machine.execSepalPhs a fld s
  | .sepalPkl d a off => Sys2Proof.Machine.execSepalPkl d a off s
  | .sepalPks a b off => Sys2Proof.Machine.execSepalPks a b off s
  | .sepalFld d a off => Sys2Proof.Machine.execSepalFld d a off s
  | .sepalFst a b off => Sys2Proof.Machine.execSepalFst a b off s
  | .sepalFat d a b off => Sys2Proof.Machine.execSepalFat d a b off s
  | .sepalVld sp d a off => Sys2Proof.Machine.execSepalVld sp d a off s
  | .sepalVst sp v a b off => Sys2Proof.Machine.execSepalVst sp v a b off s
  | .sepalVadd d a b ty => Sys2Proof.Machine.execSepalVadd d a b ty s
  | .sepalVmax d a b ty => Sys2Proof.Machine.execSepalVmax d a b ty s
  | .sepalVmin d a b ty => Sys2Proof.Machine.execSepalVmin d a b ty s
  | .sepalVred d a ty => Sys2Proof.Machine.execSepalVred d a ty s
  | .sepalVcvtUp d a h => Sys2Proof.Machine.execSepalVcvtUp d a h s
  | .sepalVcvtDn d a h => Sys2Proof.Machine.execSepalVcvtDn d a h s
  | .sepalHash d a b => Sys2Proof.Machine.execSepalHash d a b s
  | .sepalFwd a => Sys2Proof.Machine.execSepalFwd a s
  | .sepalDrop => Sys2Proof.Machine.execSepalDrop s
  | .sepalMirr a => Sys2Proof.Machine.execSepalMirr a s
  | .sepalClk d => Sys2Proof.Machine.execSepalClk d s
  | .sepalTrp n => Sys2Proof.Machine.execSepalTrp n s
  | .qcfgWrite q v => Sys2Proof.Machine.execQcfgWrite q v s
  | .qbaseWrite q v => Sys2Proof.Machine.execQbaseWrite q v s
  | .ctxbaseWrite v => Sys2Proof.Machine.execCtxbaseWrite v s
  | .lkcfgWrite d v => Sys2Proof.Machine.execLkcfgWrite d v s
  | .fweightWrite f v => Sys2Proof.Machine.execFweightWrite f v s
  | .c0resWrite v => Sys2Proof.Machine.execC0resWrite v s
  | .timerWrite i0 v => Sys2Proof.Machine.execTimerWrite i0 v s
  | .cntcfgWrite i0 v => Sys2Proof.Machine.execCntcfgWrite i0 v s
  | .frameidxWrite h v => Sys2Proof.Machine.execFrameidxWrite h v s
  | .retidxWrite h v => Sys2Proof.Machine.execRetidxWrite h v s
  | .ringRegisterWrite r v => Sys2Proof.Machine.execRingRegisterWrite r v s
  | .areaRegisterWrite r v => Sys2Proof.Machine.execAreaRegisterWrite r v s
  | .registerWrite p off v => Sys2Proof.Machine.execRegisterWrite p off v s
  | .attestationRequest func v => Sys2Proof.Machine.execAttestationRequest func v s
  | .attestationDone func => Sys2Proof.Machine.execAttestationDone func s
  | .serviceFirmwareLoad func v => Sys2Proof.Machine.execServiceFirmwareLoad func v s
  | .serviceFirmwareVerified => Sys2Proof.Machine.execServiceFirmwareVerified s
  | .coldStart => Sys2Proof.Machine.execColdStart s
  | .memoryInitDone => Sys2Proof.Machine.execMemoryInitDone s
  | .powerLoss => Sys2Proof.Machine.execPowerLoss s
  | .unitFence u => Sys2Proof.Machine.execUnitFence u s
  | .linkDown port => Sys2Proof.Machine.execLinkDown port s
  | .linkUp port => Sys2Proof.Machine.execLinkUp port s
  | .tokenBucketRefill func => Sys2Proof.Machine.execTokenBucketRefill func s
  | .softError e => Sys2Proof.Machine.execSoftError e s

end Sys2Proof.Machine
end

