-- ==== Sys2Proof/Machine/Issue.lean ====
section
/-! DEFINITION. One issue group of a petal: fetching its packet, the checks of R244 and R233, its words at once (R228-R234),
and the asynchronous traps of a region boundary (R391). -/
namespace Sys2Proof.Machine

/-! ## The words of a group (R228, R232) -/

/-- A word of an issue group and its PC. -/
structure GroupWord where
  pc : DWord
  raw : Word
  deriving DecidableEq, Repr

/-- Bit W: the group waits for the thread's outstanding results (R230, R233). -/
def GroupWord.waits (g : GroupWord) : Bool := g.raw.getLsbD 30
/-- The form of the word, where it decodes. -/
noncomputable def GroupWord.form (g : GroupWord) : Form :=
  match decodeWord g.raw with
  | .ok i => i.form
  | .illegal _ => {}
/-- The issue group that starts at a PC, from the packet's three words. -/
def groupAt (pc : DWord) (ws : List Word) : List GroupWord :=
  let tail := ws.drop (pc.toNat % 12 / 4)
  (List.range (groupLen tail)).map (fun i => ⟨pc + BitVec.ofNat 64 (4 * i), tail.getD i 0⟩)
/-- The address after a group. -/
def groupEnd (pc : DWord) (g : List GroupWord) : DWord := pc + BitVec.ofNat 64 (4 * g.length)

/-! ## The checks (R244, R233, R234) -/

/-- Orders 1 to 10 of R244 for one word and a task: the subcode of the first that fails. -/
noncomputable def wordCheck (k : Task) (w : Word) : Option Nat :=
  match decodeWord w with
  | .illegal n => some n
  | .ok i => if k.access && !i.form.acc then some 12 else if k.regs < i.form.regTop then some 9 else none
/-- Two words of a group collide: one pipe, or a register, a flag other than f7, or a mask that both write (R232). -/
def Form.collides (a b : Form) : Bool :=
  (a.pipe == b.pipe && a.pipe != .none) || (runRegs a.writes).any (fun r => (runRegs b.writes).contains r) ||
    a.fw.any (fun f => f != 7 && b.fw.contains f) || a.kw.any (fun k => b.kw.contains k)
/-- Some word of a list collides with a later one. -/
def anyCollides : List Form → Bool
  | [] => false
  | f :: r => r.any (fun g => Form.collides f g) || anyCollides r
/-- Order 11 of R244: C = 1 in word 2 of a packet, or words that collide. -/
noncomputable def chainBad (g : List GroupWord) : Bool :=
  g.any (fun w => w.raw.getLsbD 31 && w.pc.toNat % 12 == 8) || anyCollides (g.map GroupWord.form)
/-- What STRICT traps for a word: a pending register read or written, or a dead register read (R233, R234). -/
def strictCheck (th : Thread) (f : Form) : Option Nat :=
  if (runRegs (f.reads ++ f.writes)).any (fun r => pendHas th.pend r) then some trapPending
  else if (runRegs f.reads).any (fun r => th.dead.getLsbD r) then some trapDeadreg
  else none
/-! ## Region boundaries (R391) -/

/-- A thread stands at a region boundary, outside its handler, with an asynchronous trap pending (R378, R391). -/
def State.asyncDue (s : State) (t : ThreadRef) : Bool :=
  let th := s.thread t
  th.boundary && th.status == .ready && !th.handler && (!th.stores.isEmpty || th.wound.isSome)
/-- At a region boundary a thread outside its handler takes its oldest STORE, else its WOUND (R378, R391). -/
def State.takeAsync (s : State) (t : ThreadRef) : State :=
  let th := s.thread t
  if s.asyncDue t then
    match th.stores, th.wound with
    | r :: rest, _ =>
      (s.modThread t (fun th => { th with stores := rest })).takeRecord t { r with pc := th.pc, precise := true }
    | [], some p =>
      (s.modThread t (fun th => { th with wound := none })).takeRecord t
        { s.recordOf t { code := trapWound, sub := 0 } with regionPc := p }
    | [], none => s
  else s
/-- The regions that a group's words have opened start after the group (R388, log 6), and boundaries are looked at. -/
def State.atBoundary (s : State) (t : ThreadRef) : State :=
  if (s.thread t).boundary then (s.modThread t (fun th => th.open_ th.pc)).takeAsync t else s
/-- Every petal of a core that holds a task is looked at for clock gating (R222). -/
def State.gateAll (s : State) : State :=
  s.tasks.foldl (fun s e => (List.range 4).foldl (fun s p => s.gatePetal (petalKey e.2.phys p)) s) s
/-- What follows an issue for its lanes. -/
def finishIssue (ls : List ThreadRef) (s : State) : State :=
  { ls.foldl State.atBoundary s with actor := .none }

/-! ## One word -/

/-- Carry a step's outcome on. -/
def mapNext {σ φ ρ : Type} (o : Host.Outcome σ φ ρ) (f : σ → σ) : Host.Outcome σ φ ρ :=
  match o with
  | .next s => .next (f s)
  | .fault r => .fault r
  | .refused r => .refused r
/-- The lanes of an issue as its words begin. -/
def State.beginIssue (s : State) (ls : List ThreadRef) : State :=
  { ls.foldl (fun s t => s.modThread t (fun th => { th with jumped := false, boundary := false, since := s.tick })) s with
      actor := .lanes ls }
/-- An instruction issues for some lanes. -/
def issueOne (i : Instr) (ls : List ThreadRef) (s : State) : Answer :=
  mapNext (exec i (s.beginIssue ls)) (finishIssue ls)

/-! ## A chained group (R232) -/

/-- The registers that the words of a group read are those before it. -/
def Thread.snapshot (th : Thread) : OldRegs :=
  { regs := th.regs, flags := th.flags, fcr := th.fcr, dead := th.dead, pend := th.pend }
/-- A CTL word, which acts after the other words of its group. -/
noncomputable def GroupWord.isCtl (g : GroupWord) : Bool := (g.form.pipe == .ctl)
/-- SWR, whose write of FCR the sticky flags of the group's other words join. -/
noncomputable def GroupWord.isSwr (g : GroupWord) : Bool :=
  match decodeWord g.raw with
  | .ok (.swr _) => true
  | _ => false
/-- The order in which the words of a group are tried. -/
noncomputable def groupOrder (g : List GroupWord) : List GroupWord :=
  g.filter GroupWord.isSwr ++ g.filter (fun w => !w.isCtl) ++ g.filter (fun w => w.isCtl && !w.isSwr)
/-- One word of a chained group. A lane that an earlier word of the group has made wait takes a CTL word's effect now, in the group's
cycle; where the CTL word leaves it waiting or ending, that comes after the first wait (R232, log 27). -/
noncomputable def groupWord (s0 : State) (ls : List ThreadRef) (fin : DWord) (s : State) (w : GroupWord) : State :=
  let ls := ls.filter (fun t => (s.thread t).handler == (s0.thread t).handler && (s.thread t).status != .ended)
  let s := ls.foldl (fun s t => s.modThread t (fun th =>
    { th with pc := w.pc, second := if w.isCtl && th.status != .ready then some .ready else none })) s
  match decodeWord w.raw with
  | .illegal _ => s
  | .ok i =>
    match exec i { s with actor := .lanes ls } with
    | .next s' =>
      ls.foldl (fun s t => s.modThread t (fun th => if th.pc = w.pc + 4 ∧ !th.jumped then { th with pc := fin } else th)) s'
    | .fault _ => s
    | .refused _ => s
/-- Every word of a group for some lanes. -/
noncomputable def groupPass (s : State) (ls : List ThreadRef) (fin : DWord) (g : List GroupWord) : State :=
  let s0 := { ls.foldl (fun s t => s.modThread t (fun th => { th with old := some th.snapshot })) s with collect := some [] }
  (groupOrder g).foldl (groupWord s0 ls fin) s0
/-- An ILLEGAL trap. -/
def Stop.isIllegal : Stop → Bool
  | .trap i => i.code == trapIllegal
  | _ => false
/-- The lane's stop that its group takes: an ILLEGAL before any other (R245), then the one of least PC. -/
def firstStop (l : List (ThreadRef × DWord × Stop)) (t : ThreadRef) : Option (DWord × Stop) :=
  let mine := l.filter (fun e => e.1 == t)
  let ill := mine.filter (fun e => e.2.2.isIllegal)
  (if ill.isEmpty then mine else ill).foldl (fun b e =>
    match b with
    | none => some e.2
    | some x => if e.2.1.toNat < x.1.toNat then some e.2 else b) none
/-- A register that a word of the group has written is live, though another word has read it for the last time: the group's reads
come before its writes (R232, R234). -/
noncomputable def Thread.reviveWritten (g : List GroupWord) (th : Thread) : Thread :=
  { th with dead := (g.flatMap (fun w => runRegs w.form.writes)).foldl (fun d n => putBit d n false) th.dead }
/-- A group for lanes of which none stops: a lane that stops is taken out, with none of its words in effect, and the group is
tried again without it (R232). -/
noncomputable def runGroup (s : State) (fin : DWord) (g : List GroupWord) :
    Nat → List ThreadRef → List (ThreadRef × DWord × Stop) → State × List (ThreadRef × DWord × Stop)
  | 0, _, st => (s, st)
  | n + 1, ls, st =>
    let s' := groupPass s ls fin g
    let l := s'.collect.getD []
    if l.isEmpty then
      let done := ls.foldl (fun s t => s.modThread t (fun th =>
        { th.reviveWritten g with old := none })) s'
      ({ done with collect := none }.settleBarriers, st)
    else
      let out := ls.filter (fun t => l.any (fun e => e.1 == t))
      runGroup s fin g n (ls.filter (fun t => !out.contains t))
        (st ++ out.filterMap (fun t => (firstStop l t).map (fun x => (t, x))))
/-- A lane of a chained group takes its stop: a trap or a PAGE fault at its word, while one that has to wait stays at the group's first
word, since none of the group's words has taken effect for it (R232, R50). -/
noncomputable def State.takeGroupStop (s : State) (pc : DWord) (x : ThreadRef × DWord × Stop) : State :=
  let at_ := match x.2.2 with
    | .retry _ => pc
    | _ => x.2.1
  (s.modThread x.1 (fun th => { th with pc := at_ })).takeStop x.1 x.2.2
/-- A chained group issues for some lanes; then the stops of its lanes are taken. -/
noncomputable def issueGroup (g : List GroupWord) (fin : DWord) (ls : List ThreadRef) (s : State) : Answer :=
  let pc := (s.thread (ls.headD ⟨0, 0⟩)).pc
  let r := runGroup (s.beginIssue ls) fin g (ls.length + 1) ls []
  let s := r.2.foldl (fun s x => s.takeGroupStop pc x) r.1
  .next (finishIssue ls s.relock)

/-- An ILLEGAL that a word's registers have no part in: MASK and RTE's; a special register that SWR does not write. -/
noncomputable def GroupWord.unread (g : GroupWord) (sub : Nat) : Bool :=
  match decodeWord g.raw with
  | .ok (.swr f) => !(f.arg == 0x10 || f.arg == 0x12)
  | _ => sub == 11 || sub == 15
/-- The ILLEGAL that a lane's words would take as they execute (R245); not one that hangs on a pending or dead register, whose value is
undefined: that read itself traps (R233, R234). -/
noncomputable def State.illegalAhead (s : State) (t : ThreadRef) (g : List GroupWord) : Option (DWord × TrapInfo) :=
  let th := s.thread t
  let sure := fun (e : ThreadRef × DWord × Stop) => match e.2.2 with
    | .trap i => g.any (fun w => w.pc == e.2.1 && ((strictCheck th { w.form with writes := [] }).isNone || w.unread i.sub))
    | _ => true
  let l := (groupPass (s.beginIssue [t]) [t] (groupEnd th.pc g) g).collect.getD []
  match firstStop (l.filter sure) t with
  | some (pc, .trap i) => if i.code = trapIllegal then some (pc, i) else none
  | _ => none
/-- What a group traps for a lane before it issues, with the word it names: R244 word by word, then CHAIN at the group's first
word, then the checks of STRICT, before which an ILLEGAL that a word meets as it executes is taken (R245). -/
noncomputable def State.groupCheck (s : State) (t : ThreadRef) (g : List GroupWord) : Option (DWord × TrapInfo) :=
  let k := s.task t.task
  match g.findSome? (fun w => (wordCheck k w.raw).map (fun n => (w.pc, n))) with
  | some (pc, n) => some (pc, { code := trapIllegal, sub := n, va := pc })
  | none =>
    if chainBad g then
      let pc := (s.thread t).pc
      some (pc, { code := trapIllegal, sub := 10, va := pc })
    else if k.strict then
      (g.findSome? (fun w => (strictCheck (s.thread t) w.form).map (fun c => (w.pc, { code := c, sub := 0 })))).map (fun x =>
        (s.illegalAhead t g).getD x)
    else none

/-! ## The issue -/

/-- The order of lanes within an issue: (TASK, TID), tasks of one number by age (R178, R204). -/
def State.laneBefore (s : State) (a b : ThreadRef) : Bool :=
  let x := (s.task a.task).num
  let y := (s.task b.task).num
  decide (x < y) || (x == y && (decide (a.tid < b.tid) || (a.tid == b.tid && decide (a.task < b.task))))
/-- A list of lanes in that order. -/
def State.ascending (s : State) : List ThreadRef → Bool
  | a :: b :: r => s.laneBefore a b && s.ascending (b :: r)
  | _ => true
/-- Threads may issue together: ready, resident, on one petal, with one PC and one ASID, one for each home lane, ascending
(R202, R204). -/
def State.mayIssue (s : State) (ls : List ThreadRef) : Bool :=
  match ls with
  | [] => false
  | t0 :: _ =>
    ls.all (fun t => (s.threads.find? (tkey t)).isSome && decide (t.tid < 1024) && (s.thread t).status == .ready &&
      s.isResident t && s.petalOf t == s.petalOf t0 && (s.thread t).pc == (s.thread t0).pc && s.asidOf t == s.asidOf t0) &&
    decide ((ls.map laneOf).Nodup) && s.ascending ls
/-- The fetch of the group's packet stops: for every lane, at the packet (R26); a wait leaves the PC. -/
def State.fetchStops (s : State) (ls : List ThreadRef) (pc : DWord) (r : Stop) : State :=
  ls.foldl (fun s t =>
    match r with
    | .retry _ => s.takeStop t r
    | _ => (s.modThread t (fun th => { th with pc := packetOf pc })).takeStop t r) s
/-- The group issues for the lanes that pass its checks, the others trap. -/
noncomputable def issueWords (g : List GroupWord) (ls : List ThreadRef) (s : State) : Answer :=
  let s := if g.any GroupWord.waits then ls.foldl State.drainPend s else s
  let bad := ls.filterMap (fun t => (s.groupCheck t g).map (fun x => (t, x)))
  let good := ls.filter (fun t => (s.groupCheck t g).isNone)
  let pc := (s.thread (ls.headD ⟨0, 0⟩)).pc
  let r : Answer := match good, g with
    | [], _ => .next s
    | _, [w] =>
      match decodeWord w.raw with
      | .ok i => issueOne i good s
      | .illegal _ => .next s
    | _, _ => issueGroup g (groupEnd pc g) good s
  mapNext r (fun s => s.takeTraps bad)
/-- One issue of a petal (R202, R228, R391): pending asynchronous traps first, then the fetch, the checks, and the words. -/
noncomputable def issue (ls : List ThreadRef) (s : State) : Answer :=
  if !s.mayIssue ls then .next s
  else if ls.any s.asyncDue then .next (ls.foldl State.takeAsync s)
  else
    let t0 := ls.headD ⟨0, 0⟩
    let th := s.thread t0
    match s.fetchPacket t0 (packetOf th.pc) with
    | .stop r s => .next (s.fetchStops ls th.pc r)
    | .ok ws s => issueWords (groupAt th.pc ws) ls s

/-! ## Sepals (R431) -/

/-- A packet context runs its current word (R431, R434). -/
noncomputable def runSepal (k : Nat) (s : State) : Answer :=
  match s.ctxts.find? k with
  | none => .next s
  | some c =>
    match ((s.slots.find? c.slot).map Slot.words).bind (fun ws => (ws[c.pc]?).bind decodeSepal) with
    | none => .next s
    | some i => mapNext (exec i { s with actor := .sepal k }) (fun s => { s with actor := .none, lastCtx := k })

end Sys2Proof.Machine
end

