-- ==== Sys2Proof/Machine/Schedule.lean ====
section
/-! DEFINITION. What happens next where the agenda does not say: the petal picker of R202, the sepals' rotation (R431) and the
package's own events, in one interleaving of those the manual allows (log 1). -/
namespace Sys2Proof.Machine

/-! ## The picker (R202) -/

/-- Threads that may issue: ready, on their core, outside a save. -/
def State.candidates (s : State) : List ThreadRef :=
  s.threads.filterMap (fun e =>
    if e.2.status == .ready && s.isResident e.2.ref && tkey e.2.ref == e.1 && decide (e.2.tid < 1024) then some e.2.ref else none)
/-- Of two threads, the one that has waited longer; on a tie the earlier in the order of lanes (log 2). -/
def State.longer (s : State) (a b : ThreadRef) : Bool :=
  decide ((s.thread a).since < (s.thread b).since) || ((s.thread a).since == (s.thread b).since && s.laneBefore a b)
/-- The thread of a list that has waited longest. -/
def State.longest (s : State) (l : List ThreadRef) : Option ThreadRef :=
  l.foldl (fun b t =>
    match b with
    | none => some t
    | some x => if s.longer t x then some t else some x) none
/-- Candidates of one petal with the PC and the address space of a thread. -/
def State.alike (s : State) (l : List ThreadRef) (t : ThreadRef) : List ThreadRef :=
  l.filter (fun x => (s.thread x).pc == (s.thread t).pc && s.asidOf x == s.asidOf t)
/-- The order of lanes, as an insertion into a list in that order. -/
def State.insertLane (s : State) (t : ThreadRef) : List ThreadRef → List ThreadRef
  | [] => [t]
  | x :: r => if s.laneBefore t x then t :: x :: r else x :: s.insertLane t r
/-- For each home lane the candidate of a PC that has waited longest, in the order of lanes. -/
def State.gather (s : State) (l : List ThreadRef) : List ThreadRef :=
  ((List.range 32).filterMap (fun i => s.longest (l.filter (fun t => laneOf t == i)))).foldl (fun a t => s.insertLane t a) []
/-- The issue group of a petal's candidates: an urgent PC first, else the PC with the most candidates (R202). -/
def State.pick (s : State) (l : List ThreadRef) : List ThreadRef :=
  let urgent := l.filter (fun t => decide ((s.thread t).since + 256 ≤ s.tick))
  match s.longest urgent with
  | some t => s.gather (s.alike l t)
  | none =>
    let most := (l.map (fun t => (s.alike l t).length)).foldl max 0
    match s.longest (l.filter (fun t => (s.alike l t).length == most)) with
    | some t => s.gather (s.alike l t)
    | none => []
/-- Petals that have candidates, each once. -/
def State.busyPetals (s : State) : List Nat :=
  s.candidates.foldl (fun l t => if l.contains (s.petalOf t) then l else l ++ [s.petalOf t]) []
/-- The next issue: petals take turns (log 2). -/
def State.nextIssue (s : State) : Option (List ThreadRef) :=
  let ps := s.busyPetals
  if ps.isEmpty then none
  else
    let p := ps.getD (s.tick % ps.length) 0
    some (s.pick (s.candidates.filter (fun t => s.petalOf t == p)))
/-- The next packet context, in rotation (R431). -/
def State.nextSepal (s : State) : Option Nat :=
  ((List.find? (fun (e : Nat × Ctx) => decide (s.lastCtx < e.1)) s.ctxts).orElse (fun _ => s.ctxts.head?)).map Prod.fst

/-! ## The package's own events -/

/-- Events that may be due for a thread. -/
noncomputable def State.threadOffers (s : State) (th : Thread) : List Instr :=
  let t := th.ref
  (if th.pend.isEmpty then [] else [.resultReturn t]) ++
  (match th.status with
    | .yielded => if th.since + 16 ≤ s.tick then [.yieldExpire t] else []
    | .exiting => [.threadEnd t]
    | .parked .tracker => [.threadEnd t]
    | .parked (.xsucc _) => [.threadEnd t]
    | .parked (.mwait _ _ _ _ _ _) => [.mwaitRecheck t]
    | .parked (.sigw _ _ _ _) => [.sigwRecheck t]
    | .parked (.deferred _) => [.deferredTrapEntry t]
    | .parked .lkrall => [.lkrallComplete t.task]
    | .parked (.skrel k _) => [.skrelComplete k]
    | .parked (.retry (.mig _ _)) => [.migRewalk t]
    | _ => [])
/-- Events that may be due for a task. -/
noncomputable def Task.offers (k : Task) : List Instr :=
  match k.status with
  | .resident => []
  | .saving => [.taskSave k.age]
  | .saved => [.taskRestore k.age]
  | .ended => [.taskResourcesFree k.age]
  | .succeeding => [.successorPlace k.age]
/-- Events that may be due for an engine operation. -/
noncomputable def State.engineOffers (s : State) (id : Nat) (o : EngineOp) : List Instr :=
  match o.kind with
  | .mxgo _ _ _ _ _ => [.mxgoStep o.core]
  | .remap l _ => [.remapPassEnd (s.layout l).lseq (s.layout l).va]
  | .rrot _ _ _ _ _ started => if started then [.rrotArrive id] else [.rrotStart (s.task o.task).launch (o.core / 8)]
  | _ => [.engineChunk id]
/-- Reserved cores that are lent while a class-0 task waits for them (R375). -/
def State.lentCores (s : State) : List Nat :=
  s.reservedCores.filter (fun p =>
    s.launches.any (fun e => e.2.rcd.cls == 0 && e.2.waiting.any (fun w => w.phys == p)) &&
    s.tasks.any (fun e => e.2.phys == p && e.2.status == .resident &&
      ((s.launch? e.2.launch).map (fun l => l.rcd.cls)) != some 0))
/-- Events that the package may take by itself in this step. -/
noncomputable def State.offers (s : State) : List Instr :=
  s.threads.flatMap (fun e => s.threadOffers e.2) ++
  s.tasks.flatMap (fun e => e.2.offers) ++
  s.engines.flatMap (fun e => s.engineOffers e.1 e.2) ++
  s.regq.flatMap (fun e => [.registration e.1, .registrationAck e.1]) ++
  s.hostq.map (fun w => .registration w.core) ++
  s.launches.flatMap (fun e => e.2.waiting.map (fun w => .taskAdmit w.phys) ++
    (if e.2.coll.isSome then [.collectiveReserve e.1] else [])) ++
  s.pending.flatMap (fun p => [.launchCheck p.q p.count, .dependenceRecheck p.q p.count] ++
    (if p.coll.isSome then [.collectiveReserve (2 ^ 40 + p.q * 2 ^ 32 + p.count)] else [])) ++
  (if s.pending.isEmpty then [] else [.dispatch]) ++
  s.heldPage.map (fun e => .pfqRecordRelease e.1) ++
  s.fregs.flatMap (fun e => if e.1.2 = .invtail then [.invalidationCommand e.1.1] else []) ++
  s.invals.map (fun i => .invalidationComplete i.func) ++
  s.migrations.map (fun m => .migrationFinish m.asid m.region) ++
  (if s.heldSignals.isEmpty then [] else [.migRewalk ⟨0, 0⟩]) ++
  s.sepalQ.map (fun e => .sepalContextStart (e.1 / 4)) ++
  s.fabricOut.filterMap (fun p => if p.dst = s.self then some (.remoteRequest p) else none) ++
  s.responses.filterMap (fun r => if r.1 = s.self then some (.remoteResponse r.2) else none) ++
  (if s.lentCores.isEmpty then [] else [.preemptRequest s.lentCores])
/-- A list, begun at another place. -/
def rotated {α : Type} (n : Nat) (l : List α) : List α := l.drop (n % l.length) ++ l.take (n % l.length)
/-- The first event of a list that changes something. -/
def firstChange (s : State) : List Instr → Option State
  | [] => none
  | i :: r =>
    match exec i s with
    | .next s' => if s' = s then firstChange s r else some s'
    | _ => firstChange s r

/-! ## One step -/

/-- A turn of the schedule. -/
noncomputable def runTurn (x : Turn) (s : State) : Answer :=
  match x with
  | .event i => exec i s
  | .issue ls => issue ls s
  | .sepal k => runSepal k s
/-- An issue, if some thread may issue. -/
noncomputable def tryIssue (s : State) : Option Answer := s.nextIssue.map (fun ls => issue ls s)
/-- A sepal's word, if some packet runs. -/
noncomputable def trySepal (s : State) : Option Answer := s.nextSepal.map (fun k => runSepal k s)
/-- An event, if one is due. -/
noncomputable def tryEvent (s : State) : Option Answer := (firstChange s (rotated (s.tick / 3) s.offers)).map .next
/-- The kinds take turns; each step takes the first that has something to do. -/
noncomputable def runFree (s : State) : Answer :=
  (match s.tick % 3 with
    | 0 => ((tryIssue s).or (trySepal s)).or (tryEvent s)
    | 1 => ((trySepal s).or (tryEvent s)).or (tryIssue s)
    | _ => ((tryEvent s).or (tryIssue s)).or (trySepal s)).getD (.next s)
/-- What every step ends with: petals all of whose threads wait are gated, and the clock, `n` when the step began, has moved
(R222, R279, log 3). -/
def endStep (n : Nat) (s : State) : State := { s.gateAll with tick := n + 1 }
/-- One step of the package: the agenda's head, else what the package does by itself. -/
noncomputable def stepOf (s : State) : Answer :=
  match s.agenda with
  | x :: r => mapNext (runTurn x { s with agenda := r }) (endStep s.tick)
  | [] => mapNext (runFree s) (endStep s.tick)

/-! ## Placing one instruction (log 14) -/

/-- The core word placed at a packet's start: a launch, a task and a thread stand there, its page is translated, and its bytes
lie in memory, two NOP words after them. -/
def State.placeCore (s : State) (w : Word) : State :=
  { s with
    agenda := .issue [⟨0, 0⟩] :: s.agenda
    launches := s.launches.put 0 {}
    tasks := s.tasks.put 0 {}
    threads := s.threads.put 0 { pc := 0x1008, regionPc := 0x1008 }
    tlbs := s.tlbs.put 0 ((0, 1, ⟨12, 1, true, true, true, true, false⟩) :: Tbl.get [] s.tlbs 0)
    slices := s.slices.filter (fun e => e.1 % 2 ^ 32 != 16)
    l1 := s.l1.filter (fun e => e.1 % 2 ^ 52 / 64 != 16)
    metas := Tbl.erase s.metas 16
    mem := Memory.write s.mem 0x1008 (bytesOfWord w ++ List.replicate 8 0) }
/-- A sepal word placed as the one word of a kernel that a packet is about to execute. -/
def State.placeSepal (s : State) (w : Word) : State :=
  { s with
    agenda := .sepal 0 :: s.agenda
    slots := s.slots.put 0 { asid := 0, func := 0, jobkey := 0, fclass := 0, ports := 0, budget := 512, words := [w],
                             flowBase := 0, flowb := 0, code := 0, task := 0, num := 0, tid := 0, lseq := 0 }
    ctxts := s.ctxts.put 0 { slot := 0, pkt :=
      { kind := .put, src := 0, dst := 0, cls := 0, vc := 0, op := 0, piece := 0, pieces := 1, target := 0, len := 0, key := 0,
        jobkey := 0, payload := [], operand := 0, swap := 0, dcnt := 0, cntv := false, incmode := false, last := true,
        collid := 0, cstep := 0, slot := none, marked := false, mirror := false } } }

end Sys2Proof.Machine
end

