-- ==== Sys2Proof/Machine/Step.lean ====
section
/-! DEFINITION. The step of the package, and where the host places an instruction to run. -/
namespace Sys2Proof.Machine

/-- One step: the agenda's head where there is one, else the package's own next turn (log 1). -/
noncomputable def step (s : State) : Host.Outcome State Fault Refusal := stepOf s

/-- The state with one instruction placed where the next step takes it: a core word in the first packet of a thread, a sepal
word as a kernel of one word (log 14, log 15). -/
noncomputable def State.withFetchWord (s : State) (nbits w : Nat) : State :=
  let v := BitVec.ofNat 32 (w % 2 ^ nbits)
  let isCore := match decodeWord v with
    | .ok _ => true
    | .illegal _ => false
  let sepal := (decodeSepal v).isSome && (!isCore || decide (0x40000000 ≤ v.toNat))
  if sepal then s.placeSepal v else s.placeCore v

end Sys2Proof.Machine
end

