-- ==== Sys2Proof/Laws/Encode.lean ====
section
/-! SUPPORT. What each field extraction gives of each word format: the lemmas by which an encoded instruction decodes. -/
namespace Sys2Proof
set_option Elab.async false

/-- Bits of a one-bit field. -/
theorem one_bit (b : Bool) : (one b).getLsbD 0 = b := by cases b <;> rfl

theorem bits_wordR (maj : BitVec 6) (f : FmtR) (sel : BitVec 4) (i : Nat) : (wordR maj f sel).getLsbD i =
    (one f.c ++ one f.w ++ maj ++ f.d ++ f.a ++ f.b ++ one f.la ++ one f.lb ++ sel).getLsbD i := rfl
theorem fields_wordR (maj : BitVec 6) (f : FmtR) (sel : BitVec 4) : fieldsR (wordR maj f sel) = f := by
  cases f
  simp only [fieldsR, bit, FmtR.mk.injEq]
  refine ⟨?_, ?_, ?_, ?_, ?_, ?_, ?_⟩
  all_goals first
    | (simp only [bits_wordR, BitVec.getLsbD_append]; simp [one])
    | (apply BitVec.eq_of_getLsbD_eq; intro i hi; interval_cases i <;>
        simp only [bits_wordR, BitVec.getLsbD_append, BitVec.getLsbD_extractLsb'] <;> rfl)
theorem major_wordR (maj : BitVec 6) (f : FmtR) (sel : BitVec 4) : majorOf (wordR maj f sel) = maj := by
  apply BitVec.eq_of_getLsbD_eq; intro i hi
  interval_cases i <;> simp only [majorOf, bits_wordR, BitVec.getLsbD_append, BitVec.getLsbD_extractLsb'] <;> rfl
theorem sel_wordR (maj : BitVec 6) (f : FmtR) (sel : BitVec 4) : (wordR maj f sel).extractLsb' 0 4 = sel := by
  apply BitVec.eq_of_getLsbD_eq; intro i hi
  interval_cases i <;> simp only [bits_wordR, BitVec.getLsbD_append, BitVec.getLsbD_extractLsb'] <;> rfl
theorem bits_wordI (maj : BitVec 6) (f : FmtI) (i : Nat) : (wordI maj f).getLsbD i =
    (one f.c ++ one f.w ++ maj ++ f.d ++ f.a ++ one f.la ++ f.imm).getLsbD i := rfl
theorem fields_wordI (maj : BitVec 6) (f : FmtI) : fieldsI (wordI maj f) = f := by
  cases f
  simp only [fieldsI, bit, FmtI.mk.injEq]
  refine ⟨?_, ?_, ?_, ?_, ?_, ?_⟩
  all_goals first
    | (simp only [bits_wordI, BitVec.getLsbD_append]; simp [one])
    | (apply BitVec.eq_of_getLsbD_eq; intro i hi; interval_cases i <;>
        simp only [bits_wordI, BitVec.getLsbD_append, BitVec.getLsbD_extractLsb'] <;> rfl)
theorem major_wordI (maj : BitVec 6) (f : FmtI) : majorOf (wordI maj f) = maj := by
  apply BitVec.eq_of_getLsbD_eq; intro i hi
  interval_cases i <;> simp only [majorOf, bits_wordI, BitVec.getLsbD_append, BitVec.getLsbD_extractLsb'] <;> rfl
theorem bits_wordSh (maj : BitVec 6) (f : FmtSh) (sel : BitVec 2) (i : Nat) : (wordSh maj f sel).getLsbD i =
    (one f.c ++ one f.w ++ maj ++ f.d ++ f.a ++ one f.la ++ sel ++ one f.wd ++ f.z ++ f.n).getLsbD i := rfl
theorem fields_wordSh (maj : BitVec 6) (f : FmtSh) (sel : BitVec 2) : fieldsSh (wordSh maj f sel) = f := by
  cases f
  simp only [fieldsSh, bit, FmtSh.mk.injEq]
  refine ⟨?_, ?_, ?_, ?_, ?_, ?_, ?_, ?_⟩
  all_goals first
    | (simp only [bits_wordSh, BitVec.getLsbD_append]; simp [one])
    | (apply BitVec.eq_of_getLsbD_eq; intro i hi; interval_cases i <;>
        simp only [bits_wordSh, BitVec.getLsbD_append, BitVec.getLsbD_extractLsb'] <;> rfl)
theorem major_wordSh (maj : BitVec 6) (f : FmtSh) (sel : BitVec 2) : majorOf (wordSh maj f sel) = maj := by
  apply BitVec.eq_of_getLsbD_eq; intro i hi
  interval_cases i <;> simp only [majorOf, bits_wordSh, BitVec.getLsbD_append, BitVec.getLsbD_extractLsb'] <;> rfl
theorem sel_wordSh (maj : BitVec 6) (f : FmtSh) (sel : BitVec 2) : (wordSh maj f sel).extractLsb' 9 2 = sel := by
  apply BitVec.eq_of_getLsbD_eq; intro i hi
  interval_cases i <;> simp only [bits_wordSh, BitVec.getLsbD_append, BitVec.getLsbD_extractLsb'] <;> rfl
theorem bits_wordL (maj : BitVec 6) (f : FmtL) (sel : BitVec 2) (i : Nat) : (wordL maj f sel).getLsbD i =
    (one f.c ++ one f.w ++ maj ++ f.d ++ sel ++ f.imm).getLsbD i := rfl
theorem fields_wordL (maj : BitVec 6) (f : FmtL) (sel : BitVec 2) : fieldsL (wordL maj f sel) = f := by
  cases f
  simp only [fieldsL, bit, FmtL.mk.injEq]
  refine ⟨?_, ?_, ?_, ?_⟩
  all_goals first
    | (simp only [bits_wordL, BitVec.getLsbD_append]; simp [one])
    | (apply BitVec.eq_of_getLsbD_eq; intro i hi; interval_cases i <;>
        simp only [bits_wordL, BitVec.getLsbD_append, BitVec.getLsbD_extractLsb'] <;> rfl)
theorem major_wordL (maj : BitVec 6) (f : FmtL) (sel : BitVec 2) : majorOf (wordL maj f sel) = maj := by
  apply BitVec.eq_of_getLsbD_eq; intro i hi
  interval_cases i <;> simp only [majorOf, bits_wordL, BitVec.getLsbD_append, BitVec.getLsbD_extractLsb'] <;> rfl
theorem sel_wordL (maj : BitVec 6) (f : FmtL) (sel : BitVec 2) : (wordL maj f sel).extractLsb' 16 2 = sel := by
  apply BitVec.eq_of_getLsbD_eq; intro i hi
  interval_cases i <;> simp only [bits_wordL, BitVec.getLsbD_append, BitVec.getLsbD_extractLsb'] <;> rfl
theorem bits_wordF (maj : BitVec 6) (f : FmtF) (i : Nat) : (wordF maj f).getLsbD i =
    (one f.c ++ one f.w ++ maj ++ f.fd ++ f.cc ++ f.a ++ f.b ++ one f.la ++ one f.lb ++ f.ty).getLsbD i := rfl
theorem fields_wordF (maj : BitVec 6) (f : FmtF) : fieldsF (wordF maj f) = f := by
  cases f
  simp only [fieldsF, bit, FmtF.mk.injEq]
  refine ⟨?_, ?_, ?_, ?_, ?_, ?_, ?_, ?_, ?_⟩
  all_goals first
    | (simp only [bits_wordF, BitVec.getLsbD_append]; simp [one])
    | (apply BitVec.eq_of_getLsbD_eq; intro i hi; interval_cases i <;>
        simp only [bits_wordF, BitVec.getLsbD_append, BitVec.getLsbD_extractLsb'] <;> rfl)
theorem major_wordF (maj : BitVec 6) (f : FmtF) : majorOf (wordF maj f) = maj := by
  apply BitVec.eq_of_getLsbD_eq; intro i hi
  interval_cases i <;> simp only [majorOf, bits_wordF, BitVec.getLsbD_append, BitVec.getLsbD_extractLsb'] <;> rfl
theorem bits_wordX (maj : BitVec 6) (f : FmtX) (sel : BitVec 2) (i : Nat) : (wordX maj f sel).getLsbD i =
    (one f.c ++ one f.w ++ maj ++ f.d ++ f.a ++ f.b ++ f.xr ++ f.xc ++ sel).getLsbD i := rfl
theorem fields_wordX (maj : BitVec 6) (f : FmtX) (sel : BitVec 2) : fieldsX (wordX maj f sel) = f := by
  cases f
  simp only [fieldsX, bit, FmtX.mk.injEq]
  refine ⟨?_, ?_, ?_, ?_, ?_, ?_, ?_⟩
  all_goals first
    | (simp only [bits_wordX, BitVec.getLsbD_append]; simp [one])
    | (apply BitVec.eq_of_getLsbD_eq; intro i hi; interval_cases i <;>
        simp only [bits_wordX, BitVec.getLsbD_append, BitVec.getLsbD_extractLsb'] <;> rfl)
theorem major_wordX (maj : BitVec 6) (f : FmtX) (sel : BitVec 2) : majorOf (wordX maj f sel) = maj := by
  apply BitVec.eq_of_getLsbD_eq; intro i hi
  interval_cases i <;> simp only [majorOf, bits_wordX, BitVec.getLsbD_append, BitVec.getLsbD_extractLsb'] <;> rfl
theorem sel_wordX (maj : BitVec 6) (f : FmtX) (sel : BitVec 2) : (wordX maj f sel).extractLsb' 0 2 = sel := by
  apply BitVec.eq_of_getLsbD_eq; intro i hi
  interval_cases i <;> simp only [bits_wordX, BitVec.getLsbD_append, BitVec.getLsbD_extractLsb'] <;> rfl
theorem bits_wordM (maj : BitVec 6) (f : FmtM) (i : Nat) : (wordM maj f).getLsbD i =
    (one f.c ++ one f.w ++ maj ++ f.d ++ f.a ++ one f.la ++ f.sz ++ f.ord ++ f.off).getLsbD i := rfl
theorem fields_wordM (maj : BitVec 6) (f : FmtM) : fieldsM (wordM maj f) = f := by
  cases f
  simp only [fieldsM, bit, FmtM.mk.injEq]
  refine ⟨?_, ?_, ?_, ?_, ?_, ?_, ?_, ?_⟩
  all_goals first
    | (simp only [bits_wordM, BitVec.getLsbD_append]; simp [one])
    | (apply BitVec.eq_of_getLsbD_eq; intro i hi; interval_cases i <;>
        simp only [bits_wordM, BitVec.getLsbD_append, BitVec.getLsbD_extractLsb'] <;> rfl)
theorem major_wordM (maj : BitVec 6) (f : FmtM) : majorOf (wordM maj f) = maj := by
  apply BitVec.eq_of_getLsbD_eq; intro i hi
  interval_cases i <;> simp only [majorOf, bits_wordM, BitVec.getLsbD_append, BitVec.getLsbD_extractLsb'] <;> rfl
theorem bits_wordA (maj : BitVec 6) (f : FmtA) (sel : BitVec 4) (i : Nat) : (wordA maj f sel).getLsbD i =
    (one f.c ++ one f.w ++ maj ++ f.d ++ f.a ++ f.b ++ sel ++ f.ord).getLsbD i := rfl
theorem fields_wordA (maj : BitVec 6) (f : FmtA) (sel : BitVec 4) : fieldsA (wordA maj f sel) = f := by
  cases f
  simp only [fieldsA, bit, FmtA.mk.injEq]
  refine ⟨?_, ?_, ?_, ?_, ?_, ?_⟩
  all_goals first
    | (simp only [bits_wordA, BitVec.getLsbD_append]; simp [one])
    | (apply BitVec.eq_of_getLsbD_eq; intro i hi; interval_cases i <;>
        simp only [bits_wordA, BitVec.getLsbD_append, BitVec.getLsbD_extractLsb'] <;> rfl)
theorem major_wordA (maj : BitVec 6) (f : FmtA) (sel : BitVec 4) : majorOf (wordA maj f sel) = maj := by
  apply BitVec.eq_of_getLsbD_eq; intro i hi
  interval_cases i <;> simp only [majorOf, bits_wordA, BitVec.getLsbD_append, BitVec.getLsbD_extractLsb'] <;> rfl
theorem sel_wordA (maj : BitVec 6) (f : FmtA) (sel : BitVec 4) : (wordA maj f sel).extractLsb' 2 4 = sel := by
  apply BitVec.eq_of_getLsbD_eq; intro i hi
  interval_cases i <;> simp only [bits_wordA, BitVec.getLsbD_append, BitVec.getLsbD_extractLsb'] <;> rfl
theorem bits_wordAK (maj : BitVec 6) (f : FmtAK) (sel : BitVec 2) (i : Nat) : (wordAK maj f sel).getLsbD i =
    (one f.c ++ one f.w ++ maj ++ f.d ++ f.a ++ f.b ++ f.k ++ sel).getLsbD i := rfl
theorem fields_wordAK (maj : BitVec 6) (f : FmtAK) (sel : BitVec 2) : fieldsAK (wordAK maj f sel) = f := by
  cases f
  simp only [fieldsAK, bit, FmtAK.mk.injEq]
  refine ⟨?_, ?_, ?_, ?_, ?_, ?_⟩
  all_goals first
    | (simp only [bits_wordAK, BitVec.getLsbD_append]; simp [one])
    | (apply BitVec.eq_of_getLsbD_eq; intro i hi; interval_cases i <;>
        simp only [bits_wordAK, BitVec.getLsbD_append, BitVec.getLsbD_extractLsb'] <;> rfl)
theorem major_wordAK (maj : BitVec 6) (f : FmtAK) (sel : BitVec 2) : majorOf (wordAK maj f sel) = maj := by
  apply BitVec.eq_of_getLsbD_eq; intro i hi
  interval_cases i <;> simp only [majorOf, bits_wordAK, BitVec.getLsbD_append, BitVec.getLsbD_extractLsb'] <;> rfl
theorem sel_wordAK (maj : BitVec 6) (f : FmtAK) (sel : BitVec 2) : (wordAK maj f sel).extractLsb' 0 2 = sel := by
  apply BitVec.eq_of_getLsbD_eq; intro i hi
  interval_cases i <;> simp only [bits_wordAK, BitVec.getLsbD_append, BitVec.getLsbD_extractLsb'] <;> rfl
theorem bits_wordK (maj : BitVec 6) (f : FmtK) (sel : BitVec 6) (i : Nat) : (wordK maj f sel).getLsbD i =
    (one f.c ++ one f.w ++ maj ++ f.kd ++ f.ka ++ f.g ++ f.kb ++ sel).getLsbD i := rfl
theorem fields_wordK (maj : BitVec 6) (f : FmtK) (sel : BitVec 6) : fieldsK (wordK maj f sel) = f := by
  cases f
  simp only [fieldsK, bit, FmtK.mk.injEq]
  refine ⟨?_, ?_, ?_, ?_, ?_, ?_⟩
  all_goals first
    | (simp only [bits_wordK, BitVec.getLsbD_append]; simp [one])
    | (apply BitVec.eq_of_getLsbD_eq; intro i hi; interval_cases i <;>
        simp only [bits_wordK, BitVec.getLsbD_append, BitVec.getLsbD_extractLsb'] <;> rfl)
theorem major_wordK (maj : BitVec 6) (f : FmtK) (sel : BitVec 6) : majorOf (wordK maj f sel) = maj := by
  apply BitVec.eq_of_getLsbD_eq; intro i hi
  interval_cases i <;> simp only [majorOf, bits_wordK, BitVec.getLsbD_append, BitVec.getLsbD_extractLsb'] <;> rfl
theorem sel_wordK (maj : BitVec 6) (f : FmtK) (sel : BitVec 6) : (wordK maj f sel).extractLsb' 0 6 = sel := by
  apply BitVec.eq_of_getLsbD_eq; intro i hi
  interval_cases i <;> simp only [bits_wordK, BitVec.getLsbD_append, BitVec.getLsbD_extractLsb'] <;> rfl
theorem bits_wordJ (maj : BitVec 6) (f : FmtJ) (sel : Bool) (i : Nat) : (wordJ maj f sel).getLsbD i =
    (one f.c ++ one f.w ++ maj ++ one f.n ++ f.f ++ one sel ++ f.off).getLsbD i := rfl
theorem fields_wordJ (maj : BitVec 6) (f : FmtJ) (sel : Bool) : fieldsJ (wordJ maj f sel) = f := by
  cases f
  simp only [fieldsJ, bit, FmtJ.mk.injEq]
  refine ⟨?_, ?_, ?_, ?_, ?_⟩
  all_goals first
    | (simp only [bits_wordJ, BitVec.getLsbD_append]; simp [one])
    | (apply BitVec.eq_of_getLsbD_eq; intro i hi; interval_cases i <;>
        simp only [bits_wordJ, BitVec.getLsbD_append, BitVec.getLsbD_extractLsb'] <;> rfl)
theorem major_wordJ (maj : BitVec 6) (f : FmtJ) (sel : Bool) : majorOf (wordJ maj f sel) = maj := by
  apply BitVec.eq_of_getLsbD_eq; intro i hi
  interval_cases i <;> simp only [majorOf, bits_wordJ, BitVec.getLsbD_append, BitVec.getLsbD_extractLsb'] <;> rfl
theorem sel_wordJ (maj : BitVec 6) (f : FmtJ) (sel : Bool) : bit (wordJ maj f sel) 19 = sel := by
  simp only [bit, bits_wordJ, BitVec.getLsbD_append]; simp [one]
theorem bits_wordT (maj : BitVec 6) (f : FmtT) (sel : BitVec 6) (i : Nat) : (wordT maj f sel).getLsbD i =
    (one f.c ++ one f.w ++ maj ++ f.h ++ f.a ++ f.bo ++ sel).getLsbD i := rfl
theorem fields_wordT (maj : BitVec 6) (f : FmtT) (sel : BitVec 6) : fieldsT (wordT maj f sel) = f := by
  cases f
  simp only [fieldsT, bit, FmtT.mk.injEq]
  refine ⟨?_, ?_, ?_, ?_, ?_⟩
  all_goals first
    | (simp only [bits_wordT, BitVec.getLsbD_append]; simp [one])
    | (apply BitVec.eq_of_getLsbD_eq; intro i hi; interval_cases i <;>
        simp only [bits_wordT, BitVec.getLsbD_append, BitVec.getLsbD_extractLsb'] <;> rfl)
theorem major_wordT (maj : BitVec 6) (f : FmtT) (sel : BitVec 6) : majorOf (wordT maj f sel) = maj := by
  apply BitVec.eq_of_getLsbD_eq; intro i hi
  interval_cases i <;> simp only [majorOf, bits_wordT, BitVec.getLsbD_append, BitVec.getLsbD_extractLsb'] <;> rfl
theorem sel_wordT (maj : BitVec 6) (f : FmtT) (sel : BitVec 6) : (wordT maj f sel).extractLsb' 0 6 = sel := by
  apply BitVec.eq_of_getLsbD_eq; intro i hi
  interval_cases i <;> simp only [bits_wordT, BitVec.getLsbD_append, BitVec.getLsbD_extractLsb'] <;> rfl
theorem bits_wordTL (maj : BitVec 6) (f : FmtTL) (sel : Bool) (i : Nat) : (wordTL maj f sel).getLsbD i =
    (one f.c ++ one f.w ++ maj ++ f.h ++ f.a ++ f.bo ++ f.mode ++ f.level ++ one sel).getLsbD i := rfl
theorem fields_wordTL (maj : BitVec 6) (f : FmtTL) (sel : Bool) : fieldsTL (wordTL maj f sel) = f := by
  cases f
  simp only [fieldsTL, bit, FmtTL.mk.injEq]
  refine ⟨?_, ?_, ?_, ?_, ?_, ?_, ?_⟩
  all_goals first
    | (simp only [bits_wordTL, BitVec.getLsbD_append]; simp [one])
    | (apply BitVec.eq_of_getLsbD_eq; intro i hi; interval_cases i <;>
        simp only [bits_wordTL, BitVec.getLsbD_append, BitVec.getLsbD_extractLsb'] <;> rfl)
theorem major_wordTL (maj : BitVec 6) (f : FmtTL) (sel : Bool) : majorOf (wordTL maj f sel) = maj := by
  apply BitVec.eq_of_getLsbD_eq; intro i hi
  interval_cases i <;> simp only [majorOf, bits_wordTL, BitVec.getLsbD_append, BitVec.getLsbD_extractLsb'] <;> rfl
theorem sel_wordTL (maj : BitVec 6) (f : FmtTL) (sel : Bool) : bit (wordTL maj f sel) 0 = sel := by
  simp only [bit, bits_wordTL, BitVec.getLsbD_append]; simp [one]
theorem bits_wordC (maj : BitVec 6) (f : FmtC) (i : Nat) : (wordC maj f).getLsbD i =
    (one f.c ++ one f.w ++ maj ++ f.d ++ f.a ++ one f.la ++ f.to_ ++ f.from_ ++ f.rm).getLsbD i := rfl
theorem fields_wordC (maj : BitVec 6) (f : FmtC) : fieldsC (wordC maj f) = f := by
  cases f
  simp only [fieldsC, bit, FmtC.mk.injEq]
  refine ⟨?_, ?_, ?_, ?_, ?_, ?_, ?_, ?_⟩
  all_goals first
    | (simp only [bits_wordC, BitVec.getLsbD_append]; simp [one])
    | (apply BitVec.eq_of_getLsbD_eq; intro i hi; interval_cases i <;>
        simp only [bits_wordC, BitVec.getLsbD_append, BitVec.getLsbD_extractLsb'] <;> rfl)
theorem major_wordC (maj : BitVec 6) (f : FmtC) : majorOf (wordC maj f) = maj := by
  apply BitVec.eq_of_getLsbD_eq; intro i hi
  interval_cases i <;> simp only [majorOf, bits_wordC, BitVec.getLsbD_append, BitVec.getLsbD_extractLsb'] <;> rfl
theorem bits_wordS20 (maj : BitVec 6) (f : FmtS) (sel : BitVec 4) (i : Nat) : (wordS20 maj f sel).getLsbD i =
    (one f.c ++ one f.w ++ maj ++ f.d ++ f.a ++ f.arg ++ sel).getLsbD i := rfl
theorem fields_wordS20 (maj : BitVec 6) (f : FmtS) (sel : BitVec 4) : fieldsS20 (wordS20 maj f sel) = f := by
  cases f
  simp only [fieldsS20, bit, FmtS.mk.injEq]
  refine ⟨?_, ?_, ?_, ?_, ?_⟩
  all_goals first
    | (simp only [bits_wordS20, BitVec.getLsbD_append]; simp [one])
    | (apply BitVec.eq_of_getLsbD_eq; intro i hi; interval_cases i <;>
        simp only [bits_wordS20, BitVec.getLsbD_append, BitVec.getLsbD_extractLsb'] <;> rfl)
theorem major_wordS20 (maj : BitVec 6) (f : FmtS) (sel : BitVec 4) : majorOf (wordS20 maj f sel) = maj := by
  apply BitVec.eq_of_getLsbD_eq; intro i hi
  interval_cases i <;> simp only [majorOf, bits_wordS20, BitVec.getLsbD_append, BitVec.getLsbD_extractLsb'] <;> rfl
theorem sel_wordS20 (maj : BitVec 6) (f : FmtS) (sel : BitVec 4) : (wordS20 maj f sel).extractLsb' 0 4 = sel := by
  apply BitVec.eq_of_getLsbD_eq; intro i hi
  interval_cases i <;> simp only [bits_wordS20, BitVec.getLsbD_append, BitVec.getLsbD_extractLsb'] <;> rfl
theorem bits_wordS3F (maj : BitVec 6) (f : FmtS) (sel : BitVec 4) (i : Nat) : (wordS3F maj f sel).getLsbD i =
    (one f.c ++ one f.w ++ maj ++ f.d ++ f.a ++ sel ++ f.arg).getLsbD i := rfl
theorem fields_wordS3F (maj : BitVec 6) (f : FmtS) (sel : BitVec 4) : fieldsS3F (wordS3F maj f sel) = f := by
  cases f
  simp only [fieldsS3F, bit, FmtS.mk.injEq]
  refine ⟨?_, ?_, ?_, ?_, ?_⟩
  all_goals first
    | (simp only [bits_wordS3F, BitVec.getLsbD_append]; simp [one])
    | (apply BitVec.eq_of_getLsbD_eq; intro i hi; interval_cases i <;>
        simp only [bits_wordS3F, BitVec.getLsbD_append, BitVec.getLsbD_extractLsb'] <;> rfl)
theorem major_wordS3F (maj : BitVec 6) (f : FmtS) (sel : BitVec 4) : majorOf (wordS3F maj f sel) = maj := by
  apply BitVec.eq_of_getLsbD_eq; intro i hi
  interval_cases i <;> simp only [majorOf, bits_wordS3F, BitVec.getLsbD_append, BitVec.getLsbD_extractLsb'] <;> rfl
theorem sel_wordS3F (maj : BitVec 6) (f : FmtS) (sel : BitVec 4) : (wordS3F maj f sel).extractLsb' 8 4 = sel := by
  apply BitVec.eq_of_getLsbD_eq; intro i hi
  interval_cases i <;> simp only [bits_wordS3F, BitVec.getLsbD_append, BitVec.getLsbD_extractLsb'] <;> rfl
theorem bits_wordS3FA (maj : BitVec 6) (f : FmtSA) (sel : BitVec 4) (arg : Bool) (i : Nat) : (wordS3FA maj f sel arg).getLsbD i =
    (one f.c ++ one f.w ++ maj ++ f.d ++ f.a ++ sel ++ f.z ++ one arg).getLsbD i := rfl
theorem fields_wordS3FA (maj : BitVec 6) (f : FmtSA) (sel : BitVec 4) (arg : Bool) : fieldsS3FA (wordS3FA maj f sel arg) = f := by
  cases f
  simp only [fieldsS3FA, bit, FmtSA.mk.injEq]
  refine ⟨?_, ?_, ?_, ?_, ?_⟩
  all_goals first
    | (simp only [bits_wordS3FA, BitVec.getLsbD_append]; simp [one])
    | (apply BitVec.eq_of_getLsbD_eq; intro i hi; interval_cases i <;>
        simp only [bits_wordS3FA, BitVec.getLsbD_append, BitVec.getLsbD_extractLsb'] <;> rfl)
theorem major_wordS3FA (maj : BitVec 6) (f : FmtSA) (sel : BitVec 4) (arg : Bool) : majorOf (wordS3FA maj f sel arg) = maj := by
  apply BitVec.eq_of_getLsbD_eq; intro i hi
  interval_cases i <;> simp only [majorOf, bits_wordS3FA, BitVec.getLsbD_append, BitVec.getLsbD_extractLsb'] <;> rfl
theorem arg_wordS3FA (maj : BitVec 6) (f : FmtSA) (sel : BitVec 4) (arg : Bool) : bit (wordS3FA maj f sel arg) 0 = arg := by
  simp only [bit, bits_wordS3FA, BitVec.getLsbD_append]; simp [one]
theorem sel_wordS3FA (maj : BitVec 6) (f : FmtSA) (sel : BitVec 4) (arg : Bool) : (wordS3FA maj f sel arg).extractLsb' 8 4 = sel := by
  apply BitVec.eq_of_getLsbD_eq; intro i hi
  interval_cases i <;> simp only [bits_wordS3FA, BitVec.getLsbD_append, BitVec.getLsbD_extractLsb'] <;> rfl
theorem bits_wordQ (maj : BitVec 6) (f : FmtQ) (sel : BitVec 2) (i : Nat) : (wordQ maj f sel).getLsbD i =
    (one f.c ++ one f.w ++ maj ++ f.d ++ f.a ++ sel ++ f.ch ++ f.n).getLsbD i := rfl
theorem fields_wordQ (maj : BitVec 6) (f : FmtQ) (sel : BitVec 2) : fieldsQ (wordQ maj f sel) = f := by
  cases f
  simp only [fieldsQ, bit, FmtQ.mk.injEq]
  refine ⟨?_, ?_, ?_, ?_, ?_, ?_⟩
  all_goals first
    | (simp only [bits_wordQ, BitVec.getLsbD_append]; simp [one])
    | (apply BitVec.eq_of_getLsbD_eq; intro i hi; interval_cases i <;>
        simp only [bits_wordQ, BitVec.getLsbD_append, BitVec.getLsbD_extractLsb'] <;> rfl)
theorem major_wordQ (maj : BitVec 6) (f : FmtQ) (sel : BitVec 2) : majorOf (wordQ maj f sel) = maj := by
  apply BitVec.eq_of_getLsbD_eq; intro i hi
  interval_cases i <;> simp only [majorOf, bits_wordQ, BitVec.getLsbD_append, BitVec.getLsbD_extractLsb'] <;> rfl
theorem sel_wordQ (maj : BitVec 6) (f : FmtQ) (sel : BitVec 2) : (wordQ maj f sel).extractLsb' 10 2 = sel := by
  apply BitVec.eq_of_getLsbD_eq; intro i hi
  interval_cases i <;> simp only [bits_wordQ, BitVec.getLsbD_append, BitVec.getLsbD_extractLsb'] <;> rfl
theorem low3_wordR (maj : BitVec 6) (f : FmtR) (e : BitVec 3) :
    (wordR maj f ((1 : BitVec 1) ++ e)).extractLsb' 0 3 = e := by
  apply BitVec.eq_of_getLsbD_eq; intro i hi
  interval_cases i <;> simp only [bits_wordR, BitVec.getLsbD_append, BitVec.getLsbD_extractLsb'] <;> rfl
theorem bit3_wordR (maj : BitVec 6) (f : FmtR) (e : BitVec 3) : bit (wordR maj f ((1 : BitVec 1) ++ e)) 3 = true := by
  simp only [bit, bits_wordR, BitVec.getLsbD_append]; simp
theorem plain3_wordR (maj : BitVec 6) (f : FmtR) (sel : BitVec 4) : bit (wordR maj f sel) 3 = sel.getLsbD 3 := by
  simp only [bit, bits_wordR, BitVec.getLsbD_append]; simp
theorem plainLow3_wordR (maj : BitVec 6) (f : FmtR) (sel : BitVec 4) :
    (wordR maj f sel).extractLsb' 0 3 = sel.extractLsb' 0 3 := by
  apply BitVec.eq_of_getLsbD_eq; intro i hi
  interval_cases i <;> simp only [bits_wordR, BitVec.getLsbD_append, BitVec.getLsbD_extractLsb'] <;> rfl
theorem level_wordT (maj : BitVec 6) (f : FmtT) (lv : BitVec 2) :
    (wordT maj f ((0 : BitVec 3) ++ lv ++ (0 : BitVec 1))).extractLsb' 1 2 = lv := by
  apply BitVec.eq_of_getLsbD_eq; intro i hi
  interval_cases i <;> simp only [bits_wordT, BitVec.getLsbD_append, BitVec.getLsbD_extractLsb'] <;> rfl

theorem raw00 (w : Word) (h : majorOf w = 0) : decodeRaw w = decode00 w := by simp [decodeRaw, h]
theorem raw01 (w : Word) (h : majorOf w = 1) : decodeRaw w = decode01 w := by simp [decodeRaw, h]
theorem raw02 (w : Word) (h : majorOf w = 2) : decodeRaw w = decode02 w := by simp [decodeRaw, h]
theorem raw03 (w : Word) (h : majorOf w = 3) : decodeRaw w = decode03 w := by simp [decodeRaw, h]
theorem raw04 (w : Word) (h : majorOf w = 4) : decodeRaw w = decode04 w := by simp [decodeRaw, h]
theorem raw05 (w : Word) (h : majorOf w = 5) : decodeRaw w = decode05 w := by simp [decodeRaw, h]
theorem raw06 (w : Word) (h : majorOf w = 6) : decodeRaw w = decode06 w := by simp [decodeRaw, h]
theorem raw07 (w : Word) (h : majorOf w = 7) : decodeRaw w = decode07 w := by simp [decodeRaw, h]
theorem raw08 (w : Word) (h : majorOf w = 8) : decodeRaw w = decode08 w := by simp [decodeRaw, h]
theorem raw10 (w : Word) (h : majorOf w = 16) : decodeRaw w = decode10 w := by simp [decodeRaw, h]
theorem raw11 (w : Word) (h : majorOf w = 17) : decodeRaw w = decode11 w := by simp [decodeRaw, h]
theorem raw12 (w : Word) (h : majorOf w = 18) : decodeRaw w = decode12 w := by simp [decodeRaw, h]
theorem raw13 (w : Word) (h : majorOf w = 19) : decodeRaw w = decode13 w := by simp [decodeRaw, h]
theorem raw14 (w : Word) (h : majorOf w = 20) : decodeRaw w = decode14 w := by simp [decodeRaw, h]
theorem raw15 (w : Word) (h : majorOf w = 21) : decodeRaw w = decode15 w := by simp [decodeRaw, h]
theorem raw16 (w : Word) (h : majorOf w = 22) : decodeRaw w = decode16 w := by simp [decodeRaw, h]
theorem raw17 (w : Word) (h : majorOf w = 23) : decodeRaw w = decode17 w := by simp [decodeRaw, h]
theorem raw18 (w : Word) (h : majorOf w = 24) : decodeRaw w = decode18 w := by simp [decodeRaw, h]
theorem raw19 (w : Word) (h : majorOf w = 25) : decodeRaw w = decode19 w := by simp [decodeRaw, h]
theorem raw1A (w : Word) (h : majorOf w = 26) : decodeRaw w = decode1A w := by simp [decodeRaw, h]
theorem raw1B (w : Word) (h : majorOf w = 27) : decodeRaw w = decode1B w := by simp [decodeRaw, h]
theorem raw1C (w : Word) (h : majorOf w = 28) : decodeRaw w = decode1C w := by simp [decodeRaw, h]
theorem raw1D (w : Word) (h : majorOf w = 29) : decodeRaw w = decode1D w := by simp [decodeRaw, h]
theorem raw1E (w : Word) (h : majorOf w = 30) : decodeRaw w = decode1E w := by simp [decodeRaw, h]
theorem raw1F (w : Word) (h : majorOf w = 31) : decodeRaw w = decode1F w := by simp [decodeRaw, h]
theorem raw20 (w : Word) (h : majorOf w = 32) : decodeRaw w = decode20 w := by simp [decodeRaw, h]
theorem raw21 (w : Word) (h : majorOf w = 33) : decodeRaw w = decode21 w := by simp [decodeRaw, h]
theorem raw22 (w : Word) (h : majorOf w = 34) : decodeRaw w = decode22 w := by simp [decodeRaw, h]
theorem raw23 (w : Word) (h : majorOf w = 35) : decodeRaw w = decode23 w := by simp [decodeRaw, h]
theorem raw24 (w : Word) (h : majorOf w = 36) : decodeRaw w = decode24 w := by simp [decodeRaw, h]
theorem raw25 (w : Word) (h : majorOf w = 37) : decodeRaw w = decode25 w := by simp [decodeRaw, h]
theorem raw26 (w : Word) (h : majorOf w = 38) : decodeRaw w = decode26 w := by simp [decodeRaw, h]
theorem raw27 (w : Word) (h : majorOf w = 39) : decodeRaw w = decode27 w := by simp [decodeRaw, h]
theorem raw28 (w : Word) (h : majorOf w = 40) : decodeRaw w = decode28 w := by simp [decodeRaw, h]
theorem raw29 (w : Word) (h : majorOf w = 41) : decodeRaw w = decode29 w := by simp [decodeRaw, h]
theorem raw2A (w : Word) (h : majorOf w = 42) : decodeRaw w = decode2A w := by simp [decodeRaw, h]
theorem raw2B (w : Word) (h : majorOf w = 43) : decodeRaw w = decode2B w := by simp [decodeRaw, h]
theorem raw2C (w : Word) (h : majorOf w = 44) : decodeRaw w = decode2C w := by simp [decodeRaw, h]
theorem raw2D (w : Word) (h : majorOf w = 45) : decodeRaw w = decode2D w := by simp [decodeRaw, h]
theorem raw2E (w : Word) (h : majorOf w = 46) : decodeRaw w = decode2E w := by simp [decodeRaw, h]
theorem raw2F (w : Word) (h : majorOf w = 47) : decodeRaw w = decode2F w := by simp [decodeRaw, h]
theorem raw30 (w : Word) (h : majorOf w = 48) : decodeRaw w = decode30 w := by simp [decodeRaw, h]
theorem raw31 (w : Word) (h : majorOf w = 49) : decodeRaw w = decode31 w := by simp [decodeRaw, h]
theorem raw32 (w : Word) (h : majorOf w = 50) : decodeRaw w = decode32 w := by simp [decodeRaw, h]
theorem raw33 (w : Word) (h : majorOf w = 51) : decodeRaw w = decode33 w := by simp [decodeRaw, h]
theorem raw34 (w : Word) (h : majorOf w = 52) : decodeRaw w = decode34 w := by simp [decodeRaw, h]
theorem raw35 (w : Word) (h : majorOf w = 53) : decodeRaw w = decode35 w := by simp [decodeRaw, h]
theorem raw36 (w : Word) (h : majorOf w = 54) : decodeRaw w = decode36 w := by simp [decodeRaw, h]
theorem raw37 (w : Word) (h : majorOf w = 55) : decodeRaw w = decode37 w := by simp [decodeRaw, h]
theorem raw38 (w : Word) (h : majorOf w = 56) : decodeRaw w = decode38 w := by simp [decodeRaw, h]
theorem raw39 (w : Word) (h : majorOf w = 57) : decodeRaw w = decode39 w := by simp [decodeRaw, h]
theorem raw3A (w : Word) (h : majorOf w = 58) : decodeRaw w = decode3A w := by simp [decodeRaw, h]
theorem raw3B (w : Word) (h : majorOf w = 59) : decodeRaw w = decode3B w := by simp [decodeRaw, h]
theorem raw3C (w : Word) (h : majorOf w = 60) : decodeRaw w = decode3C w := by simp [decodeRaw, h]
theorem raw3D (w : Word) (h : majorOf w = 61) : decodeRaw w = decode3D w := by simp [decodeRaw, h]
theorem raw3E (w : Word) (h : majorOf w = 62) : decodeRaw w = decode3E w := by simp [decodeRaw, h]
theorem raw3F (w : Word) (h : majorOf w = 63) : decodeRaw w = decode3F w := by simp [decodeRaw, h]

/-- A word whose raw decoding is a well-formed instruction decodes to it. -/
theorem decodeWord_of_raw {w : Word} {i : Instr} (h : decodeRaw w = .ok i) (hw : i.wf = true) : decodeWord w = .ok i := by
  have : i.check = none := by simpa [Instr.wf] using hw
  simp [decodeWord, h, this]
/-- A word that the sepal table reads as a well-formed instruction, whose encoding it is, decodes to it. -/
theorem decodeSepal_of_raw {w : Word} {i : Instr} (h : sepalRaw w = some i) (hw : i.wf = true) (he : i.encode = [w]) :
    decodeSepal w = some i := by
  simp [decodeSepal, h, hw, he]

theorem bits_sepalA (op : BitVec 6) (d a b : BitVec 4) (i : Nat) : (sepalA op d a b).getLsbD i =
    (op ++ d ++ a ++ (0 : BitVec 1) ++ b ++ (0 : BitVec 13)).getLsbD i := rfl
theorem bits_sepalAI (op : BitVec 6) (d a : BitVec 4) (imm : BitVec 17) (i : Nat) : (sepalAI op d a imm).getLsbD i =
    (op ++ d ++ a ++ (1 : BitVec 1) ++ imm).getLsbD i := rfl
theorem bits_sepalL (op : BitVec 6) (d : BitVec 4) (imm : BitVec 16) (i : Nat) : (sepalL op d imm).getLsbD i =
    (op ++ d ++ (0 : BitVec 6) ++ imm).getLsbD i := rfl
theorem bits_sepalH (op : BitVec 6) (d a f : BitVec 4) (i : Nat) : (sepalH op d a f).getLsbD i =
    (op ++ d ++ a ++ f ++ (0 : BitVec 14)).getLsbD i := rfl
theorem bits_sepalM (op : BitVec 6) (y a b : BitVec 4) (off : BitVec 14) (i : Nat) : (sepalM op y a b off).getLsbD i =
    (op ++ y ++ a ++ b ++ off).getLsbD i := rfl
theorem bits_sepalV (op : BitVec 6) (d a b : BitVec 3) (ty : BitVec 2) (i : Nat) : (sepalV op d a b ty).getLsbD i =
    (op ++ d ++ a ++ b ++ ty ++ (0 : BitVec 15)).getLsbD i := rfl

end Sys2Proof
end

