-- ==== Sys2Proof/Laws/PerInstr.lean ====
section
/-! SUPPORT. Statements for all instructions, one lemma for each constructor of Instr. -/
namespace Sys2Proof.Laws.RoundTrip
set_option Elab.async false
set_option linter.all false

/-- Decoding the word of a well-formed instruction gives the instruction back, with every operand: a core word by the decoder
of R242-R244, a sepal word by that of R434. An event has no word. -/
def Statement (i : Instr) : Prop := ∀ w ∈ i.encode, i.wf = true → decodeWord w = .ok i ∨ decodeSepal w = some i

/-- A well-formed instruction passes order 2 of R244. -/
theorem func_of_wf {i : Instr} (h : i.wf = true) : i.form.func = true := by
  cases hf : i.form.func with
  | true => rfl
  | false => simp [Instr.wf, Instr.check, Form.check, hf] at h
/-- A core word. -/
theorem core {i : Instr} {w : Word} (he : i.encode = [w]) (h : decodeRaw w = .ok i) : Statement i := by
  intro v hv hw
  rw [he, List.mem_singleton] at hv
  subst hv
  exact .inl (decodeWord_of_raw h hw)
/-- A sepal word. -/
theorem sepal {i : Instr} {w : Word} (he : i.encode = [w]) (h : sepalRaw w = some i) : Statement i := by
  intro v hv hw
  rw [he, List.mem_singleton] at hv
  subst hv
  exact .inr (decodeSepal_of_raw h hw he)
/-- No word. -/
theorem event {i : Instr} (he : i.encode = []) : Statement i := by
  intro v hv
  rw [he] at hv
  simp at hv

theorem sraw1 (w : Word) (h : w.extractLsb' 26 6 = 1) : sepalRaw w =
    (if bit w 17 then some (.sepalAddImm (w.extractLsb' 22 4) (w.extractLsb' 18 4) (w.extractLsb' 0 17)) else some (.sepalAdd (w.extractLsb' 22 4) (w.extractLsb' 18 4) (w.extractLsb' 13 4))) := by simp [sepalRaw, h]
theorem sraw2 (w : Word) (h : w.extractLsb' 26 6 = 2) : sepalRaw w =
    (if bit w 17 then some (.sepalSubImm (w.extractLsb' 22 4) (w.extractLsb' 18 4) (w.extractLsb' 0 17)) else some (.sepalSub (w.extractLsb' 22 4) (w.extractLsb' 18 4) (w.extractLsb' 13 4))) := by simp [sepalRaw, h]
theorem sraw3 (w : Word) (h : w.extractLsb' 26 6 = 3) : sepalRaw w =
    (if bit w 17 then some (.sepalAndImm (w.extractLsb' 22 4) (w.extractLsb' 18 4) (w.extractLsb' 0 17)) else some (.sepalAnd (w.extractLsb' 22 4) (w.extractLsb' 18 4) (w.extractLsb' 13 4))) := by simp [sepalRaw, h]
theorem sraw4 (w : Word) (h : w.extractLsb' 26 6 = 4) : sepalRaw w =
    (if bit w 17 then some (.sepalOrImm (w.extractLsb' 22 4) (w.extractLsb' 18 4) (w.extractLsb' 0 17)) else some (.sepalOr (w.extractLsb' 22 4) (w.extractLsb' 18 4) (w.extractLsb' 13 4))) := by simp [sepalRaw, h]
theorem sraw5 (w : Word) (h : w.extractLsb' 26 6 = 5) : sepalRaw w =
    (if bit w 17 then some (.sepalXorImm (w.extractLsb' 22 4) (w.extractLsb' 18 4) (w.extractLsb' 0 17)) else some (.sepalXor (w.extractLsb' 22 4) (w.extractLsb' 18 4) (w.extractLsb' 13 4))) := by simp [sepalRaw, h]
theorem sraw6 (w : Word) (h : w.extractLsb' 26 6 = 6) : sepalRaw w =
    (if bit w 17 then some (.sepalShlImm (w.extractLsb' 22 4) (w.extractLsb' 18 4) (w.extractLsb' 0 17)) else some (.sepalShl (w.extractLsb' 22 4) (w.extractLsb' 18 4) (w.extractLsb' 13 4))) := by simp [sepalRaw, h]
theorem sraw7 (w : Word) (h : w.extractLsb' 26 6 = 7) : sepalRaw w =
    (if bit w 17 then some (.sepalShrImm (w.extractLsb' 22 4) (w.extractLsb' 18 4) (w.extractLsb' 0 17)) else some (.sepalShr (w.extractLsb' 22 4) (w.extractLsb' 18 4) (w.extractLsb' 13 4))) := by simp [sepalRaw, h]
theorem sraw8 (w : Word) (h : w.extractLsb' 26 6 = 8) : sepalRaw w =
    (if bit w 17 then some (.sepalMinImm (w.extractLsb' 22 4) (w.extractLsb' 18 4) (w.extractLsb' 0 17)) else some (.sepalMin (w.extractLsb' 22 4) (w.extractLsb' 18 4) (w.extractLsb' 13 4))) := by simp [sepalRaw, h]
theorem sraw9 (w : Word) (h : w.extractLsb' 26 6 = 9) : sepalRaw w =
    (if bit w 17 then some (.sepalMaxImm (w.extractLsb' 22 4) (w.extractLsb' 18 4) (w.extractLsb' 0 17)) else some (.sepalMax (w.extractLsb' 22 4) (w.extractLsb' 18 4) (w.extractLsb' 13 4))) := by simp [sepalRaw, h]
theorem sraw10 (w : Word) (h : w.extractLsb' 26 6 = 10) : sepalRaw w =
    (some (.sepalMovi (w.extractLsb' 22 4) (w.extractLsb' 0 16))) := by simp [sepalRaw, h]
theorem sraw11 (w : Word) (h : w.extractLsb' 26 6 = 11) : sepalRaw w =
    (some (.sepalMovh (w.extractLsb' 22 4) (w.extractLsb' 0 16))) := by simp [sepalRaw, h]
theorem sraw12 (w : Word) (h : w.extractLsb' 26 6 = 12) : sepalRaw w =
    (if bit w 16 then some (.sepalCmpImm (w.extractLsb' 24 2) (w.extractLsb' 21 3) (w.extractLsb' 17 4) (w.extractLsb' 0 16)) else some (.sepalCmp (w.extractLsb' 24 2) (w.extractLsb' 21 3) (w.extractLsb' 17 4) (w.extractLsb' 12 4))) := by simp [sepalRaw, h]
theorem sraw16 (w : Word) (h : w.extractLsb' 26 6 = 16) : sepalRaw w =
    (if bit w 24 then some (.sepalBrAlways (w.extractLsb' 0 12)) else some (.sepalBr (bit w 25) (w.extractLsb' 22 2) (w.extractLsb' 0 12))) := by simp [sepalRaw, h]
theorem sraw17 (w : Word) (h : w.extractLsb' 26 6 = 17) : sepalRaw w =
    (some (.sepalLoop (w.extractLsb' 16 10) (w.extractLsb' 0 12))) := by simp [sepalRaw, h]
theorem sraw18 (w : Word) (h : w.extractLsb' 26 6 = 18) : sepalRaw w =
    (some (.sepalDone)) := by simp [sepalRaw, h]
theorem sraw20 (w : Word) (h : w.extractLsb' 26 6 = 20) : sepalRaw w =
    (some (.sepalPhl (w.extractLsb' 22 4) (w.extractLsb' 14 4))) := by simp [sepalRaw, h]
theorem sraw21 (w : Word) (h : w.extractLsb' 26 6 = 21) : sepalRaw w =
    (some (.sepalPhs (w.extractLsb' 18 4) (w.extractLsb' 14 4))) := by simp [sepalRaw, h]
theorem sraw22 (w : Word) (h : w.extractLsb' 26 6 = 22) : sepalRaw w =
    (some (.sepalPkl (w.extractLsb' 22 4) (w.extractLsb' 18 4) (w.extractLsb' 0 14))) := by simp [sepalRaw, h]
theorem sraw23 (w : Word) (h : w.extractLsb' 26 6 = 23) : sepalRaw w =
    (some (.sepalPks (w.extractLsb' 18 4) (w.extractLsb' 14 4) (w.extractLsb' 0 14))) := by simp [sepalRaw, h]
theorem sraw24 (w : Word) (h : w.extractLsb' 26 6 = 24) : sepalRaw w =
    (some (.sepalFld (w.extractLsb' 22 4) (w.extractLsb' 18 4) (w.extractLsb' 0 14))) := by simp [sepalRaw, h]
theorem sraw25 (w : Word) (h : w.extractLsb' 26 6 = 25) : sepalRaw w =
    (some (.sepalFst (w.extractLsb' 18 4) (w.extractLsb' 14 4) (w.extractLsb' 0 14))) := by simp [sepalRaw, h]
theorem sraw26 (w : Word) (h : w.extractLsb' 26 6 = 26) : sepalRaw w =
    (some (.sepalFat (w.extractLsb' 22 4) (w.extractLsb' 18 4) (w.extractLsb' 14 4) (w.extractLsb' 0 14))) := by simp [sepalRaw, h]
theorem sraw32 (w : Word) (h : w.extractLsb' 26 6 = 32) : sepalRaw w =
    (some (.sepalVld (bit w 25) (w.extractLsb' 22 3) (w.extractLsb' 18 4) (w.extractLsb' 0 14))) := by simp [sepalRaw, h]
theorem sraw33 (w : Word) (h : w.extractLsb' 26 6 = 33) : sepalRaw w =
    (some (.sepalVst (bit w 25) (w.extractLsb' 22 3) (w.extractLsb' 18 4) (w.extractLsb' 14 4) (w.extractLsb' 0 14))) := by simp [sepalRaw, h]
theorem sraw34 (w : Word) (h : w.extractLsb' 26 6 = 34) : sepalRaw w =
    (some (.sepalVadd (w.extractLsb' 23 3) (w.extractLsb' 20 3) (w.extractLsb' 17 3) (w.extractLsb' 15 2))) := by simp [sepalRaw, h]
theorem sraw35 (w : Word) (h : w.extractLsb' 26 6 = 35) : sepalRaw w =
    (some (.sepalVmax (w.extractLsb' 23 3) (w.extractLsb' 20 3) (w.extractLsb' 17 3) (w.extractLsb' 15 2))) := by simp [sepalRaw, h]
theorem sraw36 (w : Word) (h : w.extractLsb' 26 6 = 36) : sepalRaw w =
    (some (.sepalVmin (w.extractLsb' 23 3) (w.extractLsb' 20 3) (w.extractLsb' 17 3) (w.extractLsb' 15 2))) := by simp [sepalRaw, h]
theorem sraw37 (w : Word) (h : w.extractLsb' 26 6 = 37) : sepalRaw w =
    (some (.sepalVred (w.extractLsb' 22 4) (w.extractLsb' 19 3) (w.extractLsb' 15 2))) := by simp [sepalRaw, h]
theorem sraw38 (w : Word) (h : w.extractLsb' 26 6 = 38) : sepalRaw w =
    (if bit w 16 then some (.sepalVcvtDn (w.extractLsb' 23 3) (w.extractLsb' 20 3) (w.extractLsb' 15 1)) else some (.sepalVcvtUp (w.extractLsb' 23 3) (w.extractLsb' 20 3) (w.extractLsb' 15 1))) := by simp [sepalRaw, h]
theorem sraw40 (w : Word) (h : w.extractLsb' 26 6 = 40) : sepalRaw w =
    (some (.sepalHash (w.extractLsb' 22 4) (w.extractLsb' 18 4) (w.extractLsb' 13 4))) := by simp [sepalRaw, h]
theorem sraw44 (w : Word) (h : w.extractLsb' 26 6 = 44) : sepalRaw w =
    (some (.sepalFwd (w.extractLsb' 18 4))) := by simp [sepalRaw, h]
theorem sraw45 (w : Word) (h : w.extractLsb' 26 6 = 45) : sepalRaw w =
    (some (.sepalDrop)) := by simp [sepalRaw, h]
theorem sraw46 (w : Word) (h : w.extractLsb' 26 6 = 46) : sepalRaw w =
    (some (.sepalMirr (w.extractLsb' 18 4))) := by simp [sepalRaw, h]
theorem sraw48 (w : Word) (h : w.extractLsb' 26 6 = 48) : sepalRaw w =
    (some (.sepalClk (w.extractLsb' 22 4))) := by simp [sepalRaw, h]
theorem sraw49 (w : Word) (h : w.extractLsb' 26 6 = 49) : sepalRaw w =
    (some (.sepalTrp (w.extractLsb' 0 8))) := by simp [sepalRaw, h]
theorem bits_nop (f : FmtN) (i : Nat) : BitVec.getLsbD (w := 32) (one f.c ++ one f.w ++ (0 : BitVec 30)) i =
    (one f.c ++ one f.w ++ (0 : BitVec 30)).getLsbD i := rfl
theorem nop (f : FmtN) : Statement (.nop f) := core rfl (by
  have hm : majorOf (one f.c ++ one f.w ++ (0 : BitVec 30)) = 0 := by
    apply BitVec.eq_of_getLsbD_eq; intro i hi
    interval_cases i <;> simp only [majorOf, bits_nop, BitVec.getLsbD_append, BitVec.getLsbD_extractLsb'] <;> rfl
  have hz : BitVec.extractLsb' (n := 32) 0 24 (one f.c ++ one f.w ++ (0 : BitVec 30)) = 0 := by
    apply BitVec.eq_of_getLsbD_eq; intro i hi
    interval_cases i <;> simp only [bits_nop, BitVec.getLsbD_append, BitVec.getLsbD_extractLsb'] <;> rfl
  rw [raw00 _ hm]
  unfold decode00
  rw [if_pos hz]
  cases f with
  | mk c w =>
    simp only [bit, bits_nop, BitVec.getLsbD_append, Decoded.ok.injEq, Instr.nop.injEq, FmtN.mk.injEq]
    constructor <;> simp [one])
theorem addB32 (f : FmtR) : Statement (.addB32 f) := core rfl (by
  rw [raw01 _ (major_wordR ..)]
  simp [decode01, fields_wordR, sel_wordR])
theorem subB32 (f : FmtR) : Statement (.subB32 f) := core rfl (by
  rw [raw01 _ (major_wordR ..)]
  simp [decode01, fields_wordR, sel_wordR])
theorem mulB32 (f : FmtR) : Statement (.mulB32 f) := core rfl (by
  rw [raw01 _ (major_wordR ..)]
  simp [decode01, fields_wordR, sel_wordR])
theorem mulhS32 (f : FmtR) : Statement (.mulhS32 f) := core rfl (by
  rw [raw01 _ (major_wordR ..)]
  simp [decode01, fields_wordR, sel_wordR])
theorem mulhN32 (f : FmtR) : Statement (.mulhN32 f) := core rfl (by
  rw [raw01 _ (major_wordR ..)]
  simp [decode01, fields_wordR, sel_wordR])
theorem minS32 (f : FmtR) : Statement (.minS32 f) := core rfl (by
  rw [raw01 _ (major_wordR ..)]
  simp [decode01, fields_wordR, sel_wordR])
theorem minN32 (f : FmtR) : Statement (.minN32 f) := core rfl (by
  rw [raw01 _ (major_wordR ..)]
  simp [decode01, fields_wordR, sel_wordR])
theorem maxS32 (f : FmtR) : Statement (.maxS32 f) := core rfl (by
  rw [raw01 _ (major_wordR ..)]
  simp [decode01, fields_wordR, sel_wordR])
theorem maxN32 (f : FmtR) : Statement (.maxN32 f) := core rfl (by
  rw [raw01 _ (major_wordR ..)]
  simp [decode01, fields_wordR, sel_wordR])
theorem absS32 (f : FmtR) : Statement (.absS32 f) := core rfl (by
  rw [raw01 _ (major_wordR ..)]
  simp [decode01, fields_wordR, sel_wordR])
theorem negS32 (f : FmtR) : Statement (.negS32 f) := core rfl (by
  rw [raw01 _ (major_wordR ..)]
  simp [decode01, fields_wordR, sel_wordR])
theorem madB32 (f : FmtR) : Statement (.madB32 f) := core rfl (by
  rw [raw01 _ (major_wordR ..)]
  simp [decode01, fields_wordR, sel_wordR])
theorem idp4S8 (f : FmtR) : Statement (.idp4S8 f) := core rfl (by
  rw [raw01 _ (major_wordR ..)]
  simp [decode01, fields_wordR, sel_wordR])
theorem idp4N8 (f : FmtR) : Statement (.idp4N8 f) := core rfl (by
  rw [raw01 _ (major_wordR ..)]
  simp [decode01, fields_wordR, sel_wordR])
theorem addB64 (f : FmtR) : Statement (.addB64 f) := core rfl (by
  rw [raw02 _ (major_wordR ..)]
  simp [decode02, fields_wordR, sel_wordR])
theorem subB64 (f : FmtR) : Statement (.subB64 f) := core rfl (by
  rw [raw02 _ (major_wordR ..)]
  simp [decode02, fields_wordR, sel_wordR])
theorem mulB64 (f : FmtR) : Statement (.mulB64 f) := core rfl (by
  rw [raw02 _ (major_wordR ..)]
  simp [decode02, fields_wordR, sel_wordR])
theorem mulhS64 (f : FmtR) : Statement (.mulhS64 f) := core rfl (by
  rw [raw02 _ (major_wordR ..)]
  simp [decode02, fields_wordR, sel_wordR])
theorem mulhN64 (f : FmtR) : Statement (.mulhN64 f) := core rfl (by
  rw [raw02 _ (major_wordR ..)]
  simp [decode02, fields_wordR, sel_wordR])
theorem minS64 (f : FmtR) : Statement (.minS64 f) := core rfl (by
  rw [raw02 _ (major_wordR ..)]
  simp [decode02, fields_wordR, sel_wordR])
theorem minN64 (f : FmtR) : Statement (.minN64 f) := core rfl (by
  rw [raw02 _ (major_wordR ..)]
  simp [decode02, fields_wordR, sel_wordR])
theorem maxS64 (f : FmtR) : Statement (.maxS64 f) := core rfl (by
  rw [raw02 _ (major_wordR ..)]
  simp [decode02, fields_wordR, sel_wordR])
theorem maxN64 (f : FmtR) : Statement (.maxN64 f) := core rfl (by
  rw [raw02 _ (major_wordR ..)]
  simp [decode02, fields_wordR, sel_wordR])
theorem absS64 (f : FmtR) : Statement (.absS64 f) := core rfl (by
  rw [raw02 _ (major_wordR ..)]
  simp [decode02, fields_wordR, sel_wordR])
theorem negS64 (f : FmtR) : Statement (.negS64 f) := core rfl (by
  rw [raw02 _ (major_wordR ..)]
  simp [decode02, fields_wordR, sel_wordR])
theorem madB64 (f : FmtR) : Statement (.madB64 f) := core rfl (by
  rw [raw02 _ (major_wordR ..)]
  simp [decode02, fields_wordR, sel_wordR])
theorem andB32 (f : FmtR) : Statement (.andB32 f) := core rfl (by
  rw [raw03 _ (major_wordR ..)]
  simp [decode03, fields_wordR, sel_wordR])
theorem orB32 (f : FmtR) : Statement (.orB32 f) := core rfl (by
  rw [raw03 _ (major_wordR ..)]
  simp [decode03, fields_wordR, sel_wordR])
theorem xorB32 (f : FmtR) : Statement (.xorB32 f) := core rfl (by
  rw [raw03 _ (major_wordR ..)]
  simp [decode03, fields_wordR, sel_wordR])
theorem andnB32 (f : FmtR) : Statement (.andnB32 f) := core rfl (by
  rw [raw03 _ (major_wordR ..)]
  simp [decode03, fields_wordR, sel_wordR])
theorem shlB32 (f : FmtR) : Statement (.shlB32 f) := core rfl (by
  rw [raw03 _ (major_wordR ..)]
  simp [decode03, fields_wordR, sel_wordR])
theorem shrB32 (f : FmtR) : Statement (.shrB32 f) := core rfl (by
  rw [raw03 _ (major_wordR ..)]
  simp [decode03, fields_wordR, sel_wordR])
theorem sarB32 (f : FmtR) : Statement (.sarB32 f) := core rfl (by
  rw [raw03 _ (major_wordR ..)]
  simp [decode03, fields_wordR, sel_wordR])
theorem rolB32 (f : FmtR) : Statement (.rolB32 f) := core rfl (by
  rw [raw03 _ (major_wordR ..)]
  simp [decode03, fields_wordR, sel_wordR])
theorem andB64 (f : FmtR) : Statement (.andB64 f) := core rfl (by
  rw [raw03 _ (major_wordR ..)]
  simp [decode03, fields_wordR, sel_wordR])
theorem orB64 (f : FmtR) : Statement (.orB64 f) := core rfl (by
  rw [raw03 _ (major_wordR ..)]
  simp [decode03, fields_wordR, sel_wordR])
theorem xorB64 (f : FmtR) : Statement (.xorB64 f) := core rfl (by
  rw [raw03 _ (major_wordR ..)]
  simp [decode03, fields_wordR, sel_wordR])
theorem andnB64 (f : FmtR) : Statement (.andnB64 f) := core rfl (by
  rw [raw03 _ (major_wordR ..)]
  simp [decode03, fields_wordR, sel_wordR])
theorem shlB64 (f : FmtR) : Statement (.shlB64 f) := core rfl (by
  rw [raw03 _ (major_wordR ..)]
  simp [decode03, fields_wordR, sel_wordR])
theorem shrB64 (f : FmtR) : Statement (.shrB64 f) := core rfl (by
  rw [raw03 _ (major_wordR ..)]
  simp [decode03, fields_wordR, sel_wordR])
theorem sarB64 (f : FmtR) : Statement (.sarB64 f) := core rfl (by
  rw [raw03 _ (major_wordR ..)]
  simp [decode03, fields_wordR, sel_wordR])
theorem rolB64 (f : FmtR) : Statement (.rolB64 f) := core rfl (by
  rw [raw03 _ (major_wordR ..)]
  simp [decode03, fields_wordR, sel_wordR])
theorem shli (f : FmtSh) : Statement (.shli f) := core rfl (by
  rw [raw15 _ (major_wordSh ..)]
  simp [decode15, fields_wordSh, sel_wordSh])
theorem shri (f : FmtSh) : Statement (.shri f) := core rfl (by
  rw [raw15 _ (major_wordSh ..)]
  simp [decode15, fields_wordSh, sel_wordSh])
theorem sari (f : FmtSh) : Statement (.sari f) := core rfl (by
  rw [raw15 _ (major_wordSh ..)]
  simp [decode15, fields_wordSh, sel_wordSh])
theorem roli (f : FmtSh) : Statement (.roli f) := core rfl (by
  rw [raw15 _ (major_wordSh ..)]
  simp [decode15, fields_wordSh, sel_wordSh])
theorem popcB32 (f : FmtR) : Statement (.popcB32 f) := core rfl (by
  rw [raw04 _ (major_wordR ..)]
  simp [decode04, fields_wordR, sel_wordR])
theorem clzB32 (f : FmtR) : Statement (.clzB32 f) := core rfl (by
  rw [raw04 _ (major_wordR ..)]
  simp [decode04, fields_wordR, sel_wordR])
theorem ctzB32 (f : FmtR) : Statement (.ctzB32 f) := core rfl (by
  rw [raw04 _ (major_wordR ..)]
  simp [decode04, fields_wordR, sel_wordR])
theorem brevB32 (f : FmtR) : Statement (.brevB32 f) := core rfl (by
  rw [raw04 _ (major_wordR ..)]
  simp [decode04, fields_wordR, sel_wordR])
theorem popcB64 (f : FmtR) : Statement (.popcB64 f) := core rfl (by
  rw [raw04 _ (major_wordR ..)]
  simp [decode04, fields_wordR, sel_wordR])
theorem clzB64 (f : FmtR) : Statement (.clzB64 f) := core rfl (by
  rw [raw04 _ (major_wordR ..)]
  simp [decode04, fields_wordR, sel_wordR])
theorem ctzB64 (f : FmtR) : Statement (.ctzB64 f) := core rfl (by
  rw [raw04 _ (major_wordR ..)]
  simp [decode04, fields_wordR, sel_wordR])
theorem brevB64 (f : FmtR) : Statement (.brevB64 f) := core rfl (by
  rw [raw04 _ (major_wordR ..)]
  simp [decode04, fields_wordR, sel_wordR])
theorem bfxN32 (f : FmtR) : Statement (.bfxN32 f) := core rfl (by
  rw [raw04 _ (major_wordR ..)]
  simp [decode04, fields_wordR, sel_wordR])
theorem bfxS32 (f : FmtR) : Statement (.bfxS32 f) := core rfl (by
  rw [raw04 _ (major_wordR ..)]
  simp [decode04, fields_wordR, sel_wordR])
theorem bfiB32 (f : FmtR) : Statement (.bfiB32 f) := core rfl (by
  rw [raw04 _ (major_wordR ..)]
  simp [decode04, fields_wordR, sel_wordR])
theorem bprmB32 (f : FmtR) : Statement (.bprmB32 f) := core rfl (by
  rw [raw04 _ (major_wordR ..)]
  simp [decode04, fields_wordR, sel_wordR])
theorem movB32 (f : FmtR) : Statement (.movB32 f) := core rfl (by
  rw [raw05 _ (major_wordR ..)]
  simp [decode05, fields_wordR, plain3_wordR, plainLow3_wordR])
theorem movB64 (f : FmtR) : Statement (.movB64 f) := core rfl (by
  rw [raw05 _ (major_wordR ..)]
  simp [decode05, fields_wordR, plain3_wordR, plainLow3_wordR])
theorem xloc (f : FmtR) : Statement (.xloc f) := core rfl (by
  rw [raw05 _ (major_wordR ..)]
  simp [decode05, fields_wordR, plain3_wordR, plainLow3_wordR])
theorem xidx (f : FmtR) : Statement (.xidx f) := core rfl (by
  rw [raw05 _ (major_wordR ..)]
  simp [decode05, fields_wordR, plain3_wordR, plainLow3_wordR])
theorem selB32 (f : FmtR) (e : BitVec 3) : Statement (.selB32 f e) := core rfl (by
  rw [raw05 _ (major_wordR ..)]
  unfold decode05
  rw [if_pos (bit3_wordR ..), fields_wordR, low3_wordR])
theorem cmp (f : FmtF) : Statement (.cmp f) := core rfl (by
  rw [raw06 _ (major_wordF ..)]
  simp [decode06, fields_wordF])
theorem fcmp (f : FmtF) : Statement (.fcmp f) := core rfl (by
  rw [raw07 _ (major_wordF ..)]
  simp [decode07, fields_wordF])
theorem fAnd (f : FmtR) : Statement (.fAnd f) := core rfl (by
  rw [raw08 _ (major_wordR ..)]
  simp [decode08, fields_wordR, sel_wordR])
theorem fOr (f : FmtR) : Statement (.fOr f) := core rfl (by
  rw [raw08 _ (major_wordR ..)]
  simp [decode08, fields_wordR, sel_wordR])
theorem fXor (f : FmtR) : Statement (.fXor f) := core rfl (by
  rw [raw08 _ (major_wordR ..)]
  simp [decode08, fields_wordR, sel_wordR])
theorem fNot (f : FmtR) : Statement (.fNot f) := core rfl (by
  rw [raw08 _ (major_wordR ..)]
  simp [decode08, fields_wordR, sel_wordR])
theorem fSet (f : FmtR) : Statement (.fSet f) := core rfl (by
  rw [raw08 _ (major_wordR ..)]
  simp [decode08, fields_wordR, sel_wordR])
theorem fGet (f : FmtR) : Statement (.fGet f) := core rfl (by
  rw [raw08 _ (major_wordR ..)]
  simp [decode08, fields_wordR, sel_wordR])
theorem addiB32 (f : FmtI) : Statement (.addiB32 f) := core rfl (by
  rw [raw10 _ (major_wordI ..)]
  simp [decode10, fields_wordI])
theorem addiB64 (f : FmtI) : Statement (.addiB64 f) := core rfl (by
  rw [raw11 _ (major_wordI ..)]
  simp [decode11, fields_wordI])
theorem andi (f : FmtI) : Statement (.andi f) := core rfl (by
  rw [raw12 _ (major_wordI ..)]
  simp [decode12, fields_wordI])
theorem ori (f : FmtI) : Statement (.ori f) := core rfl (by
  rw [raw13 _ (major_wordI ..)]
  simp [decode13, fields_wordI])
theorem xori (f : FmtI) : Statement (.xori f) := core rfl (by
  rw [raw14 _ (major_wordI ..)]
  simp [decode14, fields_wordI])
theorem cmpi (f : FmtI) : Statement (.cmpi f) := core rfl (by
  rw [raw16 _ (major_wordI ..)]
  simp [decode16, fields_wordI])
theorem moviN (f : FmtL) : Statement (.moviN f) := core rfl (by
  rw [raw17 _ (major_wordL ..)]
  simp [decode17, fields_wordL, sel_wordL])
theorem moviS (f : FmtL) : Statement (.moviS f) := core rfl (by
  rw [raw17 _ (major_wordL ..)]
  simp [decode17, fields_wordL, sel_wordL])
theorem movh (f : FmtL) : Statement (.movh f) := core rfl (by
  rw [raw17 _ (major_wordL ..)]
  simp [decode17, fields_wordL, sel_wordL])
theorem addh (f : FmtL) : Statement (.addh f) := core rfl (by
  rw [raw17 _ (major_wordL ..)]
  simp [decode17, fields_wordL, sel_wordL])
theorem mand (f : FmtK) : Statement (.mand f) := core rfl (by
  rw [raw18 _ (major_wordK ..)]
  simp [decode18, fields_wordK, sel_wordK])
theorem mor (f : FmtK) : Statement (.mor f) := core rfl (by
  rw [raw18 _ (major_wordK ..)]
  simp [decode18, fields_wordK, sel_wordK])
theorem mxor (f : FmtK) : Statement (.mxor f) := core rfl (by
  rw [raw18 _ (major_wordK ..)]
  simp [decode18, fields_wordK, sel_wordK])
theorem mandn (f : FmtK) : Statement (.mandn f) := core rfl (by
  rw [raw18 _ (major_wordK ..)]
  simp [decode18, fields_wordK, sel_wordK])
theorem mmov (f : FmtK) : Statement (.mmov f) := core rfl (by
  rw [raw18 _ (major_wordK ..)]
  simp [decode18, fields_wordK, sel_wordK])
theorem msetg (f : FmtK) : Statement (.msetg f) := core rfl (by
  rw [raw18 _ (major_wordK ..)]
  simp [decode18, fields_wordK, sel_wordK])
theorem mgetg (f : FmtK) : Statement (.mgetg f) := core rfl (by
  rw [raw18 _ (major_wordK ..)]
  simp [decode18, fields_wordK, sel_wordK])
theorem mself (f : FmtK) : Statement (.mself f) := core rfl (by
  rw [raw18 _ (major_wordK ..)]
  simp [decode18, fields_wordK, sel_wordK])
theorem mclr (f : FmtK) : Statement (.mclr f) := core rfl (by
  rw [raw18 _ (major_wordK ..)]
  simp [decode18, fields_wordK, sel_wordK])
theorem mall (f : FmtK) : Statement (.mall f) := core rfl (by
  rw [raw18 _ (major_wordK ..)]
  simp [decode18, fields_wordK, sel_wordK])
theorem ballot (f : FmtK) : Statement (.ballot f) := core rfl (by
  rw [raw19 _ (major_wordK ..)]
  simp [decode19, fields_wordK, sel_wordK])
theorem popcm (f : FmtK) : Statement (.popcm f) := core rfl (by
  rw [raw19 _ (major_wordK ..)]
  simp [decode19, fields_wordK, sel_wordK])
theorem rankm (f : FmtK) : Statement (.rankm f) := core rfl (by
  rw [raw19 _ (major_wordK ..)]
  simp [decode19, fields_wordK, sel_wordK])
theorem join (f : FmtK) : Statement (.join f) := core rfl (by
  rw [raw19 _ (major_wordK ..)]
  simp [decode19, fields_wordK, sel_wordK])
theorem leave (f : FmtK) : Statement (.leave f) := core rfl (by
  rw [raw19 _ (major_wordK ..)]
  simp [decode19, fields_wordK, sel_wordK])
theorem waitk (f : FmtK) : Statement (.waitk f) := core rfl (by
  rw [raw19 _ (major_wordK ..)]
  simp [decode19, fields_wordK, sel_wordK])
theorem shfl (f : FmtR) (k : BitVec 4) : Statement (.shfl f k) := core rfl (by
  rw [raw1A _ (major_wordR ..)]
  simp [decode1A, fields_wordR, sel_wordR])
theorem shflx (f : FmtR) (k : BitVec 4) : Statement (.shflx f k) := core rfl (by
  rw [raw1B _ (major_wordR ..)]
  simp [decode1B, fields_wordR, sel_wordR])
theorem redm (f : FmtR) (k : BitVec 4) : Statement (.redm f k) := core rfl (by
  rw [raw1C _ (major_wordR ..)]
  simp [decode1C, fields_wordR, sel_wordR])
theorem scanm (f : FmtR) (k : BitVec 4) : Statement (.scanm f k) := core rfl (by
  rw [raw1D _ (major_wordR ..)]
  simp [decode1D, fields_wordR, sel_wordR])
theorem mrgrk (f : FmtR) (k : BitVec 4) : Statement (.mrgrk f k) := core rfl (by
  rw [raw1E _ (major_wordR ..)]
  simp [decode1E, fields_wordR, sel_wordR])
theorem bra (f : FmtJ) : Statement (.bra f) := core rfl (by
  rw [raw1F _ (major_wordJ ..)]
  simp [decode1F, fields_wordJ, sel_wordJ])
theorem call (f : FmtJ) : Statement (.call f) := core rfl (by
  rw [raw1F _ (major_wordJ ..)]
  simp [decode1F, fields_wordJ, sel_wordJ])
theorem jmpr (f : FmtS) : Statement (.jmpr f) := core rfl (by
  rw [raw20 _ (major_wordS20 ..)]
  simp [decode20, fields_wordS20, sel_wordS20])
theorem callr (f : FmtS) : Statement (.callr f) := core rfl (by
  rw [raw20 _ (major_wordS20 ..)]
  simp [decode20, fields_wordS20, sel_wordS20])
theorem ret (f : FmtS) : Statement (.ret f) := core rfl (by
  rw [raw20 _ (major_wordS20 ..)]
  simp [decode20, fields_wordS20, sel_wordS20])
theorem region (f : FmtS) : Statement (.region f) := core rfl (by
  rw [raw20 _ (major_wordS20 ..)]
  simp [decode20, fields_wordS20, sel_wordS20])
theorem tail (f : FmtS) : Statement (.tail f) := core rfl (by
  rw [raw20 _ (major_wordS20 ..)]
  simp [decode20, fields_wordS20, sel_wordS20])
theorem exit (f : FmtS) : Statement (.exit f) := core rfl (by
  rw [raw20 _ (major_wordS20 ..)]
  simp [decode20, fields_wordS20, sel_wordS20])
theorem xsucc (f : FmtS) : Statement (.xsucc f) := core rfl (by
  rw [raw20 _ (major_wordS20 ..)]
  simp [decode20, fields_wordS20, sel_wordS20])
theorem trig (f : FmtS) : Statement (.trig f) := core rfl (by
  rw [raw20 _ (major_wordS20 ..)]
  simp [decode20, fields_wordS20, sel_wordS20])
theorem yield (f : FmtS) : Statement (.yield f) := core rfl (by
  rw [raw20 _ (major_wordS20 ..)]
  simp [decode20, fields_wordS20, sel_wordS20])
theorem yieldExpire (t : ThreadRef) : Statement (.yieldExpire t) := event rfl
theorem ld (f : FmtM) : Statement (.ld f) := core rfl (by
  rw [raw21 _ (major_wordM ..)]
  simp [decode21, fields_wordM])
theorem st (f : FmtM) : Statement (.st f) := core rfl (by
  rw [raw22 _ (major_wordM ..)]
  simp [decode22, fields_wordM])
theorem lds (f : FmtM) : Statement (.lds f) := core rfl (by
  rw [raw23 _ (major_wordM ..)]
  simp [decode23, fields_wordM])
theorem sts (f : FmtM) : Statement (.sts f) := core rfl (by
  rw [raw24 _ (major_wordM ..)]
  simp [decode24, fields_wordM])
theorem pref (f : FmtM) : Statement (.pref f) := core rfl (by
  rw [raw26 _ (major_wordM ..)]
  simp [decode26, fields_wordM])
theorem ldq (f : FmtQ) : Statement (.ldq f) := core rfl (by
  rw [raw25 _ (major_wordQ ..)]
  simp [decode25, fields_wordQ, sel_wordQ])
theorem stq (f : FmtQ) : Statement (.stq f) := core rfl (by
  rw [raw25 _ (major_wordQ ..)]
  simp [decode25, fields_wordQ, sel_wordQ])
theorem wprd (f : FmtQ) : Statement (.wprd f) := core rfl (by
  rw [raw25 _ (major_wordQ ..)]
  simp [decode25, fields_wordQ, sel_wordQ])
theorem channelOverflow (lseq : Nat) (ch : Nat) : Statement (.channelOverflow lseq ch) := event rfl
theorem atomAddB32 (f : FmtA) : Statement (.atomAddB32 f) := core rfl (by
  rw [raw27 _ (major_wordA ..)]
  simp [decode27, fields_wordA, sel_wordA])
theorem atomMinS32 (f : FmtA) : Statement (.atomMinS32 f) := core rfl (by
  rw [raw27 _ (major_wordA ..)]
  simp [decode27, fields_wordA, sel_wordA])
theorem atomMinN32 (f : FmtA) : Statement (.atomMinN32 f) := core rfl (by
  rw [raw27 _ (major_wordA ..)]
  simp [decode27, fields_wordA, sel_wordA])
theorem atomMaxS32 (f : FmtA) : Statement (.atomMaxS32 f) := core rfl (by
  rw [raw27 _ (major_wordA ..)]
  simp [decode27, fields_wordA, sel_wordA])
theorem atomMaxN32 (f : FmtA) : Statement (.atomMaxN32 f) := core rfl (by
  rw [raw27 _ (major_wordA ..)]
  simp [decode27, fields_wordA, sel_wordA])
theorem atomAndB32 (f : FmtA) : Statement (.atomAndB32 f) := core rfl (by
  rw [raw27 _ (major_wordA ..)]
  simp [decode27, fields_wordA, sel_wordA])
theorem atomOrB32 (f : FmtA) : Statement (.atomOrB32 f) := core rfl (by
  rw [raw27 _ (major_wordA ..)]
  simp [decode27, fields_wordA, sel_wordA])
theorem atomXorB32 (f : FmtA) : Statement (.atomXorB32 f) := core rfl (by
  rw [raw27 _ (major_wordA ..)]
  simp [decode27, fields_wordA, sel_wordA])
theorem atomExchB32 (f : FmtA) : Statement (.atomExchB32 f) := core rfl (by
  rw [raw27 _ (major_wordA ..)]
  simp [decode27, fields_wordA, sel_wordA])
theorem atomCasB32 (f : FmtA) : Statement (.atomCasB32 f) := core rfl (by
  rw [raw27 _ (major_wordA ..)]
  simp [decode27, fields_wordA, sel_wordA])
theorem atomFaddF32 (f : FmtA) : Statement (.atomFaddF32 f) := core rfl (by
  rw [raw27 _ (major_wordA ..)]
  simp [decode27, fields_wordA, sel_wordA])
theorem atomAddB64 (f : FmtA) : Statement (.atomAddB64 f) := core rfl (by
  rw [raw28 _ (major_wordA ..)]
  simp [decode28, fields_wordA, sel_wordA])
theorem atomMinS64 (f : FmtA) : Statement (.atomMinS64 f) := core rfl (by
  rw [raw28 _ (major_wordA ..)]
  simp [decode28, fields_wordA, sel_wordA])
theorem atomMinN64 (f : FmtA) : Statement (.atomMinN64 f) := core rfl (by
  rw [raw28 _ (major_wordA ..)]
  simp [decode28, fields_wordA, sel_wordA])
theorem atomMaxS64 (f : FmtA) : Statement (.atomMaxS64 f) := core rfl (by
  rw [raw28 _ (major_wordA ..)]
  simp [decode28, fields_wordA, sel_wordA])
theorem atomMaxN64 (f : FmtA) : Statement (.atomMaxN64 f) := core rfl (by
  rw [raw28 _ (major_wordA ..)]
  simp [decode28, fields_wordA, sel_wordA])
theorem atomAndB64 (f : FmtA) : Statement (.atomAndB64 f) := core rfl (by
  rw [raw28 _ (major_wordA ..)]
  simp [decode28, fields_wordA, sel_wordA])
theorem atomOrB64 (f : FmtA) : Statement (.atomOrB64 f) := core rfl (by
  rw [raw28 _ (major_wordA ..)]
  simp [decode28, fields_wordA, sel_wordA])
theorem atomXorB64 (f : FmtA) : Statement (.atomXorB64 f) := core rfl (by
  rw [raw28 _ (major_wordA ..)]
  simp [decode28, fields_wordA, sel_wordA])
theorem atomExchB64 (f : FmtA) : Statement (.atomExchB64 f) := core rfl (by
  rw [raw28 _ (major_wordA ..)]
  simp [decode28, fields_wordA, sel_wordA])
theorem atomCasB64 (f : FmtA) : Statement (.atomCasB64 f) := core rfl (by
  rw [raw28 _ (major_wordA ..)]
  simp [decode28, fields_wordA, sel_wordA])
theorem atomFaddF64 (f : FmtA) : Statement (.atomFaddF64 f) := core rfl (by
  rw [raw28 _ (major_wordA ..)]
  simp [decode28, fields_wordA, sel_wordA])
theorem atomsAddB32 (f : FmtA) : Statement (.atomsAddB32 f) := core rfl (by
  rw [raw2A _ (major_wordA ..)]
  simp [decode2A, fields_wordA, sel_wordA])
theorem atomsMinS32 (f : FmtA) : Statement (.atomsMinS32 f) := core rfl (by
  rw [raw2A _ (major_wordA ..)]
  simp [decode2A, fields_wordA, sel_wordA])
theorem atomsMinN32 (f : FmtA) : Statement (.atomsMinN32 f) := core rfl (by
  rw [raw2A _ (major_wordA ..)]
  simp [decode2A, fields_wordA, sel_wordA])
theorem atomsMaxS32 (f : FmtA) : Statement (.atomsMaxS32 f) := core rfl (by
  rw [raw2A _ (major_wordA ..)]
  simp [decode2A, fields_wordA, sel_wordA])
theorem atomsMaxN32 (f : FmtA) : Statement (.atomsMaxN32 f) := core rfl (by
  rw [raw2A _ (major_wordA ..)]
  simp [decode2A, fields_wordA, sel_wordA])
theorem atomsAndB32 (f : FmtA) : Statement (.atomsAndB32 f) := core rfl (by
  rw [raw2A _ (major_wordA ..)]
  simp [decode2A, fields_wordA, sel_wordA])
theorem atomsOrB32 (f : FmtA) : Statement (.atomsOrB32 f) := core rfl (by
  rw [raw2A _ (major_wordA ..)]
  simp [decode2A, fields_wordA, sel_wordA])
theorem atomsXorB32 (f : FmtA) : Statement (.atomsXorB32 f) := core rfl (by
  rw [raw2A _ (major_wordA ..)]
  simp [decode2A, fields_wordA, sel_wordA])
theorem atomsExchB32 (f : FmtA) : Statement (.atomsExchB32 f) := core rfl (by
  rw [raw2A _ (major_wordA ..)]
  simp [decode2A, fields_wordA, sel_wordA])
theorem atomsCasB32 (f : FmtA) : Statement (.atomsCasB32 f) := core rfl (by
  rw [raw2A _ (major_wordA ..)]
  simp [decode2A, fields_wordA, sel_wordA])
theorem atomsFaddF32 (f : FmtA) : Statement (.atomsFaddF32 f) := core rfl (by
  rw [raw2A _ (major_wordA ..)]
  simp [decode2A, fields_wordA, sel_wordA])
theorem redAdd (f : FmtA) : Statement (.redAdd f) := core rfl (by
  rw [raw29 _ (major_wordA ..)]
  simp [decode29, fields_wordA, sel_wordA])
theorem redMinS (f : FmtA) : Statement (.redMinS f) := core rfl (by
  rw [raw29 _ (major_wordA ..)]
  simp [decode29, fields_wordA, sel_wordA])
theorem redMinN (f : FmtA) : Statement (.redMinN f) := core rfl (by
  rw [raw29 _ (major_wordA ..)]
  simp [decode29, fields_wordA, sel_wordA])
theorem redMaxS (f : FmtA) : Statement (.redMaxS f) := core rfl (by
  rw [raw29 _ (major_wordA ..)]
  simp [decode29, fields_wordA, sel_wordA])
theorem redMaxN (f : FmtA) : Statement (.redMaxN f) := core rfl (by
  rw [raw29 _ (major_wordA ..)]
  simp [decode29, fields_wordA, sel_wordA])
theorem redAnd (f : FmtA) : Statement (.redAnd f) := core rfl (by
  rw [raw29 _ (major_wordA ..)]
  simp [decode29, fields_wordA, sel_wordA])
theorem redOr (f : FmtA) : Statement (.redOr f) := core rfl (by
  rw [raw29 _ (major_wordA ..)]
  simp [decode29, fields_wordA, sel_wordA])
theorem redXor (f : FmtA) : Statement (.redXor f) := core rfl (by
  rw [raw29 _ (major_wordA ..)]
  simp [decode29, fields_wordA, sel_wordA])
theorem redFaddF32 (f : FmtA) : Statement (.redFaddF32 f) := core rfl (by
  rw [raw29 _ (major_wordA ..)]
  simp [decode29, fields_wordA, sel_wordA])
theorem redFaddF64 (f : FmtA) : Statement (.redFaddF64 f) := core rfl (by
  rw [raw29 _ (major_wordA ..)]
  simp [decode29, fields_wordA, sel_wordA])
theorem redFaddBf2 (f : FmtA) : Statement (.redFaddBf2 f) := core rfl (by
  rw [raw29 _ (major_wordA ..)]
  simp [decode29, fields_wordA, sel_wordA])
theorem redsAddB32 (f : FmtA) : Statement (.redsAddB32 f) := core rfl (by
  rw [raw2B _ (major_wordA ..)]
  simp [decode2B, fields_wordA, sel_wordA])
theorem redsMinS32 (f : FmtA) : Statement (.redsMinS32 f) := core rfl (by
  rw [raw2B _ (major_wordA ..)]
  simp [decode2B, fields_wordA, sel_wordA])
theorem redsMinN32 (f : FmtA) : Statement (.redsMinN32 f) := core rfl (by
  rw [raw2B _ (major_wordA ..)]
  simp [decode2B, fields_wordA, sel_wordA])
theorem redsMaxS32 (f : FmtA) : Statement (.redsMaxS32 f) := core rfl (by
  rw [raw2B _ (major_wordA ..)]
  simp [decode2B, fields_wordA, sel_wordA])
theorem redsMaxN32 (f : FmtA) : Statement (.redsMaxN32 f) := core rfl (by
  rw [raw2B _ (major_wordA ..)]
  simp [decode2B, fields_wordA, sel_wordA])
theorem redsAndB32 (f : FmtA) : Statement (.redsAndB32 f) := core rfl (by
  rw [raw2B _ (major_wordA ..)]
  simp [decode2B, fields_wordA, sel_wordA])
theorem redsOrB32 (f : FmtA) : Statement (.redsOrB32 f) := core rfl (by
  rw [raw2B _ (major_wordA ..)]
  simp [decode2B, fields_wordA, sel_wordA])
theorem redsXorB32 (f : FmtA) : Statement (.redsXorB32 f) := core rfl (by
  rw [raw2B _ (major_wordA ..)]
  simp [decode2B, fields_wordA, sel_wordA])
theorem redsFaddF32 (f : FmtA) : Statement (.redsFaddF32 f) := core rfl (by
  rw [raw2B _ (major_wordA ..)]
  simp [decode2B, fields_wordA, sel_wordA])
theorem redsFaddBf2 (f : FmtA) : Statement (.redsFaddBf2 f) := core rfl (by
  rw [raw2B _ (major_wordA ..)]
  simp [decode2B, fields_wordA, sel_wordA])
theorem mwaitEq (f : FmtA) : Statement (.mwaitEq f) := core rfl (by
  rw [raw2C _ (major_wordA ..)]
  simp [decode2C, fields_wordA, sel_wordA])
theorem mwaitNe (f : FmtA) : Statement (.mwaitNe f) := core rfl (by
  rw [raw2C _ (major_wordA ..)]
  simp [decode2C, fields_wordA, sel_wordA])
theorem mwaitRecheck (t : ThreadRef) : Statement (.mwaitRecheck t) := event rfl
theorem stcmp (f : FmtAK) : Statement (.stcmp f) := core rfl (by
  rw [raw2D _ (major_wordAK ..)]
  simp [decode2D, fields_wordAK, sel_wordAK])
theorem ldexp (f : FmtAK) : Statement (.ldexp f) := core rfl (by
  rw [raw2D _ (major_wordAK ..)]
  simp [decode2D, fields_wordAK, sel_wordAK])
theorem ldtB16 (f : FmtT) : Statement (.ldtB16 f) := core rfl (by
  rw [raw2E _ (major_wordT ..)]
  simp [decode2E, fields_wordT, sel_wordT])
theorem ldtB32 (f : FmtT) : Statement (.ldtB32 f) := core rfl (by
  rw [raw2E _ (major_wordT ..)]
  simp [decode2E, fields_wordT, sel_wordT])
theorem ldtB64 (f : FmtT) : Statement (.ldtB64 f) := core rfl (by
  rw [raw2E _ (major_wordT ..)]
  simp [decode2E, fields_wordT, sel_wordT])
theorem sttB16 (f : FmtT) : Statement (.sttB16 f) := core rfl (by
  rw [raw2E _ (major_wordT ..)]
  simp [decode2E, fields_wordT, sel_wordT])
theorem sttB32 (f : FmtT) : Statement (.sttB32 f) := core rfl (by
  rw [raw2E _ (major_wordT ..)]
  simp [decode2E, fields_wordT, sel_wordT])
theorem sttB64 (f : FmtT) : Statement (.sttB64 f) := core rfl (by
  rw [raw2E _ (major_wordT ..)]
  simp [decode2E, fields_wordT, sel_wordT])
theorem binit (f : FmtT) : Statement (.binit f) := core rfl (by
  rw [raw2F _ (major_wordT ..)]
  simp [decode2F, fields_wordT, sel_wordT])
theorem barr (f : FmtT) : Statement (.barr f) := core rfl (by
  rw [raw2F _ (major_wordT ..)]
  simp [decode2F, fields_wordT, sel_wordT])
theorem bdrop (f : FmtT) : Statement (.bdrop f) := core rfl (by
  rw [raw2F _ (major_wordT ..)]
  simp [decode2F, fields_wordT, sel_wordT])
theorem bwait (f : FmtT) : Statement (.bwait f) := core rfl (by
  rw [raw2F _ (major_wordT ..)]
  simp [decode2F, fields_wordT, sel_wordT])
theorem bexp (f : FmtT) : Statement (.bexp f) := core rfl (by
  rw [raw2F _ (major_wordT ..)]
  simp [decode2F, fields_wordT, sel_wordT])
theorem btest (f : FmtT) : Statement (.btest f) := core rfl (by
  rw [raw2F _ (major_wordT ..)]
  simp [decode2F, fields_wordT, sel_wordT])
theorem lkacq (f : FmtTL) : Statement (.lkacq f) := core rfl (by
  rw [raw30 _ (major_wordTL ..)]
  simp [decode30, fields_wordTL, sel_wordTL])
theorem lkupg (f : FmtTL) : Statement (.lkupg f) := core rfl (by
  rw [raw30 _ (major_wordTL ..)]
  simp [decode30, fields_wordTL, sel_wordTL])
theorem lkrel (f : FmtT) (lv : BitVec 2) : Statement (.lkrel f lv) := by
  intro v hv hw
  simp only [Instr.encode, List.mem_singleton] at hv
  subst hv
  left
  have hlv : decide (lv < 3) = true := func_of_wf hw
  have h3 : ∀ x : BitVec 2, decide (x < 3) = true → x = 0 ∨ x = 1 ∨ x = 2 := by decide
  refine decodeWord_of_raw ?_ hw
  rw [raw31 _ (major_wordT ..)]
  unfold decode31
  rw [sel_wordT, level_wordT, fields_wordT]
  rcases h3 lv hlv with h | h | h <;> subst h <;> rfl
theorem lkrall (f : FmtT) : Statement (.lkrall f) := core rfl (by
  rw [raw31 _ (major_wordT ..)]
  simp [decode31, fields_wordT, sel_wordT])
theorem lkchk (f : FmtT) : Statement (.lkchk f) := core rfl (by
  rw [raw31 _ (major_wordT ..)]
  simp [decode31, fields_wordT, sel_wordT])
theorem lkrallComplete (task : Nat) : Statement (.lkrallComplete task) := event rfl
theorem graceExpired (task : Nat) : Statement (.graceExpired task) := event rfl
theorem rrot (f : FmtT) : Statement (.rrot f) := core rfl (by
  rw [raw32 _ (major_wordT ..)]
  simp [decode32, fields_wordT, sel_wordT])
theorem rrotStart (lseq : Nat) (bed : Nat) : Statement (.rrotStart lseq bed) := event rfl
theorem rrotArrive (op : Nat) : Statement (.rrotArrive op) := event rfl
theorem faddF32 (f : FmtR) : Statement (.faddF32 f) := core rfl (by
  rw [raw33 _ (major_wordR ..)]
  simp [decode33, fields_wordR, sel_wordR])
theorem fsubF32 (f : FmtR) : Statement (.fsubF32 f) := core rfl (by
  rw [raw33 _ (major_wordR ..)]
  simp [decode33, fields_wordR, sel_wordR])
theorem fmulF32 (f : FmtR) : Statement (.fmulF32 f) := core rfl (by
  rw [raw33 _ (major_wordR ..)]
  simp [decode33, fields_wordR, sel_wordR])
theorem ffmaF32 (f : FmtR) : Statement (.ffmaF32 f) := core rfl (by
  rw [raw33 _ (major_wordR ..)]
  simp [decode33, fields_wordR, sel_wordR])
theorem fminF32 (f : FmtR) : Statement (.fminF32 f) := core rfl (by
  rw [raw33 _ (major_wordR ..)]
  simp [decode33, fields_wordR, sel_wordR])
theorem fmaxF32 (f : FmtR) : Statement (.fmaxF32 f) := core rfl (by
  rw [raw33 _ (major_wordR ..)]
  simp [decode33, fields_wordR, sel_wordR])
theorem fabsF32 (f : FmtR) : Statement (.fabsF32 f) := core rfl (by
  rw [raw33 _ (major_wordR ..)]
  simp [decode33, fields_wordR, sel_wordR])
theorem fnegF32 (f : FmtR) : Statement (.fnegF32 f) := core rfl (by
  rw [raw33 _ (major_wordR ..)]
  simp [decode33, fields_wordR, sel_wordR])
theorem frndF32Rn (f : FmtR) : Statement (.frndF32Rn f) := core rfl (by
  rw [raw33 _ (major_wordR ..)]
  simp [decode33, fields_wordR, sel_wordR])
theorem frndF32Rz (f : FmtR) : Statement (.frndF32Rz f) := core rfl (by
  rw [raw33 _ (major_wordR ..)]
  simp [decode33, fields_wordR, sel_wordR])
theorem frndF32Ru (f : FmtR) : Statement (.frndF32Ru f) := core rfl (by
  rw [raw33 _ (major_wordR ..)]
  simp [decode33, fields_wordR, sel_wordR])
theorem frndF32Rd (f : FmtR) : Statement (.frndF32Rd f) := core rfl (by
  rw [raw33 _ (major_wordR ..)]
  simp [decode33, fields_wordR, sel_wordR])
theorem faddF64 (f : FmtR) : Statement (.faddF64 f) := core rfl (by
  rw [raw34 _ (major_wordR ..)]
  simp [decode34, fields_wordR, sel_wordR])
theorem fsubF64 (f : FmtR) : Statement (.fsubF64 f) := core rfl (by
  rw [raw34 _ (major_wordR ..)]
  simp [decode34, fields_wordR, sel_wordR])
theorem fmulF64 (f : FmtR) : Statement (.fmulF64 f) := core rfl (by
  rw [raw34 _ (major_wordR ..)]
  simp [decode34, fields_wordR, sel_wordR])
theorem ffmaF64 (f : FmtR) : Statement (.ffmaF64 f) := core rfl (by
  rw [raw34 _ (major_wordR ..)]
  simp [decode34, fields_wordR, sel_wordR])
theorem fminF64 (f : FmtR) : Statement (.fminF64 f) := core rfl (by
  rw [raw34 _ (major_wordR ..)]
  simp [decode34, fields_wordR, sel_wordR])
theorem fmaxF64 (f : FmtR) : Statement (.fmaxF64 f) := core rfl (by
  rw [raw34 _ (major_wordR ..)]
  simp [decode34, fields_wordR, sel_wordR])
theorem fabsF64 (f : FmtR) : Statement (.fabsF64 f) := core rfl (by
  rw [raw34 _ (major_wordR ..)]
  simp [decode34, fields_wordR, sel_wordR])
theorem fnegF64 (f : FmtR) : Statement (.fnegF64 f) := core rfl (by
  rw [raw34 _ (major_wordR ..)]
  simp [decode34, fields_wordR, sel_wordR])
theorem frndF64Rn (f : FmtR) : Statement (.frndF64Rn f) := core rfl (by
  rw [raw34 _ (major_wordR ..)]
  simp [decode34, fields_wordR, sel_wordR])
theorem frndF64Rz (f : FmtR) : Statement (.frndF64Rz f) := core rfl (by
  rw [raw34 _ (major_wordR ..)]
  simp [decode34, fields_wordR, sel_wordR])
theorem frndF64Ru (f : FmtR) : Statement (.frndF64Ru f) := core rfl (by
  rw [raw34 _ (major_wordR ..)]
  simp [decode34, fields_wordR, sel_wordR])
theorem frndF64Rd (f : FmtR) : Statement (.frndF64Rd f) := core rfl (by
  rw [raw34 _ (major_wordR ..)]
  simp [decode34, fields_wordR, sel_wordR])
theorem hadd2H (f : FmtR) : Statement (.hadd2H f) := core rfl (by
  rw [raw35 _ (major_wordR ..)]
  simp [decode35, fields_wordR, sel_wordR])
theorem hsub2H (f : FmtR) : Statement (.hsub2H f) := core rfl (by
  rw [raw35 _ (major_wordR ..)]
  simp [decode35, fields_wordR, sel_wordR])
theorem hmul2H (f : FmtR) : Statement (.hmul2H f) := core rfl (by
  rw [raw35 _ (major_wordR ..)]
  simp [decode35, fields_wordR, sel_wordR])
theorem hfma2H (f : FmtR) : Statement (.hfma2H f) := core rfl (by
  rw [raw35 _ (major_wordR ..)]
  simp [decode35, fields_wordR, sel_wordR])
theorem hmin2H (f : FmtR) : Statement (.hmin2H f) := core rfl (by
  rw [raw35 _ (major_wordR ..)]
  simp [decode35, fields_wordR, sel_wordR])
theorem hmax2H (f : FmtR) : Statement (.hmax2H f) := core rfl (by
  rw [raw35 _ (major_wordR ..)]
  simp [decode35, fields_wordR, sel_wordR])
theorem hadd2Bf (f : FmtR) : Statement (.hadd2Bf f) := core rfl (by
  rw [raw35 _ (major_wordR ..)]
  simp [decode35, fields_wordR, sel_wordR])
theorem hsub2Bf (f : FmtR) : Statement (.hsub2Bf f) := core rfl (by
  rw [raw35 _ (major_wordR ..)]
  simp [decode35, fields_wordR, sel_wordR])
theorem hmul2Bf (f : FmtR) : Statement (.hmul2Bf f) := core rfl (by
  rw [raw35 _ (major_wordR ..)]
  simp [decode35, fields_wordR, sel_wordR])
theorem hfma2Bf (f : FmtR) : Statement (.hfma2Bf f) := core rfl (by
  rw [raw35 _ (major_wordR ..)]
  simp [decode35, fields_wordR, sel_wordR])
theorem hmin2Bf (f : FmtR) : Statement (.hmin2Bf f) := core rfl (by
  rw [raw35 _ (major_wordR ..)]
  simp [decode35, fields_wordR, sel_wordR])
theorem hmax2Bf (f : FmtR) : Statement (.hmax2Bf f) := core rfl (by
  rw [raw35 _ (major_wordR ..)]
  simp [decode35, fields_wordR, sel_wordR])
theorem dot4E4 (f : FmtR) : Statement (.dot4E4 f) := core rfl (by
  rw [raw35 _ (major_wordR ..)]
  simp [decode35, fields_wordR, sel_wordR])
theorem dot4E5 (f : FmtR) : Statement (.dot4E5 f) := core rfl (by
  rw [raw35 _ (major_wordR ..)]
  simp [decode35, fields_wordR, sel_wordR])
theorem frcpF32 (f : FmtR) : Statement (.frcpF32 f) := core rfl (by
  rw [raw36 _ (major_wordR ..)]
  simp [decode36, fields_wordR, sel_wordR])
theorem frsqF32 (f : FmtR) : Statement (.frsqF32 f) := core rfl (by
  rw [raw36 _ (major_wordR ..)]
  simp [decode36, fields_wordR, sel_wordR])
theorem fsqrtF32 (f : FmtR) : Statement (.fsqrtF32 f) := core rfl (by
  rw [raw36 _ (major_wordR ..)]
  simp [decode36, fields_wordR, sel_wordR])
theorem fexp2F32 (f : FmtR) : Statement (.fexp2F32 f) := core rfl (by
  rw [raw36 _ (major_wordR ..)]
  simp [decode36, fields_wordR, sel_wordR])
theorem flog2F32 (f : FmtR) : Statement (.flog2F32 f) := core rfl (by
  rw [raw36 _ (major_wordR ..)]
  simp [decode36, fields_wordR, sel_wordR])
theorem fsinF32 (f : FmtR) : Statement (.fsinF32 f) := core rfl (by
  rw [raw36 _ (major_wordR ..)]
  simp [decode36, fields_wordR, sel_wordR])
theorem fcosF32 (f : FmtR) : Statement (.fcosF32 f) := core rfl (by
  rw [raw36 _ (major_wordR ..)]
  simp [decode36, fields_wordR, sel_wordR])
theorem fdivF32 (f : FmtR) : Statement (.fdivF32 f) := core rfl (by
  rw [raw36 _ (major_wordR ..)]
  simp [decode36, fields_wordR, sel_wordR])
theorem fsqrtF64 (f : FmtR) : Statement (.fsqrtF64 f) := core rfl (by
  rw [raw36 _ (major_wordR ..)]
  simp [decode36, fields_wordR, sel_wordR])
theorem fdivF64 (f : FmtR) : Statement (.fdivF64 f) := core rfl (by
  rw [raw36 _ (major_wordR ..)]
  simp [decode36, fields_wordR, sel_wordR])
theorem frcpF64 (f : FmtR) : Statement (.frcpF64 f) := core rfl (by
  rw [raw36 _ (major_wordR ..)]
  simp [decode36, fields_wordR, sel_wordR])
theorem fclassF32 (f : FmtR) : Statement (.fclassF32 f) := core rfl (by
  rw [raw36 _ (major_wordR ..)]
  simp [decode36, fields_wordR, sel_wordR])
theorem fclassF64 (f : FmtR) : Statement (.fclassF64 f) := core rfl (by
  rw [raw36 _ (major_wordR ..)]
  simp [decode36, fields_wordR, sel_wordR])
theorem cvt (f : FmtC) : Statement (.cvt f) := core rfl (by
  rw [raw37 _ (major_wordC ..)]
  simp [decode37, fields_wordC])
theorem blkAddB32 (f : FmtX) : Statement (.blkAddB32 f) := core rfl (by
  rw [raw38 _ (major_wordX ..)]
  simp [decode38, fields_wordX, sel_wordX])
theorem blkMovB32 (f : FmtX) : Statement (.blkMovB32 f) := core rfl (by
  rw [raw38 _ (major_wordX ..)]
  simp [decode38, fields_wordX, sel_wordX])
theorem blkAndB32 (f : FmtX) : Statement (.blkAndB32 f) := core rfl (by
  rw [raw38 _ (major_wordX ..)]
  simp [decode38, fields_wordX, sel_wordX])
theorem blkXorB32 (f : FmtX) : Statement (.blkXorB32 f) := core rfl (by
  rw [raw38 _ (major_wordX ..)]
  simp [decode38, fields_wordX, sel_wordX])
theorem blkFaddF32 (f : FmtX) : Statement (.blkFaddF32 f) := core rfl (by
  rw [raw39 _ (major_wordX ..)]
  simp [decode39, fields_wordX, sel_wordX])
theorem blkFmulF32 (f : FmtX) : Statement (.blkFmulF32 f) := core rfl (by
  rw [raw39 _ (major_wordX ..)]
  simp [decode39, fields_wordX, sel_wordX])
theorem blkFfmaF32 (f : FmtX) : Statement (.blkFfmaF32 f) := core rfl (by
  rw [raw39 _ (major_wordX ..)]
  simp [decode39, fields_wordX, sel_wordX])
theorem blkFmaxF32 (f : FmtX) : Statement (.blkFmaxF32 f) := core rfl (by
  rw [raw39 _ (major_wordX ..)]
  simp [decode39, fields_wordX, sel_wordX])
theorem blkHfma2H (f : FmtX) : Statement (.blkHfma2H f) := core rfl (by
  rw [raw3A _ (major_wordX ..)]
  simp [decode3A, fields_wordX, sel_wordX])
theorem blkHfma2Bf (f : FmtX) : Statement (.blkHfma2Bf f) := core rfl (by
  rw [raw3A _ (major_wordX ..)]
  simp [decode3A, fields_wordX, sel_wordX])
theorem blkFfmaF64 (f : FmtX) : Statement (.blkFfmaF64 f) := core rfl (by
  rw [raw3A _ (major_wordX ..)]
  simp [decode3A, fields_wordX, sel_wordX])
theorem mxcfg (f : FmtT) : Statement (.mxcfg f) := core rfl (by
  rw [raw3B _ (major_wordT ..)]
  simp [decode3B, fields_wordT, sel_wordT])
theorem mxlds (f : FmtT) : Statement (.mxlds f) := core rfl (by
  rw [raw3B _ (major_wordT ..)]
  simp [decode3B, fields_wordT, sel_wordT])
theorem mxswap (f : FmtT) : Statement (.mxswap f) := core rfl (by
  rw [raw3B _ (major_wordT ..)]
  simp [decode3B, fields_wordT, sel_wordT])
theorem mxmul (f : FmtT) : Statement (.mxmul f) := core rfl (by
  rw [raw3B _ (major_wordT ..)]
  simp [decode3B, fields_wordT, sel_wordT])
theorem mxst (f : FmtT) : Statement (.mxst f) := core rfl (by
  rw [raw3B _ (major_wordT ..)]
  simp [decode3B, fields_wordT, sel_wordT])
theorem mxzero (f : FmtT) : Statement (.mxzero f) := core rfl (by
  rw [raw3B _ (major_wordT ..)]
  simp [decode3B, fields_wordT, sel_wordT])
theorem mxgo (f : FmtT) : Statement (.mxgo f) := core rfl (by
  rw [raw3B _ (major_wordT ..)]
  simp [decode3B, fields_wordT, sel_wordT])
theorem mxstat (f : FmtT) : Statement (.mxstat f) := core rfl (by
  rw [raw3B _ (major_wordT ..)]
  simp [decode3B, fields_wordT, sel_wordT])
theorem mxgoStep (core : Nat) : Statement (.mxgoStep core) := event rfl
theorem tdef (f : FmtT) : Statement (.tdef f) := core rfl (by
  rw [raw3C _ (major_wordT ..)]
  simp [decode3C, fields_wordT, sel_wordT])
theorem trel (f : FmtT) : Statement (.trel f) := core rfl (by
  rw [raw3C _ (major_wordT ..)]
  simp [decode3C, fields_wordT, sel_wordT])
theorem tcopy (f : FmtT) : Statement (.tcopy f) := core rfl (by
  rw [raw3C _ (major_wordT ..)]
  simp [decode3C, fields_wordT, sel_wordT])
theorem remap (f : FmtT) : Statement (.remap f) := core rfl (by
  rw [raw3C _ (major_wordT ..)]
  simp [decode3C, fields_wordT, sel_wordT])
theorem remapStep (f : FmtT) : Statement (.remapStep f) := core rfl (by
  rw [raw3C _ (major_wordT ..)]
  simp [decode3C, fields_wordT, sel_wordT])
theorem tmerge (f : FmtT) : Statement (.tmerge f) := core rfl (by
  rw [raw3C _ (major_wordT ..)]
  simp [decode3C, fields_wordT, sel_wordT])
theorem txf (f : FmtT) : Statement (.txf f) := core rfl (by
  rw [raw3C _ (major_wordT ..)]
  simp [decode3C, fields_wordT, sel_wordT])
theorem tstat (f : FmtT) : Statement (.tstat f) := core rfl (by
  rw [raw3C _ (major_wordT ..)]
  simp [decode3C, fields_wordT, sel_wordT])
theorem tldtab (f : FmtT) : Statement (.tldtab f) := core rfl (by
  rw [raw3C _ (major_wordT ..)]
  simp [decode3C, fields_wordT, sel_wordT])
theorem engineChunk (op : Nat) : Statement (.engineChunk op) := event rfl
theorem remapPassEnd (lseq : Nat) (va : Nat) : Statement (.remapPassEnd lseq va) := event rfl
theorem rget (f : FmtT) : Statement (.rget f) := core rfl (by
  rw [raw3D _ (major_wordT ..)]
  simp [decode3D, fields_wordT, sel_wordT])
theorem rput (f : FmtT) : Statement (.rput f) := core rfl (by
  rw [raw3D _ (major_wordT ..)]
  simp [decode3D, fields_wordT, sel_wordT])
theorem tsend (f : FmtT) : Statement (.tsend f) := core rfl (by
  rw [raw3D _ (major_wordT ..)]
  simp [decode3D, fields_wordT, sel_wordT])
theorem tcnt (f : FmtT) : Statement (.tcnt f) := core rfl (by
  rw [raw3D _ (major_wordT ..)]
  simp [decode3D, fields_wordT, sel_wordT])
theorem rfence (f : FmtT) : Statement (.rfence f) := core rfl (by
  rw [raw3D _ (major_wordT ..)]
  simp [decode3D, fields_wordT, sel_wordT])
theorem carm (f : FmtT) : Statement (.carm f) := core rfl (by
  rw [raw3D _ (major_wordT ..)]
  simp [decode3D, fields_wordT, sel_wordT])
theorem skld (f : FmtT) : Statement (.skld f) := core rfl (by
  rw [raw3D _ (major_wordT ..)]
  simp [decode3D, fields_wordT, sel_wordT])
theorem skrel (f : FmtT) : Statement (.skrel f) := core rfl (by
  rw [raw3D _ (major_wordT ..)]
  simp [decode3D, fields_wordT, sel_wordT])
theorem skrelComplete (slot : Nat) : Statement (.skrelComplete slot) := event rfl
theorem ratomAddB64 (f : FmtA) : Statement (.ratomAddB64 f) := core rfl (by
  rw [raw3E _ (major_wordA ..)]
  simp [decode3E, fields_wordA, sel_wordA])
theorem ratomMinS64 (f : FmtA) : Statement (.ratomMinS64 f) := core rfl (by
  rw [raw3E _ (major_wordA ..)]
  simp [decode3E, fields_wordA, sel_wordA])
theorem ratomMinN64 (f : FmtA) : Statement (.ratomMinN64 f) := core rfl (by
  rw [raw3E _ (major_wordA ..)]
  simp [decode3E, fields_wordA, sel_wordA])
theorem ratomMaxS64 (f : FmtA) : Statement (.ratomMaxS64 f) := core rfl (by
  rw [raw3E _ (major_wordA ..)]
  simp [decode3E, fields_wordA, sel_wordA])
theorem ratomMaxN64 (f : FmtA) : Statement (.ratomMaxN64 f) := core rfl (by
  rw [raw3E _ (major_wordA ..)]
  simp [decode3E, fields_wordA, sel_wordA])
theorem ratomAndB64 (f : FmtA) : Statement (.ratomAndB64 f) := core rfl (by
  rw [raw3E _ (major_wordA ..)]
  simp [decode3E, fields_wordA, sel_wordA])
theorem ratomOrB64 (f : FmtA) : Statement (.ratomOrB64 f) := core rfl (by
  rw [raw3E _ (major_wordA ..)]
  simp [decode3E, fields_wordA, sel_wordA])
theorem ratomXorB64 (f : FmtA) : Statement (.ratomXorB64 f) := core rfl (by
  rw [raw3E _ (major_wordA ..)]
  simp [decode3E, fields_wordA, sel_wordA])
theorem ratomExchB64 (f : FmtA) : Statement (.ratomExchB64 f) := core rfl (by
  rw [raw3E _ (major_wordA ..)]
  simp [decode3E, fields_wordA, sel_wordA])
theorem ratomCasB64 (f : FmtA) : Statement (.ratomCasB64 f) := core rfl (by
  rw [raw3E _ (major_wordA ..)]
  simp [decode3E, fields_wordA, sel_wordA])
theorem ratomTimeout (t : ThreadRef) : Statement (.ratomTimeout t) := event rfl
theorem trap (f : FmtS) : Statement (.trap f) := core rfl (by
  rw [raw3F _ (major_wordS3F ..)]
  simp [decode3F, fields_wordS3F, sel_wordS3F])
theorem srd (f : FmtS) : Statement (.srd f) := core rfl (by
  rw [raw3F _ (major_wordS3F ..)]
  simp [decode3F, fields_wordS3F, sel_wordS3F])
theorem swr (f : FmtS) : Statement (.swr f) := core rfl (by
  rw [raw3F _ (major_wordS3F ..)]
  simp [decode3F, fields_wordS3F, sel_wordS3F])
theorem rteRestart (f : FmtSA) : Statement (.rteRestart f) := core rfl (by
  rw [raw3F _ (major_wordS3FA ..)]
  simp [decode3F, fields_wordS3FA, sel_wordS3FA, arg_wordS3FA])
theorem rteNext (f : FmtSA) : Statement (.rteNext f) := core rfl (by
  rw [raw3F _ (major_wordS3FA ..)]
  simp [decode3F, fields_wordS3FA, sel_wordS3FA, arg_wordS3FA])
theorem fltrd (f : FmtS) : Statement (.fltrd f) := core rfl (by
  rw [raw3F _ (major_wordS3F ..)]
  simp [decode3F, fields_wordS3F, sel_wordS3F])
theorem launch (f : FmtSA) : Statement (.launch f) := core rfl (by
  rw [raw3F _ (major_wordS3FA ..)]
  simp [decode3F, fields_wordS3FA, sel_wordS3FA, arg_wordS3FA])
theorem launchNb (f : FmtSA) : Statement (.launchNb f) := core rfl (by
  rw [raw3F _ (major_wordS3FA ..)]
  simp [decode3F, fields_wordS3FA, sel_wordS3FA, arg_wordS3FA])
theorem sigw (f : FmtS) : Statement (.sigw f) := core rfl (by
  rw [raw3F _ (major_wordS3F ..)]
  simp [decode3F, fields_wordS3F, sel_wordS3F])
theorem sigwRecheck (t : ThreadRef) : Statement (.sigwRecheck t) := event rfl
theorem bkpt (f : FmtS) : Statement (.bkpt f) := core rfl (by
  rw [raw3F _ (major_wordS3F ..)]
  simp [decode3F, fields_wordS3F, sel_wordS3F])
theorem deferredTrapEntry (t : ThreadRef) : Statement (.deferredTrapEntry t) := event rfl
theorem resume (func : Nat) (v : BitVec 64) : Statement (.resume func v) := event rfl
theorem pfqRecordRelease (func : Nat) : Statement (.pfqRecordRelease func) := event rfl
theorem resultReturn (t : ThreadRef) : Statement (.resultReturn t) := event rfl
theorem storeError (t : ThreadRef) (pc : BitVec 64) (va : BitVec 64) (sub : Nat) : Statement (.storeError t pc va sub) := event rfl
theorem threadEnd (t : ThreadRef) : Statement (.threadEnd t) := event rfl
theorem taskResourcesFree (task : Nat) : Statement (.taskResourcesFree task) := event rfl
theorem successorPlace (task : Nat) : Statement (.successorPlace task) := event rfl
theorem petalPowerGate (core : Nat) (petal : Nat) : Statement (.petalPowerGate core petal) := event rfl
theorem hangReport (core : Nat) (petal : Nat) : Statement (.hangReport core petal) := event rfl
theorem queueWrite (func : Nat) (q : Nat) (tail : BitVec 32) : Statement (.queueWrite func q tail) := event rfl
theorem launchCheck (q : Nat) (count : Nat) : Statement (.launchCheck q count) := event rfl
theorem dependenceRecheck (q : Nat) (count : Nat) : Statement (.dependenceRecheck q count) := event rfl
theorem dispatch : Statement .dispatch := event rfl
theorem taskAdmit (core : Nat) : Statement (.taskAdmit core) := event rfl
theorem stageRebalance (lseq : Nat) : Statement (.stageRebalance lseq) := event rfl
theorem stealRequest (core : Nat) : Statement (.stealRequest core) := event rfl
theorem preemptRequest (cores : List Nat) : Statement (.preemptRequest cores) := event rfl
theorem taskSave (task : Nat) : Statement (.taskSave task) := event rfl
theorem taskRestore (task : Nat) : Statement (.taskRestore task) := event rfl
theorem sectorRead (core : Nat) (pa : Nat) : Statement (.sectorRead core pa) := event rfl
theorem registration (core : Nat) : Statement (.registration core) := event rfl
theorem registrationAck (core : Nat) : Statement (.registrationAck core) := event rfl
theorem l1Eviction (core : Nat) (line : Nat) : Statement (.l1Eviction core line) := event rfl
theorem sliceEviction (die : Nat) (line : Nat) : Statement (.sliceEviction die line) := event rfl
theorem rds (die : Nat) (line : Nat) : Statement (.rds die line) := event rfl
theorem rdx (die : Nat) (line : Nat) : Statement (.rdx die line) := event rfl
theorem wb (die : Nat) (line : Nat) : Statement (.wb die line) := event rfl
theorem evc (die : Nat) (line : Nat) : Statement (.evc die line) := event rfl
theorem redu (die : Nat) (line : Nat) (op : RedOp) : Statement (.redu die line op) := event rfl
theorem redf (pa : Nat) (op : RedOp) (v : BitVec 64) : Statement (.redf pa op v) := event rfl
theorem wrn (pa : Nat) (bytes : List (BitVec 8)) : Statement (.wrn pa bytes) := event rfl
theorem spill (die : Nat) (core : Nat) (line : Nat) : Statement (.spill die core line) := event rfl
theorem placementEpoch (home : Nat) : Statement (.placementEpoch home) := event rfl
theorem migrationFinish (asid : Nat) (region : Nat) : Statement (.migrationFinish asid region) := event rfl
theorem migRewalk (t : ThreadRef) : Statement (.migRewalk t) := event rfl
theorem invalidationCommand (func : Nat) : Statement (.invalidationCommand func) := event rfl
theorem invalidationComplete (func : Nat) : Statement (.invalidationComplete func) := event rfl
theorem atsInvalidation (pasid : Nat) (page : Nat) : Statement (.atsInvalidation pasid page) := event rfl
theorem atsCompletion (pasid : Nat) (page : Nat) (frame : Option Nat) : Statement (.atsCompletion pasid page frame) := event rfl
theorem priResponse (pasid : Nat) (page : Nat) (ok : Bool) : Statement (.priResponse pasid page ok) := event rfl
theorem hostWrite (pa : Nat) (bytes : List (BitVec 8)) : Statement (.hostWrite pa bytes) := event rfl
theorem hostRead (pa : Nat) (len : Nat) : Statement (.hostRead pa len) := event rfl
theorem remoteRequest (p : Packet) : Statement (.remoteRequest p) := event rfl
theorem remoteResponse (r : Response) : Statement (.remoteResponse r) := event rfl
theorem collectiveReserve (lseq : Nat) : Statement (.collectiveReserve lseq) := event rfl
theorem sepalContextStart (sepal : Nat) : Statement (.sepalContextStart sepal) := event rfl
theorem sepalAdd (d : BitVec 4) (a : BitVec 4) (b : BitVec 4) : Statement (.sepalAdd d a b) := sepal rfl (by
  have ho : BitVec.extractLsb' (n := 32) 26 6 (sepalA 1 d a b) = 1 := by
    apply BitVec.eq_of_getLsbD_eq; intro i hi
    interval_cases i <;> simp only [bits_sepalA, BitVec.getLsbD_append, BitVec.getLsbD_extractLsb'] <;> rfl
  rw [sraw1 _ ho]
  have hb : bit (sepalA 1 d a b) 17 = false := by
    simp only [bit, bits_sepalA, BitVec.getLsbD_append]; rfl
  simp only [hb, if_true, if_false, Bool.false_eq_true]
  simp only [Option.some.injEq, Instr.sepalAdd.injEq]
  refine ⟨?_, ?_, ?_⟩
  all_goals first
    | (simp only [bit, bits_sepalA, BitVec.getLsbD_append]; simp [one]; done)
    | (apply BitVec.eq_of_getLsbD_eq; intro i hi; interval_cases i <;> simp only [bits_sepalA, BitVec.getLsbD_append, BitVec.getLsbD_extractLsb'] <;> rfl))
theorem sepalAddImm (d : BitVec 4) (a : BitVec 4) (imm : BitVec 17) : Statement (.sepalAddImm d a imm) := sepal rfl (by
  have ho : BitVec.extractLsb' (n := 32) 26 6 (sepalAI 1 d a imm) = 1 := by
    apply BitVec.eq_of_getLsbD_eq; intro i hi
    interval_cases i <;> simp only [bits_sepalAI, BitVec.getLsbD_append, BitVec.getLsbD_extractLsb'] <;> rfl
  rw [sraw1 _ ho]
  have hb : bit (sepalAI 1 d a imm) 17 = true := by
    simp only [bit, bits_sepalAI, BitVec.getLsbD_append]; rfl
  simp only [hb, if_true, if_false, Bool.false_eq_true]
  simp only [Option.some.injEq, Instr.sepalAddImm.injEq]
  refine ⟨?_, ?_, ?_⟩
  all_goals first
    | (simp only [bit, bits_sepalAI, BitVec.getLsbD_append]; simp [one]; done)
    | (apply BitVec.eq_of_getLsbD_eq; intro i hi; interval_cases i <;> simp only [bits_sepalAI, BitVec.getLsbD_append, BitVec.getLsbD_extractLsb'] <;> rfl))
theorem sepalSub (d : BitVec 4) (a : BitVec 4) (b : BitVec 4) : Statement (.sepalSub d a b) := sepal rfl (by
  have ho : BitVec.extractLsb' (n := 32) 26 6 (sepalA 2 d a b) = 2 := by
    apply BitVec.eq_of_getLsbD_eq; intro i hi
    interval_cases i <;> simp only [bits_sepalA, BitVec.getLsbD_append, BitVec.getLsbD_extractLsb'] <;> rfl
  rw [sraw2 _ ho]
  have hb : bit (sepalA 2 d a b) 17 = false := by
    simp only [bit, bits_sepalA, BitVec.getLsbD_append]; rfl
  simp only [hb, if_true, if_false, Bool.false_eq_true]
  simp only [Option.some.injEq, Instr.sepalSub.injEq]
  refine ⟨?_, ?_, ?_⟩
  all_goals first
    | (simp only [bit, bits_sepalA, BitVec.getLsbD_append]; simp [one]; done)
    | (apply BitVec.eq_of_getLsbD_eq; intro i hi; interval_cases i <;> simp only [bits_sepalA, BitVec.getLsbD_append, BitVec.getLsbD_extractLsb'] <;> rfl))
theorem sepalSubImm (d : BitVec 4) (a : BitVec 4) (imm : BitVec 17) : Statement (.sepalSubImm d a imm) := sepal rfl (by
  have ho : BitVec.extractLsb' (n := 32) 26 6 (sepalAI 2 d a imm) = 2 := by
    apply BitVec.eq_of_getLsbD_eq; intro i hi
    interval_cases i <;> simp only [bits_sepalAI, BitVec.getLsbD_append, BitVec.getLsbD_extractLsb'] <;> rfl
  rw [sraw2 _ ho]
  have hb : bit (sepalAI 2 d a imm) 17 = true := by
    simp only [bit, bits_sepalAI, BitVec.getLsbD_append]; rfl
  simp only [hb, if_true, if_false, Bool.false_eq_true]
  simp only [Option.some.injEq, Instr.sepalSubImm.injEq]
  refine ⟨?_, ?_, ?_⟩
  all_goals first
    | (simp only [bit, bits_sepalAI, BitVec.getLsbD_append]; simp [one]; done)
    | (apply BitVec.eq_of_getLsbD_eq; intro i hi; interval_cases i <;> simp only [bits_sepalAI, BitVec.getLsbD_append, BitVec.getLsbD_extractLsb'] <;> rfl))
theorem sepalAnd (d : BitVec 4) (a : BitVec 4) (b : BitVec 4) : Statement (.sepalAnd d a b) := sepal rfl (by
  have ho : BitVec.extractLsb' (n := 32) 26 6 (sepalA 3 d a b) = 3 := by
    apply BitVec.eq_of_getLsbD_eq; intro i hi
    interval_cases i <;> simp only [bits_sepalA, BitVec.getLsbD_append, BitVec.getLsbD_extractLsb'] <;> rfl
  rw [sraw3 _ ho]
  have hb : bit (sepalA 3 d a b) 17 = false := by
    simp only [bit, bits_sepalA, BitVec.getLsbD_append]; rfl
  simp only [hb, if_true, if_false, Bool.false_eq_true]
  simp only [Option.some.injEq, Instr.sepalAnd.injEq]
  refine ⟨?_, ?_, ?_⟩
  all_goals first
    | (simp only [bit, bits_sepalA, BitVec.getLsbD_append]; simp [one]; done)
    | (apply BitVec.eq_of_getLsbD_eq; intro i hi; interval_cases i <;> simp only [bits_sepalA, BitVec.getLsbD_append, BitVec.getLsbD_extractLsb'] <;> rfl))
theorem sepalAndImm (d : BitVec 4) (a : BitVec 4) (imm : BitVec 17) : Statement (.sepalAndImm d a imm) := sepal rfl (by
  have ho : BitVec.extractLsb' (n := 32) 26 6 (sepalAI 3 d a imm) = 3 := by
    apply BitVec.eq_of_getLsbD_eq; intro i hi
    interval_cases i <;> simp only [bits_sepalAI, BitVec.getLsbD_append, BitVec.getLsbD_extractLsb'] <;> rfl
  rw [sraw3 _ ho]
  have hb : bit (sepalAI 3 d a imm) 17 = true := by
    simp only [bit, bits_sepalAI, BitVec.getLsbD_append]; rfl
  simp only [hb, if_true, if_false, Bool.false_eq_true]
  simp only [Option.some.injEq, Instr.sepalAndImm.injEq]
  refine ⟨?_, ?_, ?_⟩
  all_goals first
    | (simp only [bit, bits_sepalAI, BitVec.getLsbD_append]; simp [one]; done)
    | (apply BitVec.eq_of_getLsbD_eq; intro i hi; interval_cases i <;> simp only [bits_sepalAI, BitVec.getLsbD_append, BitVec.getLsbD_extractLsb'] <;> rfl))
theorem sepalOr (d : BitVec 4) (a : BitVec 4) (b : BitVec 4) : Statement (.sepalOr d a b) := sepal rfl (by
  have ho : BitVec.extractLsb' (n := 32) 26 6 (sepalA 4 d a b) = 4 := by
    apply BitVec.eq_of_getLsbD_eq; intro i hi
    interval_cases i <;> simp only [bits_sepalA, BitVec.getLsbD_append, BitVec.getLsbD_extractLsb'] <;> rfl
  rw [sraw4 _ ho]
  have hb : bit (sepalA 4 d a b) 17 = false := by
    simp only [bit, bits_sepalA, BitVec.getLsbD_append]; rfl
  simp only [hb, if_true, if_false, Bool.false_eq_true]
  simp only [Option.some.injEq, Instr.sepalOr.injEq]
  refine ⟨?_, ?_, ?_⟩
  all_goals first
    | (simp only [bit, bits_sepalA, BitVec.getLsbD_append]; simp [one]; done)
    | (apply BitVec.eq_of_getLsbD_eq; intro i hi; interval_cases i <;> simp only [bits_sepalA, BitVec.getLsbD_append, BitVec.getLsbD_extractLsb'] <;> rfl))
theorem sepalOrImm (d : BitVec 4) (a : BitVec 4) (imm : BitVec 17) : Statement (.sepalOrImm d a imm) := sepal rfl (by
  have ho : BitVec.extractLsb' (n := 32) 26 6 (sepalAI 4 d a imm) = 4 := by
    apply BitVec.eq_of_getLsbD_eq; intro i hi
    interval_cases i <;> simp only [bits_sepalAI, BitVec.getLsbD_append, BitVec.getLsbD_extractLsb'] <;> rfl
  rw [sraw4 _ ho]
  have hb : bit (sepalAI 4 d a imm) 17 = true := by
    simp only [bit, bits_sepalAI, BitVec.getLsbD_append]; rfl
  simp only [hb, if_true, if_false, Bool.false_eq_true]
  simp only [Option.some.injEq, Instr.sepalOrImm.injEq]
  refine ⟨?_, ?_, ?_⟩
  all_goals first
    | (simp only [bit, bits_sepalAI, BitVec.getLsbD_append]; simp [one]; done)
    | (apply BitVec.eq_of_getLsbD_eq; intro i hi; interval_cases i <;> simp only [bits_sepalAI, BitVec.getLsbD_append, BitVec.getLsbD_extractLsb'] <;> rfl))
theorem sepalXor (d : BitVec 4) (a : BitVec 4) (b : BitVec 4) : Statement (.sepalXor d a b) := sepal rfl (by
  have ho : BitVec.extractLsb' (n := 32) 26 6 (sepalA 5 d a b) = 5 := by
    apply BitVec.eq_of_getLsbD_eq; intro i hi
    interval_cases i <;> simp only [bits_sepalA, BitVec.getLsbD_append, BitVec.getLsbD_extractLsb'] <;> rfl
  rw [sraw5 _ ho]
  have hb : bit (sepalA 5 d a b) 17 = false := by
    simp only [bit, bits_sepalA, BitVec.getLsbD_append]; rfl
  simp only [hb, if_true, if_false, Bool.false_eq_true]
  simp only [Option.some.injEq, Instr.sepalXor.injEq]
  refine ⟨?_, ?_, ?_⟩
  all_goals first
    | (simp only [bit, bits_sepalA, BitVec.getLsbD_append]; simp [one]; done)
    | (apply BitVec.eq_of_getLsbD_eq; intro i hi; interval_cases i <;> simp only [bits_sepalA, BitVec.getLsbD_append, BitVec.getLsbD_extractLsb'] <;> rfl))
theorem sepalXorImm (d : BitVec 4) (a : BitVec 4) (imm : BitVec 17) : Statement (.sepalXorImm d a imm) := sepal rfl (by
  have ho : BitVec.extractLsb' (n := 32) 26 6 (sepalAI 5 d a imm) = 5 := by
    apply BitVec.eq_of_getLsbD_eq; intro i hi
    interval_cases i <;> simp only [bits_sepalAI, BitVec.getLsbD_append, BitVec.getLsbD_extractLsb'] <;> rfl
  rw [sraw5 _ ho]
  have hb : bit (sepalAI 5 d a imm) 17 = true := by
    simp only [bit, bits_sepalAI, BitVec.getLsbD_append]; rfl
  simp only [hb, if_true, if_false, Bool.false_eq_true]
  simp only [Option.some.injEq, Instr.sepalXorImm.injEq]
  refine ⟨?_, ?_, ?_⟩
  all_goals first
    | (simp only [bit, bits_sepalAI, BitVec.getLsbD_append]; simp [one]; done)
    | (apply BitVec.eq_of_getLsbD_eq; intro i hi; interval_cases i <;> simp only [bits_sepalAI, BitVec.getLsbD_append, BitVec.getLsbD_extractLsb'] <;> rfl))
theorem sepalShl (d : BitVec 4) (a : BitVec 4) (b : BitVec 4) : Statement (.sepalShl d a b) := sepal rfl (by
  have ho : BitVec.extractLsb' (n := 32) 26 6 (sepalA 6 d a b) = 6 := by
    apply BitVec.eq_of_getLsbD_eq; intro i hi
    interval_cases i <;> simp only [bits_sepalA, BitVec.getLsbD_append, BitVec.getLsbD_extractLsb'] <;> rfl
  rw [sraw6 _ ho]
  have hb : bit (sepalA 6 d a b) 17 = false := by
    simp only [bit, bits_sepalA, BitVec.getLsbD_append]; rfl
  simp only [hb, if_true, if_false, Bool.false_eq_true]
  simp only [Option.some.injEq, Instr.sepalShl.injEq]
  refine ⟨?_, ?_, ?_⟩
  all_goals first
    | (simp only [bit, bits_sepalA, BitVec.getLsbD_append]; simp [one]; done)
    | (apply BitVec.eq_of_getLsbD_eq; intro i hi; interval_cases i <;> simp only [bits_sepalA, BitVec.getLsbD_append, BitVec.getLsbD_extractLsb'] <;> rfl))
theorem sepalShlImm (d : BitVec 4) (a : BitVec 4) (imm : BitVec 17) : Statement (.sepalShlImm d a imm) := sepal rfl (by
  have ho : BitVec.extractLsb' (n := 32) 26 6 (sepalAI 6 d a imm) = 6 := by
    apply BitVec.eq_of_getLsbD_eq; intro i hi
    interval_cases i <;> simp only [bits_sepalAI, BitVec.getLsbD_append, BitVec.getLsbD_extractLsb'] <;> rfl
  rw [sraw6 _ ho]
  have hb : bit (sepalAI 6 d a imm) 17 = true := by
    simp only [bit, bits_sepalAI, BitVec.getLsbD_append]; rfl
  simp only [hb, if_true, if_false, Bool.false_eq_true]
  simp only [Option.some.injEq, Instr.sepalShlImm.injEq]
  refine ⟨?_, ?_, ?_⟩
  all_goals first
    | (simp only [bit, bits_sepalAI, BitVec.getLsbD_append]; simp [one]; done)
    | (apply BitVec.eq_of_getLsbD_eq; intro i hi; interval_cases i <;> simp only [bits_sepalAI, BitVec.getLsbD_append, BitVec.getLsbD_extractLsb'] <;> rfl))
theorem sepalShr (d : BitVec 4) (a : BitVec 4) (b : BitVec 4) : Statement (.sepalShr d a b) := sepal rfl (by
  have ho : BitVec.extractLsb' (n := 32) 26 6 (sepalA 7 d a b) = 7 := by
    apply BitVec.eq_of_getLsbD_eq; intro i hi
    interval_cases i <;> simp only [bits_sepalA, BitVec.getLsbD_append, BitVec.getLsbD_extractLsb'] <;> rfl
  rw [sraw7 _ ho]
  have hb : bit (sepalA 7 d a b) 17 = false := by
    simp only [bit, bits_sepalA, BitVec.getLsbD_append]; rfl
  simp only [hb, if_true, if_false, Bool.false_eq_true]
  simp only [Option.some.injEq, Instr.sepalShr.injEq]
  refine ⟨?_, ?_, ?_⟩
  all_goals first
    | (simp only [bit, bits_sepalA, BitVec.getLsbD_append]; simp [one]; done)
    | (apply BitVec.eq_of_getLsbD_eq; intro i hi; interval_cases i <;> simp only [bits_sepalA, BitVec.getLsbD_append, BitVec.getLsbD_extractLsb'] <;> rfl))
theorem sepalShrImm (d : BitVec 4) (a : BitVec 4) (imm : BitVec 17) : Statement (.sepalShrImm d a imm) := sepal rfl (by
  have ho : BitVec.extractLsb' (n := 32) 26 6 (sepalAI 7 d a imm) = 7 := by
    apply BitVec.eq_of_getLsbD_eq; intro i hi
    interval_cases i <;> simp only [bits_sepalAI, BitVec.getLsbD_append, BitVec.getLsbD_extractLsb'] <;> rfl
  rw [sraw7 _ ho]
  have hb : bit (sepalAI 7 d a imm) 17 = true := by
    simp only [bit, bits_sepalAI, BitVec.getLsbD_append]; rfl
  simp only [hb, if_true, if_false, Bool.false_eq_true]
  simp only [Option.some.injEq, Instr.sepalShrImm.injEq]
  refine ⟨?_, ?_, ?_⟩
  all_goals first
    | (simp only [bit, bits_sepalAI, BitVec.getLsbD_append]; simp [one]; done)
    | (apply BitVec.eq_of_getLsbD_eq; intro i hi; interval_cases i <;> simp only [bits_sepalAI, BitVec.getLsbD_append, BitVec.getLsbD_extractLsb'] <;> rfl))
theorem sepalMin (d : BitVec 4) (a : BitVec 4) (b : BitVec 4) : Statement (.sepalMin d a b) := sepal rfl (by
  have ho : BitVec.extractLsb' (n := 32) 26 6 (sepalA 8 d a b) = 8 := by
    apply BitVec.eq_of_getLsbD_eq; intro i hi
    interval_cases i <;> simp only [bits_sepalA, BitVec.getLsbD_append, BitVec.getLsbD_extractLsb'] <;> rfl
  rw [sraw8 _ ho]
  have hb : bit (sepalA 8 d a b) 17 = false := by
    simp only [bit, bits_sepalA, BitVec.getLsbD_append]; rfl
  simp only [hb, if_true, if_false, Bool.false_eq_true]
  simp only [Option.some.injEq, Instr.sepalMin.injEq]
  refine ⟨?_, ?_, ?_⟩
  all_goals first
    | (simp only [bit, bits_sepalA, BitVec.getLsbD_append]; simp [one]; done)
    | (apply BitVec.eq_of_getLsbD_eq; intro i hi; interval_cases i <;> simp only [bits_sepalA, BitVec.getLsbD_append, BitVec.getLsbD_extractLsb'] <;> rfl))
theorem sepalMinImm (d : BitVec 4) (a : BitVec 4) (imm : BitVec 17) : Statement (.sepalMinImm d a imm) := sepal rfl (by
  have ho : BitVec.extractLsb' (n := 32) 26 6 (sepalAI 8 d a imm) = 8 := by
    apply BitVec.eq_of_getLsbD_eq; intro i hi
    interval_cases i <;> simp only [bits_sepalAI, BitVec.getLsbD_append, BitVec.getLsbD_extractLsb'] <;> rfl
  rw [sraw8 _ ho]
  have hb : bit (sepalAI 8 d a imm) 17 = true := by
    simp only [bit, bits_sepalAI, BitVec.getLsbD_append]; rfl
  simp only [hb, if_true, if_false, Bool.false_eq_true]
  simp only [Option.some.injEq, Instr.sepalMinImm.injEq]
  refine ⟨?_, ?_, ?_⟩
  all_goals first
    | (simp only [bit, bits_sepalAI, BitVec.getLsbD_append]; simp [one]; done)
    | (apply BitVec.eq_of_getLsbD_eq; intro i hi; interval_cases i <;> simp only [bits_sepalAI, BitVec.getLsbD_append, BitVec.getLsbD_extractLsb'] <;> rfl))
theorem sepalMax (d : BitVec 4) (a : BitVec 4) (b : BitVec 4) : Statement (.sepalMax d a b) := sepal rfl (by
  have ho : BitVec.extractLsb' (n := 32) 26 6 (sepalA 9 d a b) = 9 := by
    apply BitVec.eq_of_getLsbD_eq; intro i hi
    interval_cases i <;> simp only [bits_sepalA, BitVec.getLsbD_append, BitVec.getLsbD_extractLsb'] <;> rfl
  rw [sraw9 _ ho]
  have hb : bit (sepalA 9 d a b) 17 = false := by
    simp only [bit, bits_sepalA, BitVec.getLsbD_append]; rfl
  simp only [hb, if_true, if_false, Bool.false_eq_true]
  simp only [Option.some.injEq, Instr.sepalMax.injEq]
  refine ⟨?_, ?_, ?_⟩
  all_goals first
    | (simp only [bit, bits_sepalA, BitVec.getLsbD_append]; simp [one]; done)
    | (apply BitVec.eq_of_getLsbD_eq; intro i hi; interval_cases i <;> simp only [bits_sepalA, BitVec.getLsbD_append, BitVec.getLsbD_extractLsb'] <;> rfl))
theorem sepalMaxImm (d : BitVec 4) (a : BitVec 4) (imm : BitVec 17) : Statement (.sepalMaxImm d a imm) := sepal rfl (by
  have ho : BitVec.extractLsb' (n := 32) 26 6 (sepalAI 9 d a imm) = 9 := by
    apply BitVec.eq_of_getLsbD_eq; intro i hi
    interval_cases i <;> simp only [bits_sepalAI, BitVec.getLsbD_append, BitVec.getLsbD_extractLsb'] <;> rfl
  rw [sraw9 _ ho]
  have hb : bit (sepalAI 9 d a imm) 17 = true := by
    simp only [bit, bits_sepalAI, BitVec.getLsbD_append]; rfl
  simp only [hb, if_true, if_false, Bool.false_eq_true]
  simp only [Option.some.injEq, Instr.sepalMaxImm.injEq]
  refine ⟨?_, ?_, ?_⟩
  all_goals first
    | (simp only [bit, bits_sepalAI, BitVec.getLsbD_append]; simp [one]; done)
    | (apply BitVec.eq_of_getLsbD_eq; intro i hi; interval_cases i <;> simp only [bits_sepalAI, BitVec.getLsbD_append, BitVec.getLsbD_extractLsb'] <;> rfl))
theorem sepalMovi (d : BitVec 4) (imm : BitVec 16) : Statement (.sepalMovi d imm) := sepal rfl (by
  have ho : BitVec.extractLsb' (n := 32) 26 6 (sepalL 10 d imm) = 10 := by
    apply BitVec.eq_of_getLsbD_eq; intro i hi
    interval_cases i <;> simp only [bits_sepalL, BitVec.getLsbD_append, BitVec.getLsbD_extractLsb'] <;> rfl
  rw [sraw10 _ ho]
  simp only [Option.some.injEq, Instr.sepalMovi.injEq]
  refine ⟨?_, ?_⟩
  all_goals first
    | (simp only [bit, bits_sepalL, BitVec.getLsbD_append]; simp [one]; done)
    | (apply BitVec.eq_of_getLsbD_eq; intro i hi; interval_cases i <;> simp only [bits_sepalL, BitVec.getLsbD_append, BitVec.getLsbD_extractLsb'] <;> rfl))
theorem sepalMovh (d : BitVec 4) (imm : BitVec 16) : Statement (.sepalMovh d imm) := sepal rfl (by
  have ho : BitVec.extractLsb' (n := 32) 26 6 (sepalL 11 d imm) = 11 := by
    apply BitVec.eq_of_getLsbD_eq; intro i hi
    interval_cases i <;> simp only [bits_sepalL, BitVec.getLsbD_append, BitVec.getLsbD_extractLsb'] <;> rfl
  rw [sraw11 _ ho]
  simp only [Option.some.injEq, Instr.sepalMovh.injEq]
  refine ⟨?_, ?_⟩
  all_goals first
    | (simp only [bit, bits_sepalL, BitVec.getLsbD_append]; simp [one]; done)
    | (apply BitVec.eq_of_getLsbD_eq; intro i hi; interval_cases i <;> simp only [bits_sepalL, BitVec.getLsbD_append, BitVec.getLsbD_extractLsb'] <;> rfl))
theorem bits_sepalCmp (d : BitVec 2) (cc : BitVec 3) (a : BitVec 4) (b : BitVec 4) (i : Nat) : BitVec.getLsbD (w := 32) ((12 : BitVec 6) ++ d ++ cc ++ a ++ (0 : BitVec 1) ++ b ++ (0 : BitVec 12)) i =
    ((12 : BitVec 6) ++ d ++ cc ++ a ++ (0 : BitVec 1) ++ b ++ (0 : BitVec 12)).getLsbD i := rfl
theorem sepalCmp (d : BitVec 2) (cc : BitVec 3) (a : BitVec 4) (b : BitVec 4) : Statement (.sepalCmp d cc a b) := sepal rfl (by
  have ho : BitVec.extractLsb' (n := 32) 26 6 ((12 : BitVec 6) ++ d ++ cc ++ a ++ (0 : BitVec 1) ++ b ++ (0 : BitVec 12)) = 12 := by
    apply BitVec.eq_of_getLsbD_eq; intro i hi
    interval_cases i <;> simp only [bits_sepalCmp, BitVec.getLsbD_append, BitVec.getLsbD_extractLsb'] <;> rfl
  rw [sraw12 _ ho]
  have hb : bit ((12 : BitVec 6) ++ d ++ cc ++ a ++ (0 : BitVec 1) ++ b ++ (0 : BitVec 12)) 16 = false := by
    simp only [bit, bits_sepalCmp, BitVec.getLsbD_append]; rfl
  simp only [hb, if_true, if_false, Bool.false_eq_true]
  simp only [Option.some.injEq, Instr.sepalCmp.injEq]
  refine ⟨?_, ?_, ?_, ?_⟩
  all_goals first
    | (simp only [bit, bits_sepalCmp, BitVec.getLsbD_append]; simp [one]; done)
    | (apply BitVec.eq_of_getLsbD_eq; intro i hi; interval_cases i <;> simp only [bits_sepalCmp, BitVec.getLsbD_append, BitVec.getLsbD_extractLsb'] <;> rfl))
theorem bits_sepalCmpImm (d : BitVec 2) (cc : BitVec 3) (a : BitVec 4) (imm : BitVec 16) (i : Nat) : BitVec.getLsbD (w := 32) ((12 : BitVec 6) ++ d ++ cc ++ a ++ (1 : BitVec 1) ++ imm) i =
    ((12 : BitVec 6) ++ d ++ cc ++ a ++ (1 : BitVec 1) ++ imm).getLsbD i := rfl
theorem sepalCmpImm (d : BitVec 2) (cc : BitVec 3) (a : BitVec 4) (imm : BitVec 16) : Statement (.sepalCmpImm d cc a imm) := sepal rfl (by
  have ho : BitVec.extractLsb' (n := 32) 26 6 ((12 : BitVec 6) ++ d ++ cc ++ a ++ (1 : BitVec 1) ++ imm) = 12 := by
    apply BitVec.eq_of_getLsbD_eq; intro i hi
    interval_cases i <;> simp only [bits_sepalCmpImm, BitVec.getLsbD_append, BitVec.getLsbD_extractLsb'] <;> rfl
  rw [sraw12 _ ho]
  have hb : bit ((12 : BitVec 6) ++ d ++ cc ++ a ++ (1 : BitVec 1) ++ imm) 16 = true := by
    simp only [bit, bits_sepalCmpImm, BitVec.getLsbD_append]; rfl
  simp only [hb, if_true, if_false, Bool.false_eq_true]
  simp only [Option.some.injEq, Instr.sepalCmpImm.injEq]
  refine ⟨?_, ?_, ?_, ?_⟩
  all_goals first
    | (simp only [bit, bits_sepalCmpImm, BitVec.getLsbD_append]; simp [one]; done)
    | (apply BitVec.eq_of_getLsbD_eq; intro i hi; interval_cases i <;> simp only [bits_sepalCmpImm, BitVec.getLsbD_append, BitVec.getLsbD_extractLsb'] <;> rfl))
theorem bits_sepalBr (n : Bool) (cf : BitVec 2) (off : BitVec 12) (i : Nat) : BitVec.getLsbD (w := 32) ((16 : BitVec 6) ++ one n ++ (0 : BitVec 1) ++ cf ++ (0 : BitVec 10) ++ off) i =
    ((16 : BitVec 6) ++ one n ++ (0 : BitVec 1) ++ cf ++ (0 : BitVec 10) ++ off).getLsbD i := rfl
theorem sepalBr (n : Bool) (cf : BitVec 2) (off : BitVec 12) : Statement (.sepalBr n cf off) := sepal rfl (by
  have ho : BitVec.extractLsb' (n := 32) 26 6 ((16 : BitVec 6) ++ one n ++ (0 : BitVec 1) ++ cf ++ (0 : BitVec 10) ++ off) = 16 := by
    apply BitVec.eq_of_getLsbD_eq; intro i hi
    interval_cases i <;> simp only [bits_sepalBr, BitVec.getLsbD_append, BitVec.getLsbD_extractLsb'] <;> rfl
  rw [sraw16 _ ho]
  have hb : bit ((16 : BitVec 6) ++ one n ++ (0 : BitVec 1) ++ cf ++ (0 : BitVec 10) ++ off) 24 = false := by
    simp only [bit, bits_sepalBr, BitVec.getLsbD_append]; rfl
  simp only [hb, if_true, if_false, Bool.false_eq_true]
  simp only [Option.some.injEq, Instr.sepalBr.injEq]
  refine ⟨?_, ?_, ?_⟩
  all_goals first
    | (simp only [bit, bits_sepalBr, BitVec.getLsbD_append]; simp [one]; done)
    | (apply BitVec.eq_of_getLsbD_eq; intro i hi; interval_cases i <;> simp only [bits_sepalBr, BitVec.getLsbD_append, BitVec.getLsbD_extractLsb'] <;> rfl))
theorem bits_sepalBrAlways (off : BitVec 12) (i : Nat) : BitVec.getLsbD (w := 32) ((16 : BitVec 6) ++ (0 : BitVec 1) ++ (1 : BitVec 1) ++ (0 : BitVec 12) ++ off) i =
    ((16 : BitVec 6) ++ (0 : BitVec 1) ++ (1 : BitVec 1) ++ (0 : BitVec 12) ++ off).getLsbD i := rfl
theorem sepalBrAlways (off : BitVec 12) : Statement (.sepalBrAlways off) := sepal rfl (by
  have ho : BitVec.extractLsb' (n := 32) 26 6 ((16 : BitVec 6) ++ (0 : BitVec 1) ++ (1 : BitVec 1) ++ (0 : BitVec 12) ++ off) = 16 := by
    apply BitVec.eq_of_getLsbD_eq; intro i hi
    interval_cases i <;> simp only [bits_sepalBrAlways, BitVec.getLsbD_append, BitVec.getLsbD_extractLsb'] <;> rfl
  rw [sraw16 _ ho]
  have hb : bit ((16 : BitVec 6) ++ (0 : BitVec 1) ++ (1 : BitVec 1) ++ (0 : BitVec 12) ++ off) 24 = true := by
    simp only [bit, bits_sepalBrAlways, BitVec.getLsbD_append]; rfl
  simp only [hb, if_true, if_false, Bool.false_eq_true]
  simp only [Option.some.injEq, Instr.sepalBrAlways.injEq]
  all_goals first
    | (simp only [bit, bits_sepalBrAlways, BitVec.getLsbD_append]; simp [one]; done)
    | (apply BitVec.eq_of_getLsbD_eq; intro i hi; interval_cases i <;> simp only [bits_sepalBrAlways, BitVec.getLsbD_append, BitVec.getLsbD_extractLsb'] <;> rfl))
theorem bits_sepalLoop (lc : BitVec 10) (len : BitVec 12) (i : Nat) : BitVec.getLsbD (w := 32) ((17 : BitVec 6) ++ lc ++ (0 : BitVec 4) ++ len) i =
    ((17 : BitVec 6) ++ lc ++ (0 : BitVec 4) ++ len).getLsbD i := rfl
theorem sepalLoop (lc : BitVec 10) (len : BitVec 12) : Statement (.sepalLoop lc len) := sepal rfl (by
  have ho : BitVec.extractLsb' (n := 32) 26 6 ((17 : BitVec 6) ++ lc ++ (0 : BitVec 4) ++ len) = 17 := by
    apply BitVec.eq_of_getLsbD_eq; intro i hi
    interval_cases i <;> simp only [bits_sepalLoop, BitVec.getLsbD_append, BitVec.getLsbD_extractLsb'] <;> rfl
  rw [sraw17 _ ho]
  simp only [Option.some.injEq, Instr.sepalLoop.injEq]
  refine ⟨?_, ?_⟩
  all_goals first
    | (simp only [bit, bits_sepalLoop, BitVec.getLsbD_append]; simp [one]; done)
    | (apply BitVec.eq_of_getLsbD_eq; intro i hi; interval_cases i <;> simp only [bits_sepalLoop, BitVec.getLsbD_append, BitVec.getLsbD_extractLsb'] <;> rfl))
theorem bits_sepalDone (i : Nat) : BitVec.getLsbD (w := 32) ((18 : BitVec 6) ++ (0 : BitVec 26)) i =
    ((18 : BitVec 6) ++ (0 : BitVec 26)).getLsbD i := rfl
theorem sepalDone : Statement .sepalDone := sepal rfl (by
  have ho : BitVec.extractLsb' (n := 32) 26 6 ((18 : BitVec 6) ++ (0 : BitVec 26)) = 18 := by
    apply BitVec.eq_of_getLsbD_eq; intro i hi
    interval_cases i <;> simp only [bits_sepalDone, BitVec.getLsbD_append, BitVec.getLsbD_extractLsb'] <;> rfl
  rw [sraw18 _ ho])
theorem sepalPhl (d : BitVec 4) (fld : BitVec 4) : Statement (.sepalPhl d fld) := sepal rfl (by
  have ho : BitVec.extractLsb' (n := 32) 26 6 (sepalH 20 d 0 fld) = 20 := by
    apply BitVec.eq_of_getLsbD_eq; intro i hi
    interval_cases i <;> simp only [bits_sepalH, BitVec.getLsbD_append, BitVec.getLsbD_extractLsb'] <;> rfl
  rw [sraw20 _ ho]
  simp only [Option.some.injEq, Instr.sepalPhl.injEq]
  refine ⟨?_, ?_⟩
  all_goals first
    | (simp only [bit, bits_sepalH, BitVec.getLsbD_append]; simp [one]; done)
    | (apply BitVec.eq_of_getLsbD_eq; intro i hi; interval_cases i <;> simp only [bits_sepalH, BitVec.getLsbD_append, BitVec.getLsbD_extractLsb'] <;> rfl))
theorem sepalPhs (a : BitVec 4) (fld : BitVec 4) : Statement (.sepalPhs a fld) := sepal rfl (by
  have ho : BitVec.extractLsb' (n := 32) 26 6 (sepalH 21 0 a fld) = 21 := by
    apply BitVec.eq_of_getLsbD_eq; intro i hi
    interval_cases i <;> simp only [bits_sepalH, BitVec.getLsbD_append, BitVec.getLsbD_extractLsb'] <;> rfl
  rw [sraw21 _ ho]
  simp only [Option.some.injEq, Instr.sepalPhs.injEq]
  refine ⟨?_, ?_⟩
  all_goals first
    | (simp only [bit, bits_sepalH, BitVec.getLsbD_append]; simp [one]; done)
    | (apply BitVec.eq_of_getLsbD_eq; intro i hi; interval_cases i <;> simp only [bits_sepalH, BitVec.getLsbD_append, BitVec.getLsbD_extractLsb'] <;> rfl))
theorem sepalPkl (d : BitVec 4) (a : BitVec 4) (off : BitVec 14) : Statement (.sepalPkl d a off) := sepal rfl (by
  have ho : BitVec.extractLsb' (n := 32) 26 6 (sepalM 22 d a 0 off) = 22 := by
    apply BitVec.eq_of_getLsbD_eq; intro i hi
    interval_cases i <;> simp only [bits_sepalM, BitVec.getLsbD_append, BitVec.getLsbD_extractLsb'] <;> rfl
  rw [sraw22 _ ho]
  simp only [Option.some.injEq, Instr.sepalPkl.injEq]
  refine ⟨?_, ?_, ?_⟩
  all_goals first
    | (simp only [bit, bits_sepalM, BitVec.getLsbD_append]; simp [one]; done)
    | (apply BitVec.eq_of_getLsbD_eq; intro i hi; interval_cases i <;> simp only [bits_sepalM, BitVec.getLsbD_append, BitVec.getLsbD_extractLsb'] <;> rfl))
theorem sepalPks (a : BitVec 4) (b : BitVec 4) (off : BitVec 14) : Statement (.sepalPks a b off) := sepal rfl (by
  have ho : BitVec.extractLsb' (n := 32) 26 6 (sepalM 23 0 a b off) = 23 := by
    apply BitVec.eq_of_getLsbD_eq; intro i hi
    interval_cases i <;> simp only [bits_sepalM, BitVec.getLsbD_append, BitVec.getLsbD_extractLsb'] <;> rfl
  rw [sraw23 _ ho]
  simp only [Option.some.injEq, Instr.sepalPks.injEq]
  refine ⟨?_, ?_, ?_⟩
  all_goals first
    | (simp only [bit, bits_sepalM, BitVec.getLsbD_append]; simp [one]; done)
    | (apply BitVec.eq_of_getLsbD_eq; intro i hi; interval_cases i <;> simp only [bits_sepalM, BitVec.getLsbD_append, BitVec.getLsbD_extractLsb'] <;> rfl))
theorem sepalFld (d : BitVec 4) (a : BitVec 4) (off : BitVec 14) : Statement (.sepalFld d a off) := sepal rfl (by
  have ho : BitVec.extractLsb' (n := 32) 26 6 (sepalM 24 d a 0 off) = 24 := by
    apply BitVec.eq_of_getLsbD_eq; intro i hi
    interval_cases i <;> simp only [bits_sepalM, BitVec.getLsbD_append, BitVec.getLsbD_extractLsb'] <;> rfl
  rw [sraw24 _ ho]
  simp only [Option.some.injEq, Instr.sepalFld.injEq]
  refine ⟨?_, ?_, ?_⟩
  all_goals first
    | (simp only [bit, bits_sepalM, BitVec.getLsbD_append]; simp [one]; done)
    | (apply BitVec.eq_of_getLsbD_eq; intro i hi; interval_cases i <;> simp only [bits_sepalM, BitVec.getLsbD_append, BitVec.getLsbD_extractLsb'] <;> rfl))
theorem sepalFst (a : BitVec 4) (b : BitVec 4) (off : BitVec 14) : Statement (.sepalFst a b off) := sepal rfl (by
  have ho : BitVec.extractLsb' (n := 32) 26 6 (sepalM 25 0 a b off) = 25 := by
    apply BitVec.eq_of_getLsbD_eq; intro i hi
    interval_cases i <;> simp only [bits_sepalM, BitVec.getLsbD_append, BitVec.getLsbD_extractLsb'] <;> rfl
  rw [sraw25 _ ho]
  simp only [Option.some.injEq, Instr.sepalFst.injEq]
  refine ⟨?_, ?_, ?_⟩
  all_goals first
    | (simp only [bit, bits_sepalM, BitVec.getLsbD_append]; simp [one]; done)
    | (apply BitVec.eq_of_getLsbD_eq; intro i hi; interval_cases i <;> simp only [bits_sepalM, BitVec.getLsbD_append, BitVec.getLsbD_extractLsb'] <;> rfl))
theorem sepalFat (d : BitVec 4) (a : BitVec 4) (b : BitVec 4) (off : BitVec 14) : Statement (.sepalFat d a b off) := sepal rfl (by
  have ho : BitVec.extractLsb' (n := 32) 26 6 (sepalM 26 d a b off) = 26 := by
    apply BitVec.eq_of_getLsbD_eq; intro i hi
    interval_cases i <;> simp only [bits_sepalM, BitVec.getLsbD_append, BitVec.getLsbD_extractLsb'] <;> rfl
  rw [sraw26 _ ho]
  simp only [Option.some.injEq, Instr.sepalFat.injEq]
  refine ⟨?_, ?_, ?_, ?_⟩
  all_goals first
    | (simp only [bit, bits_sepalM, BitVec.getLsbD_append]; simp [one]; done)
    | (apply BitVec.eq_of_getLsbD_eq; intro i hi; interval_cases i <;> simp only [bits_sepalM, BitVec.getLsbD_append, BitVec.getLsbD_extractLsb'] <;> rfl))
theorem sepalVld (sp : Bool) (d : BitVec 3) (a : BitVec 4) (off : BitVec 14) : Statement (.sepalVld sp d a off) := sepal rfl (by
  have ho : BitVec.extractLsb' (n := 32) 26 6 (sepalM 32 (one sp ++ d) a 0 off) = 32 := by
    apply BitVec.eq_of_getLsbD_eq; intro i hi
    interval_cases i <;> simp only [bits_sepalM, BitVec.getLsbD_append, BitVec.getLsbD_extractLsb'] <;> rfl
  rw [sraw32 _ ho]
  simp only [Option.some.injEq, Instr.sepalVld.injEq]
  refine ⟨?_, ?_, ?_, ?_⟩
  all_goals first
    | (simp only [bit, bits_sepalM, BitVec.getLsbD_append]; simp [one]; done)
    | (apply BitVec.eq_of_getLsbD_eq; intro i hi; interval_cases i <;> simp only [bits_sepalM, BitVec.getLsbD_append, BitVec.getLsbD_extractLsb'] <;> rfl))
theorem sepalVst (sp : Bool) (v : BitVec 3) (a : BitVec 4) (b : BitVec 4) (off : BitVec 14) : Statement (.sepalVst sp v a b off) := sepal rfl (by
  have ho : BitVec.extractLsb' (n := 32) 26 6 (sepalM 33 (one sp ++ v) a b off) = 33 := by
    apply BitVec.eq_of_getLsbD_eq; intro i hi
    interval_cases i <;> simp only [bits_sepalM, BitVec.getLsbD_append, BitVec.getLsbD_extractLsb'] <;> rfl
  rw [sraw33 _ ho]
  simp only [Option.some.injEq, Instr.sepalVst.injEq]
  refine ⟨?_, ?_, ?_, ?_, ?_⟩
  all_goals first
    | (simp only [bit, bits_sepalM, BitVec.getLsbD_append]; simp [one]; done)
    | (apply BitVec.eq_of_getLsbD_eq; intro i hi; interval_cases i <;> simp only [bits_sepalM, BitVec.getLsbD_append, BitVec.getLsbD_extractLsb'] <;> rfl))
theorem sepalVadd (d : BitVec 3) (a : BitVec 3) (b : BitVec 3) (ty : BitVec 2) : Statement (.sepalVadd d a b ty) := sepal rfl (by
  have ho : BitVec.extractLsb' (n := 32) 26 6 (sepalV 34 d a b ty) = 34 := by
    apply BitVec.eq_of_getLsbD_eq; intro i hi
    interval_cases i <;> simp only [bits_sepalV, BitVec.getLsbD_append, BitVec.getLsbD_extractLsb'] <;> rfl
  rw [sraw34 _ ho]
  simp only [Option.some.injEq, Instr.sepalVadd.injEq]
  refine ⟨?_, ?_, ?_, ?_⟩
  all_goals first
    | (simp only [bit, bits_sepalV, BitVec.getLsbD_append]; simp [one]; done)
    | (apply BitVec.eq_of_getLsbD_eq; intro i hi; interval_cases i <;> simp only [bits_sepalV, BitVec.getLsbD_append, BitVec.getLsbD_extractLsb'] <;> rfl))
theorem sepalVmax (d : BitVec 3) (a : BitVec 3) (b : BitVec 3) (ty : BitVec 2) : Statement (.sepalVmax d a b ty) := sepal rfl (by
  have ho : BitVec.extractLsb' (n := 32) 26 6 (sepalV 35 d a b ty) = 35 := by
    apply BitVec.eq_of_getLsbD_eq; intro i hi
    interval_cases i <;> simp only [bits_sepalV, BitVec.getLsbD_append, BitVec.getLsbD_extractLsb'] <;> rfl
  rw [sraw35 _ ho]
  simp only [Option.some.injEq, Instr.sepalVmax.injEq]
  refine ⟨?_, ?_, ?_, ?_⟩
  all_goals first
    | (simp only [bit, bits_sepalV, BitVec.getLsbD_append]; simp [one]; done)
    | (apply BitVec.eq_of_getLsbD_eq; intro i hi; interval_cases i <;> simp only [bits_sepalV, BitVec.getLsbD_append, BitVec.getLsbD_extractLsb'] <;> rfl))
theorem sepalVmin (d : BitVec 3) (a : BitVec 3) (b : BitVec 3) (ty : BitVec 2) : Statement (.sepalVmin d a b ty) := sepal rfl (by
  have ho : BitVec.extractLsb' (n := 32) 26 6 (sepalV 36 d a b ty) = 36 := by
    apply BitVec.eq_of_getLsbD_eq; intro i hi
    interval_cases i <;> simp only [bits_sepalV, BitVec.getLsbD_append, BitVec.getLsbD_extractLsb'] <;> rfl
  rw [sraw36 _ ho]
  simp only [Option.some.injEq, Instr.sepalVmin.injEq]
  refine ⟨?_, ?_, ?_, ?_⟩
  all_goals first
    | (simp only [bit, bits_sepalV, BitVec.getLsbD_append]; simp [one]; done)
    | (apply BitVec.eq_of_getLsbD_eq; intro i hi; interval_cases i <;> simp only [bits_sepalV, BitVec.getLsbD_append, BitVec.getLsbD_extractLsb'] <;> rfl))
theorem bits_sepalVred (d : BitVec 4) (a : BitVec 3) (ty : BitVec 2) (i : Nat) : BitVec.getLsbD (w := 32) ((37 : BitVec 6) ++ d ++ a ++ (0 : BitVec 2) ++ ty ++ (0 : BitVec 15)) i =
    ((37 : BitVec 6) ++ d ++ a ++ (0 : BitVec 2) ++ ty ++ (0 : BitVec 15)).getLsbD i := rfl
theorem sepalVred (d : BitVec 4) (a : BitVec 3) (ty : BitVec 2) : Statement (.sepalVred d a ty) := sepal rfl (by
  have ho : BitVec.extractLsb' (n := 32) 26 6 ((37 : BitVec 6) ++ d ++ a ++ (0 : BitVec 2) ++ ty ++ (0 : BitVec 15)) = 37 := by
    apply BitVec.eq_of_getLsbD_eq; intro i hi
    interval_cases i <;> simp only [bits_sepalVred, BitVec.getLsbD_append, BitVec.getLsbD_extractLsb'] <;> rfl
  rw [sraw37 _ ho]
  simp only [Option.some.injEq, Instr.sepalVred.injEq]
  refine ⟨?_, ?_, ?_⟩
  all_goals first
    | (simp only [bit, bits_sepalVred, BitVec.getLsbD_append]; simp [one]; done)
    | (apply BitVec.eq_of_getLsbD_eq; intro i hi; interval_cases i <;> simp only [bits_sepalVred, BitVec.getLsbD_append, BitVec.getLsbD_extractLsb'] <;> rfl))
theorem sepalVcvtUp (d : BitVec 3) (a : BitVec 3) (h : BitVec 1) : Statement (.sepalVcvtUp d a h) := sepal rfl (by
  have ho : BitVec.extractLsb' (n := 32) 26 6 (sepalV 38 d a 0 ((0 : BitVec 1) ++ h)) = 38 := by
    apply BitVec.eq_of_getLsbD_eq; intro i hi
    interval_cases i <;> simp only [bits_sepalV, BitVec.getLsbD_append, BitVec.getLsbD_extractLsb'] <;> rfl
  rw [sraw38 _ ho]
  have hb : bit (sepalV 38 d a 0 ((0 : BitVec 1) ++ h)) 16 = false := by
    simp only [bit, bits_sepalV, BitVec.getLsbD_append]; rfl
  simp only [hb, if_true, if_false, Bool.false_eq_true]
  simp only [Option.some.injEq, Instr.sepalVcvtUp.injEq]
  refine ⟨?_, ?_, ?_⟩
  all_goals first
    | (simp only [bit, bits_sepalV, BitVec.getLsbD_append]; simp [one]; done)
    | (apply BitVec.eq_of_getLsbD_eq; intro i hi; interval_cases i <;> simp only [bits_sepalV, BitVec.getLsbD_append, BitVec.getLsbD_extractLsb'] <;> rfl))
theorem sepalVcvtDn (d : BitVec 3) (a : BitVec 3) (h : BitVec 1) : Statement (.sepalVcvtDn d a h) := sepal rfl (by
  have ho : BitVec.extractLsb' (n := 32) 26 6 (sepalV 38 d a 0 ((1 : BitVec 1) ++ h)) = 38 := by
    apply BitVec.eq_of_getLsbD_eq; intro i hi
    interval_cases i <;> simp only [bits_sepalV, BitVec.getLsbD_append, BitVec.getLsbD_extractLsb'] <;> rfl
  rw [sraw38 _ ho]
  have hb : bit (sepalV 38 d a 0 ((1 : BitVec 1) ++ h)) 16 = true := by
    simp only [bit, bits_sepalV, BitVec.getLsbD_append]; rfl
  simp only [hb, if_true, if_false, Bool.false_eq_true]
  simp only [Option.some.injEq, Instr.sepalVcvtDn.injEq]
  refine ⟨?_, ?_, ?_⟩
  all_goals first
    | (simp only [bit, bits_sepalV, BitVec.getLsbD_append]; simp [one]; done)
    | (apply BitVec.eq_of_getLsbD_eq; intro i hi; interval_cases i <;> simp only [bits_sepalV, BitVec.getLsbD_append, BitVec.getLsbD_extractLsb'] <;> rfl))
theorem sepalHash (d : BitVec 4) (a : BitVec 4) (b : BitVec 4) : Statement (.sepalHash d a b) := sepal rfl (by
  have ho : BitVec.extractLsb' (n := 32) 26 6 (sepalA 40 d a b) = 40 := by
    apply BitVec.eq_of_getLsbD_eq; intro i hi
    interval_cases i <;> simp only [bits_sepalA, BitVec.getLsbD_append, BitVec.getLsbD_extractLsb'] <;> rfl
  rw [sraw40 _ ho]
  simp only [Option.some.injEq, Instr.sepalHash.injEq]
  refine ⟨?_, ?_, ?_⟩
  all_goals first
    | (simp only [bit, bits_sepalA, BitVec.getLsbD_append]; simp [one]; done)
    | (apply BitVec.eq_of_getLsbD_eq; intro i hi; interval_cases i <;> simp only [bits_sepalA, BitVec.getLsbD_append, BitVec.getLsbD_extractLsb'] <;> rfl))
theorem sepalFwd (a : BitVec 4) : Statement (.sepalFwd a) := sepal rfl (by
  have ho : BitVec.extractLsb' (n := 32) 26 6 (sepalH 44 0 a 0) = 44 := by
    apply BitVec.eq_of_getLsbD_eq; intro i hi
    interval_cases i <;> simp only [bits_sepalH, BitVec.getLsbD_append, BitVec.getLsbD_extractLsb'] <;> rfl
  rw [sraw44 _ ho]
  simp only [Option.some.injEq, Instr.sepalFwd.injEq]
  all_goals first
    | (simp only [bit, bits_sepalH, BitVec.getLsbD_append]; simp [one]; done)
    | (apply BitVec.eq_of_getLsbD_eq; intro i hi; interval_cases i <;> simp only [bits_sepalH, BitVec.getLsbD_append, BitVec.getLsbD_extractLsb'] <;> rfl))
theorem bits_sepalDrop (i : Nat) : BitVec.getLsbD (w := 32) ((45 : BitVec 6) ++ (0 : BitVec 26)) i =
    ((45 : BitVec 6) ++ (0 : BitVec 26)).getLsbD i := rfl
theorem sepalDrop : Statement .sepalDrop := sepal rfl (by
  have ho : BitVec.extractLsb' (n := 32) 26 6 ((45 : BitVec 6) ++ (0 : BitVec 26)) = 45 := by
    apply BitVec.eq_of_getLsbD_eq; intro i hi
    interval_cases i <;> simp only [bits_sepalDrop, BitVec.getLsbD_append, BitVec.getLsbD_extractLsb'] <;> rfl
  rw [sraw45 _ ho])
theorem sepalMirr (a : BitVec 4) : Statement (.sepalMirr a) := sepal rfl (by
  have ho : BitVec.extractLsb' (n := 32) 26 6 (sepalH 46 0 a 0) = 46 := by
    apply BitVec.eq_of_getLsbD_eq; intro i hi
    interval_cases i <;> simp only [bits_sepalH, BitVec.getLsbD_append, BitVec.getLsbD_extractLsb'] <;> rfl
  rw [sraw46 _ ho]
  simp only [Option.some.injEq, Instr.sepalMirr.injEq]
  all_goals first
    | (simp only [bit, bits_sepalH, BitVec.getLsbD_append]; simp [one]; done)
    | (apply BitVec.eq_of_getLsbD_eq; intro i hi; interval_cases i <;> simp only [bits_sepalH, BitVec.getLsbD_append, BitVec.getLsbD_extractLsb'] <;> rfl))
theorem sepalClk (d : BitVec 4) : Statement (.sepalClk d) := sepal rfl (by
  have ho : BitVec.extractLsb' (n := 32) 26 6 (sepalL 48 d 0) = 48 := by
    apply BitVec.eq_of_getLsbD_eq; intro i hi
    interval_cases i <;> simp only [bits_sepalL, BitVec.getLsbD_append, BitVec.getLsbD_extractLsb'] <;> rfl
  rw [sraw48 _ ho]
  simp only [Option.some.injEq, Instr.sepalClk.injEq]
  all_goals first
    | (simp only [bit, bits_sepalL, BitVec.getLsbD_append]; simp [one]; done)
    | (apply BitVec.eq_of_getLsbD_eq; intro i hi; interval_cases i <;> simp only [bits_sepalL, BitVec.getLsbD_append, BitVec.getLsbD_extractLsb'] <;> rfl))
theorem sepalTrp (n : BitVec 8) : Statement (.sepalTrp n) := sepal rfl (by
  have ho : BitVec.extractLsb' (n := 32) 26 6 (sepalL 49 0 ((0 : BitVec 8) ++ n)) = 49 := by
    apply BitVec.eq_of_getLsbD_eq; intro i hi
    interval_cases i <;> simp only [bits_sepalL, BitVec.getLsbD_append, BitVec.getLsbD_extractLsb'] <;> rfl
  rw [sraw49 _ ho]
  simp only [Option.some.injEq, Instr.sepalTrp.injEq]
  all_goals first
    | (simp only [bit, bits_sepalL, BitVec.getLsbD_append]; simp [one]; done)
    | (apply BitVec.eq_of_getLsbD_eq; intro i hi; interval_cases i <;> simp only [bits_sepalL, BitVec.getLsbD_append, BitVec.getLsbD_extractLsb'] <;> rfl))
theorem qcfgWrite (q : Nat) (v : BitVec 64) : Statement (.qcfgWrite q v) := event rfl
theorem qbaseWrite (q : Nat) (v : BitVec 64) : Statement (.qbaseWrite q v) := event rfl
theorem ctxbaseWrite (v : BitVec 64) : Statement (.ctxbaseWrite v) := event rfl
theorem lkcfgWrite (d : Nat) (v : BitVec 64) : Statement (.lkcfgWrite d v) := event rfl
theorem fweightWrite (f : Nat) (v : BitVec 64) : Statement (.fweightWrite f v) := event rfl
theorem c0resWrite (v : BitVec 64) : Statement (.c0resWrite v) := event rfl
theorem timerWrite (i : Nat) (v : BitVec 64) : Statement (.timerWrite i v) := event rfl
theorem cntcfgWrite (i : Nat) (v : BitVec 64) : Statement (.cntcfgWrite i v) := event rfl
theorem frameidxWrite (h : Nat) (v : BitVec 32) : Statement (.frameidxWrite h v) := event rfl
theorem retidxWrite (h : Nat) (v : BitVec 32) : Statement (.retidxWrite h v) := event rfl
theorem ringRegisterWrite (r : RingReg) (v : BitVec 64) : Statement (.ringRegisterWrite r v) := event rfl
theorem areaRegisterWrite (r : AreaReg) (v : BitVec 64) : Statement (.areaRegisterWrite r v) := event rfl
theorem registerWrite (p : Page) (off : Nat) (v : BitVec 64) : Statement (.registerWrite p off v) := event rfl
theorem attestationRequest (func : Nat) (v : BitVec 64) : Statement (.attestationRequest func v) := event rfl
theorem attestationDone (func : Nat) : Statement (.attestationDone func) := event rfl
theorem serviceFirmwareLoad (func : Nat) (v : BitVec 64) : Statement (.serviceFirmwareLoad func v) := event rfl
theorem serviceFirmwareVerified : Statement .serviceFirmwareVerified := event rfl
theorem coldStart : Statement .coldStart := event rfl
theorem memoryInitDone : Statement .memoryInitDone := event rfl
theorem powerLoss : Statement .powerLoss := event rfl
theorem unitFence (u : FenceUnit) : Statement (.unitFence u) := event rfl
theorem linkDown (port : Nat) : Statement (.linkDown port) := event rfl
theorem linkUp (port : Nat) : Statement (.linkUp port) := event rfl
theorem tokenBucketRefill (func : Nat) : Statement (.tokenBucketRefill func) := event rfl
theorem softError (e : ErrorSite) : Statement (.softError e) := event rfl

end Sys2Proof.Laws.RoundTrip
end

