-- ==== Sys2Proof/Safety.lean ====
section
/-! DEFINITION. The terms in which claims are stated: who executes, what an issue changes, and what every step keeps. -/
namespace Sys2Proof.Machine

/-- The step goes on: it neither stops with a fault nor refuses. -/
def Answer.completes (o : Answer) : Prop := ∃ u, o = .next u

/-- One lane executes the current word alone: its thread exists and is ready (R202). -/
structure Lone (s : State) (t : ThreadRef) (th : Thread) : Prop where
  actor : s.actor = .lanes [t]
  found : s.threads.find? (tkey t) = some th
  ready : th.status = .ready

/-- The lanes of one issue: distinct threads, each ready (R202, R204). -/
structure Gang (s : State) (ls : List ThreadRef) : Prop where
  actor : s.actor = .lanes ls
  distinct : (ls.map tkey).Nodup
  live : ∀ t ∈ ls, ∃ th, s.threads.find? (tkey t) = some th ∧ th.status = .ready

/-- From `s` to `u` each lane's thread has become what `G` says, and NOTHING ELSE has changed: no other thread, no memory, no other
field of the package. -/
def OnlyThreads (s u : State) (ls : List ThreadRef) (G : ThreadRef → Thread → Thread) : Prop :=
  (∀ t ∈ ls, ∀ th, s.threads.find? (tkey t) = some th → u.threads.find? (tkey t) = some (G t th)) ∧
  (∀ k, k ∉ ls.map tkey → u.threads.find? k = s.threads.find? k) ∧
  u = { s with threads := u.threads }

/-- From `s` to `u` each lane's thread has become what `F` says and gone on to the next word, and nothing else has changed. -/
def OnlyLanes (s u : State) (ls : List ThreadRef) (F : ThreadRef → Thread → Thread) : Prop :=
  OnlyThreads s u ls (fun t th => { F t th with pc := (F t th).pc + 4 })

/-- Every petal of a core that holds a task, all of whose threads wait, is gated (R222). -/
def State.Gated (s : State) : Prop :=
  ∀ e ∈ s.tasks, ∀ p, p < 4 → s.petalWaits e.2.phys p = true → (s.gates.find? (petalKey e.2.phys p)).isSome = true

/-- The count of forced merges of a home agent, which the memory hierarchy raises (R79). -/
def forced : GReg → Bool
  | .uforced _ => true
  | _ => false

/-- The package but for what the memory hierarchy holds: device and host memory with metadata words, slices with their
pseudo-LRU bits, L1s, stores on their way, the spill area with its forced merges, the tracker, the translation caches, what the
placement unit counts, and the model's list of the stores that compete with a REMAP pass (R135). Two states with one `still` differ
at most there: every register, flag, mask, thread, task, lock, queue, engine and layout is the same. -/
def State.still (s : State) : State :=
  { s with
    mem := [], hostMem := [], metas := [], slices := [], plru := [], l1 := [], regq := [], hostq := [], nextStore := 0, spills := [], uncorrected := 0, tracker := [],
    counts := [], regions := [], tlbs := [], twe := [], atsPending := [], priDenied := [],
    layouts := s.layouts.map (fun e => (e.1, { e.2 with hits := [] })),
    gregs := s.gregs.filter (fun e => !forced e.1) }

/-- Both memories are in canonical form. -/
def State.memOk (s : State) : Prop := Memory.wf s.mem = true ∧ Memory.wf s.hostMem = true

end Sys2Proof.Machine
end

