-- ==== Sys2Proof/Laws/Table.lean ====
section
/-! SUPPORT. What reads of a sparse table give after its updates, and that every update keeps the canonical form. -/
namespace Sys2Proof.Machine.Tbl
variable {β : Type}

/-! ## Reads after updates -/

@[simp] theorem find?_nil (k : Nat) : find? ([] : Tbl β) k = none := rfl

theorem find?_put (m : Tbl β) (k j : Nat) (v : β) : find? (put m k v) j = if k = j then some v else find? m j := by
  induction m with
  | nil => by_cases h : k = j <;> simp [put, find?, h]
  | cons e r ih =>
    obtain ⟨a, w⟩ := e
    simp only [put]
    split
    · by_cases h : k = j <;> simp [find?, h]
    · split
      · rename_i h1 h2; subst h2
        by_cases h : a = j <;> simp [find?, h]
      · rename_i h1 h2
        simp only [find?, ih]
        by_cases h : a = j
        · have : k ≠ j := by omega
          simp [h, this]
        · simp [h]

@[simp] theorem find?_put_same (m : Tbl β) (k : Nat) (v : β) : find? (put m k v) k = some v := by simp [find?_put]

theorem put_put (m : Tbl β) (k : Nat) (v w : β) : put (put m k v) k w = put m k w := by
  induction m with
  | nil => simp [put]
  | cons e r ih =>
    obtain ⟨a, x⟩ := e
    simp only [put]
    by_cases h1 : k < a
    · simp [h1, put]
    · by_cases h2 : a = k
      · subst h2; simp [put]
      · simp [h1, h2, put, ih]

theorem find?_erase (m : Tbl β) (k j : Nat) : find? (erase m k) j = if k = j then none else find? m j := by
  induction m with
  | nil => simp [erase]
  | cons e r ih =>
    obtain ⟨a, w⟩ := e
    simp only [erase]
    by_cases h1 : a = k
    · subst h1
      simp only [if_true, ih, find?]
      by_cases h : a = j <;> simp [h]
    · simp only [h1, if_false, find?, ih]
      by_cases h : a = j
      · have : k ≠ j := by omega
        simp [h, this]
      · simp [h]

theorem find?_modify (m : Tbl β) (k j : Nat) (f : β → β) :
    find? (modify m k f) j = if k = j then (find? m j).map f else find? m j := by
  unfold modify
  cases h : find? m k with
  | none =>
    by_cases hk : k = j
    · subst hk; simp [h]
    · simp [hk]
  | some v =>
    simp only [find?_put]
    by_cases hk : k = j
    · subst hk; simp [h]
    · simp [hk]

@[simp] theorem find?_modify_same (m : Tbl β) (k : Nat) (f : β → β) : find? (modify m k f) k = (find? m k).map f := by
  simp [find?_modify]

theorem get_set [DecidableEq β] (d : β) (m : Tbl β) (k j : Nat) (v : β) :
    get d (set d m k v) j = if k = j then v else get d m j := by
  unfold get set
  by_cases h : v = d
  · simp only [h, if_true, find?_erase]
    by_cases hk : k = j <;> simp [hk]
  · simp only [h, if_false, find?_put]
    by_cases hk : k = j <;> simp [hk]

@[simp] theorem get_set_same [DecidableEq β] (d : β) (m : Tbl β) (k : Nat) (v : β) : get d (set d m k v) k = v := by
  simp [get_set]

theorem get_set_other [DecidableEq β] (d : β) (m : Tbl β) {k j : Nat} (v : β) (h : k ≠ j) :
    get d (set d m k v) j = get d m j := by simp [get_set, h]

/-! ## The canonical form -/

theorem above_mono {m : Tbl β} {lo a : Nat} (h : above (some a) m = true) (hl : lo ≤ a) : above (some lo) m = true := by
  cases m with
  | nil => rfl
  | cons e r =>
    simp only [above, Bool.and_eq_true, decide_eq_true_eq] at *
    exact ⟨by omega, h.2⟩

theorem above_none {m : Tbl β} {a : Nat} (h : above (some a) m = true) : above none m = true := by
  cases m with
  | nil => rfl
  | cons e r => simp only [above, Bool.and_eq_true] at *; exact h.2

theorem above_put {m : Tbl β} {lo : Option Nat} {k : Nat} (v : β) (h : above lo m = true) (hk : ∀ l, lo = some l → l < k) :
    above lo (put m k v) = true := by
  induction m generalizing lo with
  | nil =>
    cases lo with
    | none => rfl
    | some l => simp [put, above, hk l rfl]
  | cons e r ih =>
    obtain ⟨a, w⟩ := e
    have hr : above (some a) r = true := by
      cases lo <;> simp_all [above]
    have hla : ∀ l, lo = some l → l < a := by
      intro l hl; subst hl; simp_all [above]
    simp only [put]
    split
    · rename_i h1
      cases lo with
      | none => simp [above, h1, hr]
      | some l => simp [above, h1, hr, hk l rfl]
    · split
      · rename_i h1 h2
        subst h2
        cases lo with
        | none => simp [above, hr]
        | some l => simp [above, hr, hk l rfl]
      · rename_i h1 h2
        have := ih hr (by intro l hl; cases hl; omega)
        cases lo with
        | none => simpa [above] using this
        | some l => simp [above, this, hla l rfl]

theorem above_erase {m : Tbl β} {lo : Option Nat} (k : Nat) (h : above lo m = true) : above lo (erase m k) = true := by
  induction m generalizing lo with
  | nil => exact h
  | cons e r ih =>
    obtain ⟨a, w⟩ := e
    have hr : above (some a) r = true := by
      cases lo <;> simp_all [above]
    have hla : ∀ l, lo = some l → l < a := by
      intro l hl; subst hl; simp_all [above]
    simp only [erase]
    split
    · apply ih
      cases lo with
      | none => exact above_none hr
      | some l => exact above_mono hr (Nat.le_of_lt (hla l rfl))
    · have := ih hr
      cases lo with
      | none => simpa [above] using this
      | some l => simp [above, this, hla l rfl]

theorem all_put {m : Tbl β} {p : β → Bool} {k : Nat} {v : β} (h : m.all (fun e => p e.2) = true) (hv : p v = true) :
    (put m k v).all (fun e => p e.2) = true := by
  induction m with
  | nil => simp [put, hv]
  | cons e r ih =>
    obtain ⟨a, w⟩ := e
    simp only [List.all_cons, Bool.and_eq_true] at h
    simp only [put]
    split
    · simp [hv, h.1, h.2]
    · split
      · simp [hv, h.2]
      · simp [h.1, ih h.2]

theorem all_erase {m : Tbl β} {p : β → Bool} (k : Nat) (h : m.all (fun e => p e.2) = true) :
    (erase m k).all (fun e => p e.2) = true := by
  induction m with
  | nil => rfl
  | cons e r ih =>
    obtain ⟨a, w⟩ := e
    simp only [List.all_cons, Bool.and_eq_true] at h
    simp only [erase]
    split
    · exact ih h.2
    · simp [h.1, ih h.2]

variable [DecidableEq β]

theorem wf_nil (d : β) : wf d [] = true := rfl

/-- A write keeps the canonical form. -/
theorem wf_set {d : β} {m : Tbl β} (k : Nat) (v : β) (h : wf d m = true) : wf d (set d m k v) = true := by
  simp only [wf, Bool.and_eq_true] at *
  unfold set
  split
  · exact ⟨above_erase k h.1, all_erase (p := fun x => decide (x ≠ d)) k h.2⟩
  · rename_i hv
    exact ⟨above_put v h.1 (by simp), all_put (p := fun x => decide (x ≠ d)) h.2 (by simp [hv])⟩

end Sys2Proof.Machine.Tbl

namespace Sys2Proof.Machine.Memory

/-! ## Bytes -/

theorem write_wf {m : Tbl Byte} (a : Nat) (l : List Byte) (h : Tbl.wf (0 : Byte) m = true) :
    Tbl.wf (0 : Byte) (write m a l) = true := by
  induction l generalizing m a with
  | nil => exact h
  | cons b r ih => exact ih (a + 1) (Tbl.wf_set a b h)

/-- A write leaves every byte outside it alone. -/
theorem byte_write_outside (m : Tbl Byte) (a : Nat) (l : List Byte) (x : Nat) (h : x < a ∨ a + l.length ≤ x) :
    byte (write m a l) x = byte m x := by
  induction l generalizing m a with
  | nil => rfl
  | cons b r ih =>
    simp only [List.length_cons] at h
    have h1 : byte (write (Tbl.set 0 m a b) (a + 1) r) x = byte (Tbl.set 0 m a b) x := ih _ _ (by omega)
    have h2 : a ≠ x := by omega
    simpa [write, byte, Tbl.get_set, h2] using h1

/-- A read after a write gives the bytes written. -/
theorem byte_write_inside (m : Tbl Byte) (a : Nat) (l : List Byte) (i : Nat) (h : i < l.length) :
    byte (write m a l) (a + i) = l.getD i 0 := by
  induction l generalizing m a i with
  | nil => simp at h
  | cons b r ih =>
    cases i with
    | zero =>
      have := byte_write_outside (Tbl.set 0 m a b) (a + 1) r a (by omega)
      simp only [write, Nat.add_zero, this]
      simp [byte]
    | succ n =>
      have := ih (Tbl.set 0 m a b) (a + 1) n (by simpa using h)
      simp only [write]
      rw [show a + (n + 1) = a + 1 + n by omega, this]
      simp

/-- Reading back what has just been written. -/
theorem bytes_write (m : Tbl Byte) (a : Nat) (l : List Byte) : bytes (write m a l) a l.length = l := by
  apply List.ext_getElem
  · simp [bytes]
  · intro i h1 h2
    simp [bytes, byte_write_inside m a l i h2, List.getD_eq_getElem?_getD, h2]

end Sys2Proof.Machine.Memory
end

