-- ==== Sys2Proof/Laws/State.lean ====
section
/-! SUPPORT. The fields of a state after the updates of Base and Regs: one lemma for each field of each update. -/
namespace Sys2Proof.Machine.State

/-! ## modThread -/

@[simp] theorem modThread_tick (s : State) (t : ThreadRef) (f : Thread → Thread) : (s.modThread t f).tick = s.tick := rfl
@[simp] theorem modThread_fresh (s : State) (t : ThreadRef) (f : Thread → Thread) : (s.modThread t f).fresh = s.fresh := rfl
@[simp] theorem modThread_agenda (s : State) (t : ThreadRef) (f : Thread → Thread) : (s.modThread t f).agenda = s.agenda := rfl
@[simp] theorem modThread_actor (s : State) (t : ThreadRef) (f : Thread → Thread) : (s.modThread t f).actor = s.actor := rfl
@[simp] theorem modThread_collect (s : State) (t : ThreadRef) (f : Thread → Thread) : (s.modThread t f).collect = s.collect := rfl
@[simp] theorem modThread_touched (s : State) (t : ThreadRef) (f : Thread → Thread) : (s.modThread t f).touched = s.touched := rfl
@[simp] theorem modThread_powered (s : State) (t : ThreadRef) (f : Thread → Thread) : (s.modThread t f).powered = s.powered := rfl
@[simp] theorem modThread_boot (s : State) (t : ThreadRef) (f : Thread → Thread) : (s.modThread t f).boot = s.boot := rfl
@[simp] theorem modThread_memReady (s : State) (t : ThreadRef) (f : Thread → Thread) : (s.modThread t f).memReady = s.memReady := rfl
@[simp] theorem modThread_bootFail (s : State) (t : ThreadRef) (f : Thread → Thread) : (s.modThread t f).bootFail = s.bootFail := rfl
@[simp] theorem modThread_replace (s : State) (t : ThreadRef) (f : Thread → Thread) : (s.modThread t f).replace = s.replace := rfl
@[simp] theorem modThread_degraded (s : State) (t : ThreadRef) (f : Thread → Thread) : (s.modThread t f).degraded = s.degraded := rfl
@[simp] theorem modThread_fencedCores (s : State) (t : ThreadRef) (f : Thread → Thread) : (s.modThread t f).fencedCores = s.fencedCores := rfl
@[simp] theorem modThread_fencedSlices (s : State) (t : ThreadRef) (f : Thread → Thread) : (s.modThread t f).fencedSlices = s.fencedSlices := rfl
@[simp] theorem modThread_fencedPorts (s : State) (t : ThreadRef) (f : Thread → Thread) : (s.modThread t f).fencedPorts = s.fencedPorts := rfl
@[simp] theorem modThread_corrected (s : State) (t : ThreadRef) (f : Thread → Thread) : (s.modThread t f).corrected = s.corrected := rfl
@[simp] theorem modThread_uncorrected (s : State) (t : ThreadRef) (f : Thread → Thread) : (s.modThread t f).uncorrected = s.uncorrected := rfl
@[simp] theorem modThread_firmwareHash (s : State) (t : ThreadRef) (f : Thread → Thread) : (s.modThread t f).firmwareHash = s.firmwareHash := rfl
@[simp] theorem modThread_clockBase (s : State) (t : ThreadRef) (f : Thread → Thread) : (s.modThread t f).clockBase = s.clockBase := rfl
@[simp] theorem modThread_gregs (s : State) (t : ThreadRef) (f : Thread → Thread) : (s.modThread t f).gregs = s.gregs := rfl
@[simp] theorem modThread_fregs (s : State) (t : ThreadRef) (f : Thread → Thread) : (s.modThread t f).fregs = s.fregs := rfl
@[simp] theorem modThread_buckets (s : State) (t : ThreadRef) (f : Thread → Thread) : (s.modThread t f).buckets = s.buckets := rfl
@[simp] theorem modThread_mem (s : State) (t : ThreadRef) (f : Thread → Thread) : (s.modThread t f).mem = s.mem := rfl
@[simp] theorem modThread_hostMem (s : State) (t : ThreadRef) (f : Thread → Thread) : (s.modThread t f).hostMem = s.hostMem := rfl
@[simp] theorem modThread_metas (s : State) (t : ThreadRef) (f : Thread → Thread) : (s.modThread t f).metas = s.metas := rfl
@[simp] theorem modThread_slices (s : State) (t : ThreadRef) (f : Thread → Thread) : (s.modThread t f).slices = s.slices := rfl
@[simp] theorem modThread_plru (s : State) (t : ThreadRef) (f : Thread → Thread) : (s.modThread t f).plru = s.plru := rfl
@[simp] theorem modThread_l1 (s : State) (t : ThreadRef) (f : Thread → Thread) : (s.modThread t f).l1 = s.l1 := rfl
@[simp] theorem modThread_regq (s : State) (t : ThreadRef) (f : Thread → Thread) : (s.modThread t f).regq = s.regq := rfl
@[simp] theorem modThread_hostq (s : State) (t : ThreadRef) (f : Thread → Thread) : (s.modThread t f).hostq = s.hostq := rfl
@[simp] theorem modThread_nextStore (s : State) (t : ThreadRef) (f : Thread → Thread) : (s.modThread t f).nextStore = s.nextStore := rfl
@[simp] theorem modThread_spills (s : State) (t : ThreadRef) (f : Thread → Thread) : (s.modThread t f).spills = s.spills := rfl
@[simp] theorem modThread_ctxs (s : State) (t : ThreadRef) (f : Thread → Thread) : (s.modThread t f).ctxs = s.ctxs := rfl
@[simp] theorem modThread_tlbs (s : State) (t : ThreadRef) (f : Thread → Thread) : (s.modThread t f).tlbs = s.tlbs := rfl
@[simp] theorem modThread_twe (s : State) (t : ThreadRef) (f : Thread → Thread) : (s.modThread t f).twe = s.twe := rfl
@[simp] theorem modThread_peerCache (s : State) (t : ThreadRef) (f : Thread → Thread) : (s.modThread t f).peerCache = s.peerCache := rfl
@[simp] theorem modThread_atc (s : State) (t : ThreadRef) (f : Thread → Thread) : (s.modThread t f).atc = s.atc := rfl
@[simp] theorem modThread_atsPending (s : State) (t : ThreadRef) (f : Thread → Thread) : (s.modThread t f).atsPending = s.atsPending := rfl
@[simp] theorem modThread_priPending (s : State) (t : ThreadRef) (f : Thread → Thread) : (s.modThread t f).priPending = s.priPending := rfl
@[simp] theorem modThread_priDenied (s : State) (t : ThreadRef) (f : Thread → Thread) : (s.modThread t f).priDenied = s.priDenied := rfl
@[simp] theorem modThread_invals (s : State) (t : ThreadRef) (f : Thread → Thread) : (s.modThread t f).invals = s.invals := rfl
@[simp] theorem modThread_heldSignals (s : State) (t : ThreadRef) (f : Thread → Thread) : (s.modThread t f).heldSignals = s.heldSignals := rfl
@[simp] theorem modThread_counts (s : State) (t : ThreadRef) (f : Thread → Thread) : (s.modThread t f).counts = s.counts := rfl
@[simp] theorem modThread_regions (s : State) (t : ThreadRef) (f : Thread → Thread) : (s.modThread t f).regions = s.regions := rfl
@[simp] theorem modThread_migrations (s : State) (t : ThreadRef) (f : Thread → Thread) : (s.modThread t f).migrations = s.migrations := rfl
@[simp] theorem modThread_replicas (s : State) (t : ThreadRef) (f : Thread → Thread) : (s.modThread t f).replicas = s.replicas := rfl
@[simp] theorem modThread_plogSeq (s : State) (t : ThreadRef) (f : Thread → Thread) : (s.modThread t f).plogSeq = s.plogSeq := rfl
@[simp] theorem modThread_epochs (s : State) (t : ThreadRef) (f : Thread → Thread) : (s.modThread t f).epochs = s.epochs := rfl
@[simp] theorem modThread_tokens (s : State) (t : ThreadRef) (f : Thread → Thread) : (s.modThread t f).tokens = s.tokens := rfl
@[simp] theorem modThread_nextToken (s : State) (t : ThreadRef) (f : Thread → Thread) : (s.modThread t f).nextToken = s.nextToken := rfl
@[simp] theorem modThread_heldPage (s : State) (t : ThreadRef) (f : Thread → Thread) : (s.modThread t f).heldPage = s.heldPage := rfl
@[simp] theorem modThread_locks (s : State) (t : ThreadRef) (f : Thread → Thread) : (s.modThread t f).locks = s.locks := rfl
@[simp] theorem modThread_launchSeq (s : State) (t : ThreadRef) (f : Thread → Thread) : (s.modThread t f).launchSeq = s.launchSeq := rfl
@[simp] theorem modThread_pending (s : State) (t : ThreadRef) (f : Thread → Thread) : (s.modThread t f).pending = s.pending := rfl
@[simp] theorem modThread_taken (s : State) (t : ThreadRef) (f : Thread → Thread) : (s.modThread t f).taken = s.taken := rfl
@[simp] theorem modThread_arbPtr (s : State) (t : ThreadRef) (f : Thread → Thread) : (s.modThread t f).arbPtr = s.arbPtr := rfl
@[simp] theorem modThread_arbCr (s : State) (t : ThreadRef) (f : Thread → Thread) : (s.modThread t f).arbCr = s.arbCr := rfl
@[simp] theorem modThread_lastQ (s : State) (t : ThreadRef) (f : Thread → Thread) : (s.modThread t f).lastQ = s.lastQ := rfl
@[simp] theorem modThread_launches (s : State) (t : ThreadRef) (f : Thread → Thread) : (s.modThread t f).launches = s.launches := rfl
@[simp] theorem modThread_tasks (s : State) (t : ThreadRef) (f : Thread → Thread) : (s.modThread t f).tasks = s.tasks := rfl
@[simp] theorem modThread_gates (s : State) (t : ThreadRef) (f : Thread → Thread) : (s.modThread t f).gates = s.gates := rfl
@[simp] theorem modThread_tracker (s : State) (t : ThreadRef) (f : Thread → Thread) : (s.modThread t f).tracker = s.tracker := rfl
@[simp] theorem modThread_layouts (s : State) (t : ThreadRef) (f : Thread → Thread) : (s.modThread t f).layouts = s.layouts := rfl
@[simp] theorem modThread_engines (s : State) (t : ThreadRef) (f : Thread → Thread) : (s.modThread t f).engines = s.engines := rfl
@[simp] theorem modThread_nextEngine (s : State) (t : ThreadRef) (f : Thread → Thread) : (s.modThread t f).nextEngine = s.nextEngine := rfl
@[simp] theorem modThread_tmems (s : State) (t : ThreadRef) (f : Thread → Thread) : (s.modThread t f).tmems = s.tmems := rfl
@[simp] theorem modThread_counters (s : State) (t : ThreadRef) (f : Thread → Thread) : (s.modThread t f).counters = s.counters := rfl
@[simp] theorem modThread_armed (s : State) (t : ThreadRef) (f : Thread → Thread) : (s.modThread t f).armed = s.armed := rfl
@[simp] theorem modThread_fabricOut (s : State) (t : ThreadRef) (f : Thread → Thread) : (s.modThread t f).fabricOut = s.fabricOut := rfl
@[simp] theorem modThread_responses (s : State) (t : ThreadRef) (f : Thread → Thread) : (s.modThread t f).responses = s.responses := rfl
@[simp] theorem modThread_arrivals (s : State) (t : ThreadRef) (f : Thread → Thread) : (s.modThread t f).arrivals = s.arrivals := rfl
@[simp] theorem modThread_exchange (s : State) (t : ThreadRef) (f : Thread → Thread) : (s.modThread t f).exchange = s.exchange := rfl
@[simp] theorem modThread_readies (s : State) (t : ThreadRef) (f : Thread → Thread) : (s.modThread t f).readies = s.readies := rfl
@[simp] theorem modThread_linksDown (s : State) (t : ThreadRef) (f : Thread → Thread) : (s.modThread t f).linksDown = s.linksDown := rfl
@[simp] theorem modThread_grants (s : State) (t : ThreadRef) (f : Thread → Thread) : (s.modThread t f).grants = s.grants := rfl
@[simp] theorem modThread_slots (s : State) (t : ThreadRef) (f : Thread → Thread) : (s.modThread t f).slots = s.slots := rfl
@[simp] theorem modThread_ctxts (s : State) (t : ThreadRef) (f : Thread → Thread) : (s.modThread t f).ctxts = s.ctxts := rfl
@[simp] theorem modThread_lastCtx (s : State) (t : ThreadRef) (f : Thread → Thread) : (s.modThread t f).lastCtx = s.lastCtx := rfl
@[simp] theorem modThread_sepalQ (s : State) (t : ThreadRef) (f : Thread → Thread) : (s.modThread t f).sepalQ = s.sepalQ := rfl
@[simp] theorem modThread_hostRead (s : State) (t : ThreadRef) (f : Thread → Thread) : (s.modThread t f).hostRead = s.hostRead := rfl

/-! ## modTask -/

@[simp] theorem modTask_tick (s : State) (a : Nat) (f : Task → Task) : (s.modTask a f).tick = s.tick := rfl
@[simp] theorem modTask_fresh (s : State) (a : Nat) (f : Task → Task) : (s.modTask a f).fresh = s.fresh := rfl
@[simp] theorem modTask_agenda (s : State) (a : Nat) (f : Task → Task) : (s.modTask a f).agenda = s.agenda := rfl
@[simp] theorem modTask_actor (s : State) (a : Nat) (f : Task → Task) : (s.modTask a f).actor = s.actor := rfl
@[simp] theorem modTask_collect (s : State) (a : Nat) (f : Task → Task) : (s.modTask a f).collect = s.collect := rfl
@[simp] theorem modTask_touched (s : State) (a : Nat) (f : Task → Task) : (s.modTask a f).touched = s.touched := rfl
@[simp] theorem modTask_powered (s : State) (a : Nat) (f : Task → Task) : (s.modTask a f).powered = s.powered := rfl
@[simp] theorem modTask_boot (s : State) (a : Nat) (f : Task → Task) : (s.modTask a f).boot = s.boot := rfl
@[simp] theorem modTask_memReady (s : State) (a : Nat) (f : Task → Task) : (s.modTask a f).memReady = s.memReady := rfl
@[simp] theorem modTask_bootFail (s : State) (a : Nat) (f : Task → Task) : (s.modTask a f).bootFail = s.bootFail := rfl
@[simp] theorem modTask_replace (s : State) (a : Nat) (f : Task → Task) : (s.modTask a f).replace = s.replace := rfl
@[simp] theorem modTask_degraded (s : State) (a : Nat) (f : Task → Task) : (s.modTask a f).degraded = s.degraded := rfl
@[simp] theorem modTask_fencedCores (s : State) (a : Nat) (f : Task → Task) : (s.modTask a f).fencedCores = s.fencedCores := rfl
@[simp] theorem modTask_fencedSlices (s : State) (a : Nat) (f : Task → Task) : (s.modTask a f).fencedSlices = s.fencedSlices := rfl
@[simp] theorem modTask_fencedPorts (s : State) (a : Nat) (f : Task → Task) : (s.modTask a f).fencedPorts = s.fencedPorts := rfl
@[simp] theorem modTask_corrected (s : State) (a : Nat) (f : Task → Task) : (s.modTask a f).corrected = s.corrected := rfl
@[simp] theorem modTask_uncorrected (s : State) (a : Nat) (f : Task → Task) : (s.modTask a f).uncorrected = s.uncorrected := rfl
@[simp] theorem modTask_firmwareHash (s : State) (a : Nat) (f : Task → Task) : (s.modTask a f).firmwareHash = s.firmwareHash := rfl
@[simp] theorem modTask_clockBase (s : State) (a : Nat) (f : Task → Task) : (s.modTask a f).clockBase = s.clockBase := rfl
@[simp] theorem modTask_gregs (s : State) (a : Nat) (f : Task → Task) : (s.modTask a f).gregs = s.gregs := rfl
@[simp] theorem modTask_fregs (s : State) (a : Nat) (f : Task → Task) : (s.modTask a f).fregs = s.fregs := rfl
@[simp] theorem modTask_buckets (s : State) (a : Nat) (f : Task → Task) : (s.modTask a f).buckets = s.buckets := rfl
@[simp] theorem modTask_mem (s : State) (a : Nat) (f : Task → Task) : (s.modTask a f).mem = s.mem := rfl
@[simp] theorem modTask_hostMem (s : State) (a : Nat) (f : Task → Task) : (s.modTask a f).hostMem = s.hostMem := rfl
@[simp] theorem modTask_metas (s : State) (a : Nat) (f : Task → Task) : (s.modTask a f).metas = s.metas := rfl
@[simp] theorem modTask_slices (s : State) (a : Nat) (f : Task → Task) : (s.modTask a f).slices = s.slices := rfl
@[simp] theorem modTask_plru (s : State) (a : Nat) (f : Task → Task) : (s.modTask a f).plru = s.plru := rfl
@[simp] theorem modTask_l1 (s : State) (a : Nat) (f : Task → Task) : (s.modTask a f).l1 = s.l1 := rfl
@[simp] theorem modTask_regq (s : State) (a : Nat) (f : Task → Task) : (s.modTask a f).regq = s.regq := rfl
@[simp] theorem modTask_hostq (s : State) (a : Nat) (f : Task → Task) : (s.modTask a f).hostq = s.hostq := rfl
@[simp] theorem modTask_nextStore (s : State) (a : Nat) (f : Task → Task) : (s.modTask a f).nextStore = s.nextStore := rfl
@[simp] theorem modTask_spills (s : State) (a : Nat) (f : Task → Task) : (s.modTask a f).spills = s.spills := rfl
@[simp] theorem modTask_ctxs (s : State) (a : Nat) (f : Task → Task) : (s.modTask a f).ctxs = s.ctxs := rfl
@[simp] theorem modTask_tlbs (s : State) (a : Nat) (f : Task → Task) : (s.modTask a f).tlbs = s.tlbs := rfl
@[simp] theorem modTask_twe (s : State) (a : Nat) (f : Task → Task) : (s.modTask a f).twe = s.twe := rfl
@[simp] theorem modTask_peerCache (s : State) (a : Nat) (f : Task → Task) : (s.modTask a f).peerCache = s.peerCache := rfl
@[simp] theorem modTask_atc (s : State) (a : Nat) (f : Task → Task) : (s.modTask a f).atc = s.atc := rfl
@[simp] theorem modTask_atsPending (s : State) (a : Nat) (f : Task → Task) : (s.modTask a f).atsPending = s.atsPending := rfl
@[simp] theorem modTask_priPending (s : State) (a : Nat) (f : Task → Task) : (s.modTask a f).priPending = s.priPending := rfl
@[simp] theorem modTask_priDenied (s : State) (a : Nat) (f : Task → Task) : (s.modTask a f).priDenied = s.priDenied := rfl
@[simp] theorem modTask_invals (s : State) (a : Nat) (f : Task → Task) : (s.modTask a f).invals = s.invals := rfl
@[simp] theorem modTask_heldSignals (s : State) (a : Nat) (f : Task → Task) : (s.modTask a f).heldSignals = s.heldSignals := rfl
@[simp] theorem modTask_counts (s : State) (a : Nat) (f : Task → Task) : (s.modTask a f).counts = s.counts := rfl
@[simp] theorem modTask_regions (s : State) (a : Nat) (f : Task → Task) : (s.modTask a f).regions = s.regions := rfl
@[simp] theorem modTask_migrations (s : State) (a : Nat) (f : Task → Task) : (s.modTask a f).migrations = s.migrations := rfl
@[simp] theorem modTask_replicas (s : State) (a : Nat) (f : Task → Task) : (s.modTask a f).replicas = s.replicas := rfl
@[simp] theorem modTask_plogSeq (s : State) (a : Nat) (f : Task → Task) : (s.modTask a f).plogSeq = s.plogSeq := rfl
@[simp] theorem modTask_epochs (s : State) (a : Nat) (f : Task → Task) : (s.modTask a f).epochs = s.epochs := rfl
@[simp] theorem modTask_tokens (s : State) (a : Nat) (f : Task → Task) : (s.modTask a f).tokens = s.tokens := rfl
@[simp] theorem modTask_nextToken (s : State) (a : Nat) (f : Task → Task) : (s.modTask a f).nextToken = s.nextToken := rfl
@[simp] theorem modTask_heldPage (s : State) (a : Nat) (f : Task → Task) : (s.modTask a f).heldPage = s.heldPage := rfl
@[simp] theorem modTask_locks (s : State) (a : Nat) (f : Task → Task) : (s.modTask a f).locks = s.locks := rfl
@[simp] theorem modTask_launchSeq (s : State) (a : Nat) (f : Task → Task) : (s.modTask a f).launchSeq = s.launchSeq := rfl
@[simp] theorem modTask_pending (s : State) (a : Nat) (f : Task → Task) : (s.modTask a f).pending = s.pending := rfl
@[simp] theorem modTask_taken (s : State) (a : Nat) (f : Task → Task) : (s.modTask a f).taken = s.taken := rfl
@[simp] theorem modTask_arbPtr (s : State) (a : Nat) (f : Task → Task) : (s.modTask a f).arbPtr = s.arbPtr := rfl
@[simp] theorem modTask_arbCr (s : State) (a : Nat) (f : Task → Task) : (s.modTask a f).arbCr = s.arbCr := rfl
@[simp] theorem modTask_lastQ (s : State) (a : Nat) (f : Task → Task) : (s.modTask a f).lastQ = s.lastQ := rfl
@[simp] theorem modTask_launches (s : State) (a : Nat) (f : Task → Task) : (s.modTask a f).launches = s.launches := rfl
@[simp] theorem modTask_threads (s : State) (a : Nat) (f : Task → Task) : (s.modTask a f).threads = s.threads := rfl
@[simp] theorem modTask_gates (s : State) (a : Nat) (f : Task → Task) : (s.modTask a f).gates = s.gates := rfl
@[simp] theorem modTask_tracker (s : State) (a : Nat) (f : Task → Task) : (s.modTask a f).tracker = s.tracker := rfl
@[simp] theorem modTask_layouts (s : State) (a : Nat) (f : Task → Task) : (s.modTask a f).layouts = s.layouts := rfl
@[simp] theorem modTask_engines (s : State) (a : Nat) (f : Task → Task) : (s.modTask a f).engines = s.engines := rfl
@[simp] theorem modTask_nextEngine (s : State) (a : Nat) (f : Task → Task) : (s.modTask a f).nextEngine = s.nextEngine := rfl
@[simp] theorem modTask_tmems (s : State) (a : Nat) (f : Task → Task) : (s.modTask a f).tmems = s.tmems := rfl
@[simp] theorem modTask_counters (s : State) (a : Nat) (f : Task → Task) : (s.modTask a f).counters = s.counters := rfl
@[simp] theorem modTask_armed (s : State) (a : Nat) (f : Task → Task) : (s.modTask a f).armed = s.armed := rfl
@[simp] theorem modTask_fabricOut (s : State) (a : Nat) (f : Task → Task) : (s.modTask a f).fabricOut = s.fabricOut := rfl
@[simp] theorem modTask_responses (s : State) (a : Nat) (f : Task → Task) : (s.modTask a f).responses = s.responses := rfl
@[simp] theorem modTask_arrivals (s : State) (a : Nat) (f : Task → Task) : (s.modTask a f).arrivals = s.arrivals := rfl
@[simp] theorem modTask_exchange (s : State) (a : Nat) (f : Task → Task) : (s.modTask a f).exchange = s.exchange := rfl
@[simp] theorem modTask_readies (s : State) (a : Nat) (f : Task → Task) : (s.modTask a f).readies = s.readies := rfl
@[simp] theorem modTask_linksDown (s : State) (a : Nat) (f : Task → Task) : (s.modTask a f).linksDown = s.linksDown := rfl
@[simp] theorem modTask_grants (s : State) (a : Nat) (f : Task → Task) : (s.modTask a f).grants = s.grants := rfl
@[simp] theorem modTask_slots (s : State) (a : Nat) (f : Task → Task) : (s.modTask a f).slots = s.slots := rfl
@[simp] theorem modTask_ctxts (s : State) (a : Nat) (f : Task → Task) : (s.modTask a f).ctxts = s.ctxts := rfl
@[simp] theorem modTask_lastCtx (s : State) (a : Nat) (f : Task → Task) : (s.modTask a f).lastCtx = s.lastCtx := rfl
@[simp] theorem modTask_sepalQ (s : State) (a : Nat) (f : Task → Task) : (s.modTask a f).sepalQ = s.sepalQ := rfl
@[simp] theorem modTask_hostRead (s : State) (a : Nat) (f : Task → Task) : (s.modTask a f).hostRead = s.hostRead := rfl

/-! ## modLaunch -/

@[simp] theorem modLaunch_tick (s : State) (l : Nat) (f : Launch → Launch) : (s.modLaunch l f).tick = s.tick := rfl
@[simp] theorem modLaunch_fresh (s : State) (l : Nat) (f : Launch → Launch) : (s.modLaunch l f).fresh = s.fresh := rfl
@[simp] theorem modLaunch_agenda (s : State) (l : Nat) (f : Launch → Launch) : (s.modLaunch l f).agenda = s.agenda := rfl
@[simp] theorem modLaunch_actor (s : State) (l : Nat) (f : Launch → Launch) : (s.modLaunch l f).actor = s.actor := rfl
@[simp] theorem modLaunch_collect (s : State) (l : Nat) (f : Launch → Launch) : (s.modLaunch l f).collect = s.collect := rfl
@[simp] theorem modLaunch_touched (s : State) (l : Nat) (f : Launch → Launch) : (s.modLaunch l f).touched = s.touched := rfl
@[simp] theorem modLaunch_powered (s : State) (l : Nat) (f : Launch → Launch) : (s.modLaunch l f).powered = s.powered := rfl
@[simp] theorem modLaunch_boot (s : State) (l : Nat) (f : Launch → Launch) : (s.modLaunch l f).boot = s.boot := rfl
@[simp] theorem modLaunch_memReady (s : State) (l : Nat) (f : Launch → Launch) : (s.modLaunch l f).memReady = s.memReady := rfl
@[simp] theorem modLaunch_bootFail (s : State) (l : Nat) (f : Launch → Launch) : (s.modLaunch l f).bootFail = s.bootFail := rfl
@[simp] theorem modLaunch_replace (s : State) (l : Nat) (f : Launch → Launch) : (s.modLaunch l f).replace = s.replace := rfl
@[simp] theorem modLaunch_degraded (s : State) (l : Nat) (f : Launch → Launch) : (s.modLaunch l f).degraded = s.degraded := rfl
@[simp] theorem modLaunch_fencedCores (s : State) (l : Nat) (f : Launch → Launch) : (s.modLaunch l f).fencedCores = s.fencedCores := rfl
@[simp] theorem modLaunch_fencedSlices (s : State) (l : Nat) (f : Launch → Launch) : (s.modLaunch l f).fencedSlices = s.fencedSlices := rfl
@[simp] theorem modLaunch_fencedPorts (s : State) (l : Nat) (f : Launch → Launch) : (s.modLaunch l f).fencedPorts = s.fencedPorts := rfl
@[simp] theorem modLaunch_corrected (s : State) (l : Nat) (f : Launch → Launch) : (s.modLaunch l f).corrected = s.corrected := rfl
@[simp] theorem modLaunch_uncorrected (s : State) (l : Nat) (f : Launch → Launch) : (s.modLaunch l f).uncorrected = s.uncorrected := rfl
@[simp] theorem modLaunch_firmwareHash (s : State) (l : Nat) (f : Launch → Launch) : (s.modLaunch l f).firmwareHash = s.firmwareHash := rfl
@[simp] theorem modLaunch_clockBase (s : State) (l : Nat) (f : Launch → Launch) : (s.modLaunch l f).clockBase = s.clockBase := rfl
@[simp] theorem modLaunch_gregs (s : State) (l : Nat) (f : Launch → Launch) : (s.modLaunch l f).gregs = s.gregs := rfl
@[simp] theorem modLaunch_fregs (s : State) (l : Nat) (f : Launch → Launch) : (s.modLaunch l f).fregs = s.fregs := rfl
@[simp] theorem modLaunch_buckets (s : State) (l : Nat) (f : Launch → Launch) : (s.modLaunch l f).buckets = s.buckets := rfl
@[simp] theorem modLaunch_mem (s : State) (l : Nat) (f : Launch → Launch) : (s.modLaunch l f).mem = s.mem := rfl
@[simp] theorem modLaunch_hostMem (s : State) (l : Nat) (f : Launch → Launch) : (s.modLaunch l f).hostMem = s.hostMem := rfl
@[simp] theorem modLaunch_metas (s : State) (l : Nat) (f : Launch → Launch) : (s.modLaunch l f).metas = s.metas := rfl
@[simp] theorem modLaunch_slices (s : State) (l : Nat) (f : Launch → Launch) : (s.modLaunch l f).slices = s.slices := rfl
@[simp] theorem modLaunch_plru (s : State) (l : Nat) (f : Launch → Launch) : (s.modLaunch l f).plru = s.plru := rfl
@[simp] theorem modLaunch_l1 (s : State) (l : Nat) (f : Launch → Launch) : (s.modLaunch l f).l1 = s.l1 := rfl
@[simp] theorem modLaunch_regq (s : State) (l : Nat) (f : Launch → Launch) : (s.modLaunch l f).regq = s.regq := rfl
@[simp] theorem modLaunch_hostq (s : State) (l : Nat) (f : Launch → Launch) : (s.modLaunch l f).hostq = s.hostq := rfl
@[simp] theorem modLaunch_nextStore (s : State) (l : Nat) (f : Launch → Launch) : (s.modLaunch l f).nextStore = s.nextStore := rfl
@[simp] theorem modLaunch_spills (s : State) (l : Nat) (f : Launch → Launch) : (s.modLaunch l f).spills = s.spills := rfl
@[simp] theorem modLaunch_ctxs (s : State) (l : Nat) (f : Launch → Launch) : (s.modLaunch l f).ctxs = s.ctxs := rfl
@[simp] theorem modLaunch_tlbs (s : State) (l : Nat) (f : Launch → Launch) : (s.modLaunch l f).tlbs = s.tlbs := rfl
@[simp] theorem modLaunch_twe (s : State) (l : Nat) (f : Launch → Launch) : (s.modLaunch l f).twe = s.twe := rfl
@[simp] theorem modLaunch_peerCache (s : State) (l : Nat) (f : Launch → Launch) : (s.modLaunch l f).peerCache = s.peerCache := rfl
@[simp] theorem modLaunch_atc (s : State) (l : Nat) (f : Launch → Launch) : (s.modLaunch l f).atc = s.atc := rfl
@[simp] theorem modLaunch_atsPending (s : State) (l : Nat) (f : Launch → Launch) : (s.modLaunch l f).atsPending = s.atsPending := rfl
@[simp] theorem modLaunch_priPending (s : State) (l : Nat) (f : Launch → Launch) : (s.modLaunch l f).priPending = s.priPending := rfl
@[simp] theorem modLaunch_priDenied (s : State) (l : Nat) (f : Launch → Launch) : (s.modLaunch l f).priDenied = s.priDenied := rfl
@[simp] theorem modLaunch_invals (s : State) (l : Nat) (f : Launch → Launch) : (s.modLaunch l f).invals = s.invals := rfl
@[simp] theorem modLaunch_heldSignals (s : State) (l : Nat) (f : Launch → Launch) : (s.modLaunch l f).heldSignals = s.heldSignals := rfl
@[simp] theorem modLaunch_counts (s : State) (l : Nat) (f : Launch → Launch) : (s.modLaunch l f).counts = s.counts := rfl
@[simp] theorem modLaunch_regions (s : State) (l : Nat) (f : Launch → Launch) : (s.modLaunch l f).regions = s.regions := rfl
@[simp] theorem modLaunch_migrations (s : State) (l : Nat) (f : Launch → Launch) : (s.modLaunch l f).migrations = s.migrations := rfl
@[simp] theorem modLaunch_replicas (s : State) (l : Nat) (f : Launch → Launch) : (s.modLaunch l f).replicas = s.replicas := rfl
@[simp] theorem modLaunch_plogSeq (s : State) (l : Nat) (f : Launch → Launch) : (s.modLaunch l f).plogSeq = s.plogSeq := rfl
@[simp] theorem modLaunch_epochs (s : State) (l : Nat) (f : Launch → Launch) : (s.modLaunch l f).epochs = s.epochs := rfl
@[simp] theorem modLaunch_tokens (s : State) (l : Nat) (f : Launch → Launch) : (s.modLaunch l f).tokens = s.tokens := rfl
@[simp] theorem modLaunch_nextToken (s : State) (l : Nat) (f : Launch → Launch) : (s.modLaunch l f).nextToken = s.nextToken := rfl
@[simp] theorem modLaunch_heldPage (s : State) (l : Nat) (f : Launch → Launch) : (s.modLaunch l f).heldPage = s.heldPage := rfl
@[simp] theorem modLaunch_locks (s : State) (l : Nat) (f : Launch → Launch) : (s.modLaunch l f).locks = s.locks := rfl
@[simp] theorem modLaunch_launchSeq (s : State) (l : Nat) (f : Launch → Launch) : (s.modLaunch l f).launchSeq = s.launchSeq := rfl
@[simp] theorem modLaunch_pending (s : State) (l : Nat) (f : Launch → Launch) : (s.modLaunch l f).pending = s.pending := rfl
@[simp] theorem modLaunch_taken (s : State) (l : Nat) (f : Launch → Launch) : (s.modLaunch l f).taken = s.taken := rfl
@[simp] theorem modLaunch_arbPtr (s : State) (l : Nat) (f : Launch → Launch) : (s.modLaunch l f).arbPtr = s.arbPtr := rfl
@[simp] theorem modLaunch_arbCr (s : State) (l : Nat) (f : Launch → Launch) : (s.modLaunch l f).arbCr = s.arbCr := rfl
@[simp] theorem modLaunch_lastQ (s : State) (l : Nat) (f : Launch → Launch) : (s.modLaunch l f).lastQ = s.lastQ := rfl
@[simp] theorem modLaunch_tasks (s : State) (l : Nat) (f : Launch → Launch) : (s.modLaunch l f).tasks = s.tasks := rfl
@[simp] theorem modLaunch_threads (s : State) (l : Nat) (f : Launch → Launch) : (s.modLaunch l f).threads = s.threads := rfl
@[simp] theorem modLaunch_gates (s : State) (l : Nat) (f : Launch → Launch) : (s.modLaunch l f).gates = s.gates := rfl
@[simp] theorem modLaunch_tracker (s : State) (l : Nat) (f : Launch → Launch) : (s.modLaunch l f).tracker = s.tracker := rfl
@[simp] theorem modLaunch_layouts (s : State) (l : Nat) (f : Launch → Launch) : (s.modLaunch l f).layouts = s.layouts := rfl
@[simp] theorem modLaunch_engines (s : State) (l : Nat) (f : Launch → Launch) : (s.modLaunch l f).engines = s.engines := rfl
@[simp] theorem modLaunch_nextEngine (s : State) (l : Nat) (f : Launch → Launch) : (s.modLaunch l f).nextEngine = s.nextEngine := rfl
@[simp] theorem modLaunch_tmems (s : State) (l : Nat) (f : Launch → Launch) : (s.modLaunch l f).tmems = s.tmems := rfl
@[simp] theorem modLaunch_counters (s : State) (l : Nat) (f : Launch → Launch) : (s.modLaunch l f).counters = s.counters := rfl
@[simp] theorem modLaunch_armed (s : State) (l : Nat) (f : Launch → Launch) : (s.modLaunch l f).armed = s.armed := rfl
@[simp] theorem modLaunch_fabricOut (s : State) (l : Nat) (f : Launch → Launch) : (s.modLaunch l f).fabricOut = s.fabricOut := rfl
@[simp] theorem modLaunch_responses (s : State) (l : Nat) (f : Launch → Launch) : (s.modLaunch l f).responses = s.responses := rfl
@[simp] theorem modLaunch_arrivals (s : State) (l : Nat) (f : Launch → Launch) : (s.modLaunch l f).arrivals = s.arrivals := rfl
@[simp] theorem modLaunch_exchange (s : State) (l : Nat) (f : Launch → Launch) : (s.modLaunch l f).exchange = s.exchange := rfl
@[simp] theorem modLaunch_readies (s : State) (l : Nat) (f : Launch → Launch) : (s.modLaunch l f).readies = s.readies := rfl
@[simp] theorem modLaunch_linksDown (s : State) (l : Nat) (f : Launch → Launch) : (s.modLaunch l f).linksDown = s.linksDown := rfl
@[simp] theorem modLaunch_grants (s : State) (l : Nat) (f : Launch → Launch) : (s.modLaunch l f).grants = s.grants := rfl
@[simp] theorem modLaunch_slots (s : State) (l : Nat) (f : Launch → Launch) : (s.modLaunch l f).slots = s.slots := rfl
@[simp] theorem modLaunch_ctxts (s : State) (l : Nat) (f : Launch → Launch) : (s.modLaunch l f).ctxts = s.ctxts := rfl
@[simp] theorem modLaunch_lastCtx (s : State) (l : Nat) (f : Launch → Launch) : (s.modLaunch l f).lastCtx = s.lastCtx := rfl
@[simp] theorem modLaunch_sepalQ (s : State) (l : Nat) (f : Launch → Launch) : (s.modLaunch l f).sepalQ = s.sepalQ := rfl
@[simp] theorem modLaunch_hostRead (s : State) (l : Nat) (f : Launch → Launch) : (s.modLaunch l f).hostRead = s.hostRead := rfl

/-! ## setGreg -/

@[simp] theorem setGreg_tick (s : State) (r : GReg) (v : DWord) : (s.setGreg r v).tick = s.tick := rfl
@[simp] theorem setGreg_fresh (s : State) (r : GReg) (v : DWord) : (s.setGreg r v).fresh = s.fresh := rfl
@[simp] theorem setGreg_agenda (s : State) (r : GReg) (v : DWord) : (s.setGreg r v).agenda = s.agenda := rfl
@[simp] theorem setGreg_actor (s : State) (r : GReg) (v : DWord) : (s.setGreg r v).actor = s.actor := rfl
@[simp] theorem setGreg_collect (s : State) (r : GReg) (v : DWord) : (s.setGreg r v).collect = s.collect := rfl
@[simp] theorem setGreg_touched (s : State) (r : GReg) (v : DWord) : (s.setGreg r v).touched = s.touched := rfl
@[simp] theorem setGreg_powered (s : State) (r : GReg) (v : DWord) : (s.setGreg r v).powered = s.powered := rfl
@[simp] theorem setGreg_boot (s : State) (r : GReg) (v : DWord) : (s.setGreg r v).boot = s.boot := rfl
@[simp] theorem setGreg_memReady (s : State) (r : GReg) (v : DWord) : (s.setGreg r v).memReady = s.memReady := rfl
@[simp] theorem setGreg_bootFail (s : State) (r : GReg) (v : DWord) : (s.setGreg r v).bootFail = s.bootFail := rfl
@[simp] theorem setGreg_replace (s : State) (r : GReg) (v : DWord) : (s.setGreg r v).replace = s.replace := rfl
@[simp] theorem setGreg_degraded (s : State) (r : GReg) (v : DWord) : (s.setGreg r v).degraded = s.degraded := rfl
@[simp] theorem setGreg_fencedCores (s : State) (r : GReg) (v : DWord) : (s.setGreg r v).fencedCores = s.fencedCores := rfl
@[simp] theorem setGreg_fencedSlices (s : State) (r : GReg) (v : DWord) : (s.setGreg r v).fencedSlices = s.fencedSlices := rfl
@[simp] theorem setGreg_fencedPorts (s : State) (r : GReg) (v : DWord) : (s.setGreg r v).fencedPorts = s.fencedPorts := rfl
@[simp] theorem setGreg_corrected (s : State) (r : GReg) (v : DWord) : (s.setGreg r v).corrected = s.corrected := rfl
@[simp] theorem setGreg_uncorrected (s : State) (r : GReg) (v : DWord) : (s.setGreg r v).uncorrected = s.uncorrected := rfl
@[simp] theorem setGreg_firmwareHash (s : State) (r : GReg) (v : DWord) : (s.setGreg r v).firmwareHash = s.firmwareHash := rfl
@[simp] theorem setGreg_clockBase (s : State) (r : GReg) (v : DWord) : (s.setGreg r v).clockBase = s.clockBase := rfl
@[simp] theorem setGreg_fregs (s : State) (r : GReg) (v : DWord) : (s.setGreg r v).fregs = s.fregs := rfl
@[simp] theorem setGreg_buckets (s : State) (r : GReg) (v : DWord) : (s.setGreg r v).buckets = s.buckets := rfl
@[simp] theorem setGreg_mem (s : State) (r : GReg) (v : DWord) : (s.setGreg r v).mem = s.mem := rfl
@[simp] theorem setGreg_hostMem (s : State) (r : GReg) (v : DWord) : (s.setGreg r v).hostMem = s.hostMem := rfl
@[simp] theorem setGreg_metas (s : State) (r : GReg) (v : DWord) : (s.setGreg r v).metas = s.metas := rfl
@[simp] theorem setGreg_slices (s : State) (r : GReg) (v : DWord) : (s.setGreg r v).slices = s.slices := rfl
@[simp] theorem setGreg_plru (s : State) (r : GReg) (v : DWord) : (s.setGreg r v).plru = s.plru := rfl
@[simp] theorem setGreg_l1 (s : State) (r : GReg) (v : DWord) : (s.setGreg r v).l1 = s.l1 := rfl
@[simp] theorem setGreg_regq (s : State) (r : GReg) (v : DWord) : (s.setGreg r v).regq = s.regq := rfl
@[simp] theorem setGreg_hostq (s : State) (r : GReg) (v : DWord) : (s.setGreg r v).hostq = s.hostq := rfl
@[simp] theorem setGreg_nextStore (s : State) (r : GReg) (v : DWord) : (s.setGreg r v).nextStore = s.nextStore := rfl
@[simp] theorem setGreg_spills (s : State) (r : GReg) (v : DWord) : (s.setGreg r v).spills = s.spills := rfl
@[simp] theorem setGreg_ctxs (s : State) (r : GReg) (v : DWord) : (s.setGreg r v).ctxs = s.ctxs := rfl
@[simp] theorem setGreg_tlbs (s : State) (r : GReg) (v : DWord) : (s.setGreg r v).tlbs = s.tlbs := rfl
@[simp] theorem setGreg_twe (s : State) (r : GReg) (v : DWord) : (s.setGreg r v).twe = s.twe := rfl
@[simp] theorem setGreg_peerCache (s : State) (r : GReg) (v : DWord) : (s.setGreg r v).peerCache = s.peerCache := rfl
@[simp] theorem setGreg_atc (s : State) (r : GReg) (v : DWord) : (s.setGreg r v).atc = s.atc := rfl
@[simp] theorem setGreg_atsPending (s : State) (r : GReg) (v : DWord) : (s.setGreg r v).atsPending = s.atsPending := rfl
@[simp] theorem setGreg_priPending (s : State) (r : GReg) (v : DWord) : (s.setGreg r v).priPending = s.priPending := rfl
@[simp] theorem setGreg_priDenied (s : State) (r : GReg) (v : DWord) : (s.setGreg r v).priDenied = s.priDenied := rfl
@[simp] theorem setGreg_invals (s : State) (r : GReg) (v : DWord) : (s.setGreg r v).invals = s.invals := rfl
@[simp] theorem setGreg_heldSignals (s : State) (r : GReg) (v : DWord) : (s.setGreg r v).heldSignals = s.heldSignals := rfl
@[simp] theorem setGreg_counts (s : State) (r : GReg) (v : DWord) : (s.setGreg r v).counts = s.counts := rfl
@[simp] theorem setGreg_regions (s : State) (r : GReg) (v : DWord) : (s.setGreg r v).regions = s.regions := rfl
@[simp] theorem setGreg_migrations (s : State) (r : GReg) (v : DWord) : (s.setGreg r v).migrations = s.migrations := rfl
@[simp] theorem setGreg_replicas (s : State) (r : GReg) (v : DWord) : (s.setGreg r v).replicas = s.replicas := rfl
@[simp] theorem setGreg_plogSeq (s : State) (r : GReg) (v : DWord) : (s.setGreg r v).plogSeq = s.plogSeq := rfl
@[simp] theorem setGreg_epochs (s : State) (r : GReg) (v : DWord) : (s.setGreg r v).epochs = s.epochs := rfl
@[simp] theorem setGreg_tokens (s : State) (r : GReg) (v : DWord) : (s.setGreg r v).tokens = s.tokens := rfl
@[simp] theorem setGreg_nextToken (s : State) (r : GReg) (v : DWord) : (s.setGreg r v).nextToken = s.nextToken := rfl
@[simp] theorem setGreg_heldPage (s : State) (r : GReg) (v : DWord) : (s.setGreg r v).heldPage = s.heldPage := rfl
@[simp] theorem setGreg_locks (s : State) (r : GReg) (v : DWord) : (s.setGreg r v).locks = s.locks := rfl
@[simp] theorem setGreg_launchSeq (s : State) (r : GReg) (v : DWord) : (s.setGreg r v).launchSeq = s.launchSeq := rfl
@[simp] theorem setGreg_pending (s : State) (r : GReg) (v : DWord) : (s.setGreg r v).pending = s.pending := rfl
@[simp] theorem setGreg_taken (s : State) (r : GReg) (v : DWord) : (s.setGreg r v).taken = s.taken := rfl
@[simp] theorem setGreg_arbPtr (s : State) (r : GReg) (v : DWord) : (s.setGreg r v).arbPtr = s.arbPtr := rfl
@[simp] theorem setGreg_arbCr (s : State) (r : GReg) (v : DWord) : (s.setGreg r v).arbCr = s.arbCr := rfl
@[simp] theorem setGreg_lastQ (s : State) (r : GReg) (v : DWord) : (s.setGreg r v).lastQ = s.lastQ := rfl
@[simp] theorem setGreg_launches (s : State) (r : GReg) (v : DWord) : (s.setGreg r v).launches = s.launches := rfl
@[simp] theorem setGreg_tasks (s : State) (r : GReg) (v : DWord) : (s.setGreg r v).tasks = s.tasks := rfl
@[simp] theorem setGreg_threads (s : State) (r : GReg) (v : DWord) : (s.setGreg r v).threads = s.threads := rfl
@[simp] theorem setGreg_gates (s : State) (r : GReg) (v : DWord) : (s.setGreg r v).gates = s.gates := rfl
@[simp] theorem setGreg_tracker (s : State) (r : GReg) (v : DWord) : (s.setGreg r v).tracker = s.tracker := rfl
@[simp] theorem setGreg_layouts (s : State) (r : GReg) (v : DWord) : (s.setGreg r v).layouts = s.layouts := rfl
@[simp] theorem setGreg_engines (s : State) (r : GReg) (v : DWord) : (s.setGreg r v).engines = s.engines := rfl
@[simp] theorem setGreg_nextEngine (s : State) (r : GReg) (v : DWord) : (s.setGreg r v).nextEngine = s.nextEngine := rfl
@[simp] theorem setGreg_tmems (s : State) (r : GReg) (v : DWord) : (s.setGreg r v).tmems = s.tmems := rfl
@[simp] theorem setGreg_counters (s : State) (r : GReg) (v : DWord) : (s.setGreg r v).counters = s.counters := rfl
@[simp] theorem setGreg_armed (s : State) (r : GReg) (v : DWord) : (s.setGreg r v).armed = s.armed := rfl
@[simp] theorem setGreg_fabricOut (s : State) (r : GReg) (v : DWord) : (s.setGreg r v).fabricOut = s.fabricOut := rfl
@[simp] theorem setGreg_responses (s : State) (r : GReg) (v : DWord) : (s.setGreg r v).responses = s.responses := rfl
@[simp] theorem setGreg_arrivals (s : State) (r : GReg) (v : DWord) : (s.setGreg r v).arrivals = s.arrivals := rfl
@[simp] theorem setGreg_exchange (s : State) (r : GReg) (v : DWord) : (s.setGreg r v).exchange = s.exchange := rfl
@[simp] theorem setGreg_readies (s : State) (r : GReg) (v : DWord) : (s.setGreg r v).readies = s.readies := rfl
@[simp] theorem setGreg_linksDown (s : State) (r : GReg) (v : DWord) : (s.setGreg r v).linksDown = s.linksDown := rfl
@[simp] theorem setGreg_grants (s : State) (r : GReg) (v : DWord) : (s.setGreg r v).grants = s.grants := rfl
@[simp] theorem setGreg_slots (s : State) (r : GReg) (v : DWord) : (s.setGreg r v).slots = s.slots := rfl
@[simp] theorem setGreg_ctxts (s : State) (r : GReg) (v : DWord) : (s.setGreg r v).ctxts = s.ctxts := rfl
@[simp] theorem setGreg_lastCtx (s : State) (r : GReg) (v : DWord) : (s.setGreg r v).lastCtx = s.lastCtx := rfl
@[simp] theorem setGreg_sepalQ (s : State) (r : GReg) (v : DWord) : (s.setGreg r v).sepalQ = s.sepalQ := rfl
@[simp] theorem setGreg_hostRead (s : State) (r : GReg) (v : DWord) : (s.setGreg r v).hostRead = s.hostRead := rfl

/-! ## setFreg -/

@[simp] theorem setFreg_tick (s : State) (n : Nat) (r : FReg) (v : DWord) : (s.setFreg n r v).tick = s.tick := rfl
@[simp] theorem setFreg_fresh (s : State) (n : Nat) (r : FReg) (v : DWord) : (s.setFreg n r v).fresh = s.fresh := rfl
@[simp] theorem setFreg_agenda (s : State) (n : Nat) (r : FReg) (v : DWord) : (s.setFreg n r v).agenda = s.agenda := rfl
@[simp] theorem setFreg_actor (s : State) (n : Nat) (r : FReg) (v : DWord) : (s.setFreg n r v).actor = s.actor := rfl
@[simp] theorem setFreg_collect (s : State) (n : Nat) (r : FReg) (v : DWord) : (s.setFreg n r v).collect = s.collect := rfl
@[simp] theorem setFreg_touched (s : State) (n : Nat) (r : FReg) (v : DWord) : (s.setFreg n r v).touched = s.touched := rfl
@[simp] theorem setFreg_powered (s : State) (n : Nat) (r : FReg) (v : DWord) : (s.setFreg n r v).powered = s.powered := rfl
@[simp] theorem setFreg_boot (s : State) (n : Nat) (r : FReg) (v : DWord) : (s.setFreg n r v).boot = s.boot := rfl
@[simp] theorem setFreg_memReady (s : State) (n : Nat) (r : FReg) (v : DWord) : (s.setFreg n r v).memReady = s.memReady := rfl
@[simp] theorem setFreg_bootFail (s : State) (n : Nat) (r : FReg) (v : DWord) : (s.setFreg n r v).bootFail = s.bootFail := rfl
@[simp] theorem setFreg_replace (s : State) (n : Nat) (r : FReg) (v : DWord) : (s.setFreg n r v).replace = s.replace := rfl
@[simp] theorem setFreg_degraded (s : State) (n : Nat) (r : FReg) (v : DWord) : (s.setFreg n r v).degraded = s.degraded := rfl
@[simp] theorem setFreg_fencedCores (s : State) (n : Nat) (r : FReg) (v : DWord) : (s.setFreg n r v).fencedCores = s.fencedCores := rfl
@[simp] theorem setFreg_fencedSlices (s : State) (n : Nat) (r : FReg) (v : DWord) : (s.setFreg n r v).fencedSlices = s.fencedSlices := rfl
@[simp] theorem setFreg_fencedPorts (s : State) (n : Nat) (r : FReg) (v : DWord) : (s.setFreg n r v).fencedPorts = s.fencedPorts := rfl
@[simp] theorem setFreg_corrected (s : State) (n : Nat) (r : FReg) (v : DWord) : (s.setFreg n r v).corrected = s.corrected := rfl
@[simp] theorem setFreg_uncorrected (s : State) (n : Nat) (r : FReg) (v : DWord) : (s.setFreg n r v).uncorrected = s.uncorrected := rfl
@[simp] theorem setFreg_firmwareHash (s : State) (n : Nat) (r : FReg) (v : DWord) : (s.setFreg n r v).firmwareHash = s.firmwareHash := rfl
@[simp] theorem setFreg_clockBase (s : State) (n : Nat) (r : FReg) (v : DWord) : (s.setFreg n r v).clockBase = s.clockBase := rfl
@[simp] theorem setFreg_gregs (s : State) (n : Nat) (r : FReg) (v : DWord) : (s.setFreg n r v).gregs = s.gregs := rfl
@[simp] theorem setFreg_buckets (s : State) (n : Nat) (r : FReg) (v : DWord) : (s.setFreg n r v).buckets = s.buckets := rfl
@[simp] theorem setFreg_mem (s : State) (n : Nat) (r : FReg) (v : DWord) : (s.setFreg n r v).mem = s.mem := rfl
@[simp] theorem setFreg_hostMem (s : State) (n : Nat) (r : FReg) (v : DWord) : (s.setFreg n r v).hostMem = s.hostMem := rfl
@[simp] theorem setFreg_metas (s : State) (n : Nat) (r : FReg) (v : DWord) : (s.setFreg n r v).metas = s.metas := rfl
@[simp] theorem setFreg_slices (s : State) (n : Nat) (r : FReg) (v : DWord) : (s.setFreg n r v).slices = s.slices := rfl
@[simp] theorem setFreg_plru (s : State) (n : Nat) (r : FReg) (v : DWord) : (s.setFreg n r v).plru = s.plru := rfl
@[simp] theorem setFreg_l1 (s : State) (n : Nat) (r : FReg) (v : DWord) : (s.setFreg n r v).l1 = s.l1 := rfl
@[simp] theorem setFreg_regq (s : State) (n : Nat) (r : FReg) (v : DWord) : (s.setFreg n r v).regq = s.regq := rfl
@[simp] theorem setFreg_hostq (s : State) (n : Nat) (r : FReg) (v : DWord) : (s.setFreg n r v).hostq = s.hostq := rfl
@[simp] theorem setFreg_nextStore (s : State) (n : Nat) (r : FReg) (v : DWord) : (s.setFreg n r v).nextStore = s.nextStore := rfl
@[simp] theorem setFreg_spills (s : State) (n : Nat) (r : FReg) (v : DWord) : (s.setFreg n r v).spills = s.spills := rfl
@[simp] theorem setFreg_ctxs (s : State) (n : Nat) (r : FReg) (v : DWord) : (s.setFreg n r v).ctxs = s.ctxs := rfl
@[simp] theorem setFreg_tlbs (s : State) (n : Nat) (r : FReg) (v : DWord) : (s.setFreg n r v).tlbs = s.tlbs := rfl
@[simp] theorem setFreg_twe (s : State) (n : Nat) (r : FReg) (v : DWord) : (s.setFreg n r v).twe = s.twe := rfl
@[simp] theorem setFreg_peerCache (s : State) (n : Nat) (r : FReg) (v : DWord) : (s.setFreg n r v).peerCache = s.peerCache := rfl
@[simp] theorem setFreg_atc (s : State) (n : Nat) (r : FReg) (v : DWord) : (s.setFreg n r v).atc = s.atc := rfl
@[simp] theorem setFreg_atsPending (s : State) (n : Nat) (r : FReg) (v : DWord) : (s.setFreg n r v).atsPending = s.atsPending := rfl
@[simp] theorem setFreg_priPending (s : State) (n : Nat) (r : FReg) (v : DWord) : (s.setFreg n r v).priPending = s.priPending := rfl
@[simp] theorem setFreg_priDenied (s : State) (n : Nat) (r : FReg) (v : DWord) : (s.setFreg n r v).priDenied = s.priDenied := rfl
@[simp] theorem setFreg_invals (s : State) (n : Nat) (r : FReg) (v : DWord) : (s.setFreg n r v).invals = s.invals := rfl
@[simp] theorem setFreg_heldSignals (s : State) (n : Nat) (r : FReg) (v : DWord) : (s.setFreg n r v).heldSignals = s.heldSignals := rfl
@[simp] theorem setFreg_counts (s : State) (n : Nat) (r : FReg) (v : DWord) : (s.setFreg n r v).counts = s.counts := rfl
@[simp] theorem setFreg_regions (s : State) (n : Nat) (r : FReg) (v : DWord) : (s.setFreg n r v).regions = s.regions := rfl
@[simp] theorem setFreg_migrations (s : State) (n : Nat) (r : FReg) (v : DWord) : (s.setFreg n r v).migrations = s.migrations := rfl
@[simp] theorem setFreg_replicas (s : State) (n : Nat) (r : FReg) (v : DWord) : (s.setFreg n r v).replicas = s.replicas := rfl
@[simp] theorem setFreg_plogSeq (s : State) (n : Nat) (r : FReg) (v : DWord) : (s.setFreg n r v).plogSeq = s.plogSeq := rfl
@[simp] theorem setFreg_epochs (s : State) (n : Nat) (r : FReg) (v : DWord) : (s.setFreg n r v).epochs = s.epochs := rfl
@[simp] theorem setFreg_tokens (s : State) (n : Nat) (r : FReg) (v : DWord) : (s.setFreg n r v).tokens = s.tokens := rfl
@[simp] theorem setFreg_nextToken (s : State) (n : Nat) (r : FReg) (v : DWord) : (s.setFreg n r v).nextToken = s.nextToken := rfl
@[simp] theorem setFreg_heldPage (s : State) (n : Nat) (r : FReg) (v : DWord) : (s.setFreg n r v).heldPage = s.heldPage := rfl
@[simp] theorem setFreg_locks (s : State) (n : Nat) (r : FReg) (v : DWord) : (s.setFreg n r v).locks = s.locks := rfl
@[simp] theorem setFreg_launchSeq (s : State) (n : Nat) (r : FReg) (v : DWord) : (s.setFreg n r v).launchSeq = s.launchSeq := rfl
@[simp] theorem setFreg_pending (s : State) (n : Nat) (r : FReg) (v : DWord) : (s.setFreg n r v).pending = s.pending := rfl
@[simp] theorem setFreg_taken (s : State) (n : Nat) (r : FReg) (v : DWord) : (s.setFreg n r v).taken = s.taken := rfl
@[simp] theorem setFreg_arbPtr (s : State) (n : Nat) (r : FReg) (v : DWord) : (s.setFreg n r v).arbPtr = s.arbPtr := rfl
@[simp] theorem setFreg_arbCr (s : State) (n : Nat) (r : FReg) (v : DWord) : (s.setFreg n r v).arbCr = s.arbCr := rfl
@[simp] theorem setFreg_lastQ (s : State) (n : Nat) (r : FReg) (v : DWord) : (s.setFreg n r v).lastQ = s.lastQ := rfl
@[simp] theorem setFreg_launches (s : State) (n : Nat) (r : FReg) (v : DWord) : (s.setFreg n r v).launches = s.launches := rfl
@[simp] theorem setFreg_tasks (s : State) (n : Nat) (r : FReg) (v : DWord) : (s.setFreg n r v).tasks = s.tasks := rfl
@[simp] theorem setFreg_threads (s : State) (n : Nat) (r : FReg) (v : DWord) : (s.setFreg n r v).threads = s.threads := rfl
@[simp] theorem setFreg_gates (s : State) (n : Nat) (r : FReg) (v : DWord) : (s.setFreg n r v).gates = s.gates := rfl
@[simp] theorem setFreg_tracker (s : State) (n : Nat) (r : FReg) (v : DWord) : (s.setFreg n r v).tracker = s.tracker := rfl
@[simp] theorem setFreg_layouts (s : State) (n : Nat) (r : FReg) (v : DWord) : (s.setFreg n r v).layouts = s.layouts := rfl
@[simp] theorem setFreg_engines (s : State) (n : Nat) (r : FReg) (v : DWord) : (s.setFreg n r v).engines = s.engines := rfl
@[simp] theorem setFreg_nextEngine (s : State) (n : Nat) (r : FReg) (v : DWord) : (s.setFreg n r v).nextEngine = s.nextEngine := rfl
@[simp] theorem setFreg_tmems (s : State) (n : Nat) (r : FReg) (v : DWord) : (s.setFreg n r v).tmems = s.tmems := rfl
@[simp] theorem setFreg_counters (s : State) (n : Nat) (r : FReg) (v : DWord) : (s.setFreg n r v).counters = s.counters := rfl
@[simp] theorem setFreg_armed (s : State) (n : Nat) (r : FReg) (v : DWord) : (s.setFreg n r v).armed = s.armed := rfl
@[simp] theorem setFreg_fabricOut (s : State) (n : Nat) (r : FReg) (v : DWord) : (s.setFreg n r v).fabricOut = s.fabricOut := rfl
@[simp] theorem setFreg_responses (s : State) (n : Nat) (r : FReg) (v : DWord) : (s.setFreg n r v).responses = s.responses := rfl
@[simp] theorem setFreg_arrivals (s : State) (n : Nat) (r : FReg) (v : DWord) : (s.setFreg n r v).arrivals = s.arrivals := rfl
@[simp] theorem setFreg_exchange (s : State) (n : Nat) (r : FReg) (v : DWord) : (s.setFreg n r v).exchange = s.exchange := rfl
@[simp] theorem setFreg_readies (s : State) (n : Nat) (r : FReg) (v : DWord) : (s.setFreg n r v).readies = s.readies := rfl
@[simp] theorem setFreg_linksDown (s : State) (n : Nat) (r : FReg) (v : DWord) : (s.setFreg n r v).linksDown = s.linksDown := rfl
@[simp] theorem setFreg_grants (s : State) (n : Nat) (r : FReg) (v : DWord) : (s.setFreg n r v).grants = s.grants := rfl
@[simp] theorem setFreg_slots (s : State) (n : Nat) (r : FReg) (v : DWord) : (s.setFreg n r v).slots = s.slots := rfl
@[simp] theorem setFreg_ctxts (s : State) (n : Nat) (r : FReg) (v : DWord) : (s.setFreg n r v).ctxts = s.ctxts := rfl
@[simp] theorem setFreg_lastCtx (s : State) (n : Nat) (r : FReg) (v : DWord) : (s.setFreg n r v).lastCtx = s.lastCtx := rfl
@[simp] theorem setFreg_sepalQ (s : State) (n : Nat) (r : FReg) (v : DWord) : (s.setFreg n r v).sepalQ = s.sepalQ := rfl
@[simp] theorem setFreg_hostRead (s : State) (n : Nat) (r : FReg) (v : DWord) : (s.setFreg n r v).hostRead = s.hostRead := rfl

/-! ## advance -/

@[simp] theorem advance_tick (s : State) (t : ThreadRef) : (s.advance t).tick = s.tick := rfl
@[simp] theorem advance_fresh (s : State) (t : ThreadRef) : (s.advance t).fresh = s.fresh := rfl
@[simp] theorem advance_agenda (s : State) (t : ThreadRef) : (s.advance t).agenda = s.agenda := rfl
@[simp] theorem advance_actor (s : State) (t : ThreadRef) : (s.advance t).actor = s.actor := rfl
@[simp] theorem advance_collect (s : State) (t : ThreadRef) : (s.advance t).collect = s.collect := rfl
@[simp] theorem advance_touched (s : State) (t : ThreadRef) : (s.advance t).touched = s.touched := rfl
@[simp] theorem advance_powered (s : State) (t : ThreadRef) : (s.advance t).powered = s.powered := rfl
@[simp] theorem advance_boot (s : State) (t : ThreadRef) : (s.advance t).boot = s.boot := rfl
@[simp] theorem advance_memReady (s : State) (t : ThreadRef) : (s.advance t).memReady = s.memReady := rfl
@[simp] theorem advance_bootFail (s : State) (t : ThreadRef) : (s.advance t).bootFail = s.bootFail := rfl
@[simp] theorem advance_replace (s : State) (t : ThreadRef) : (s.advance t).replace = s.replace := rfl
@[simp] theorem advance_degraded (s : State) (t : ThreadRef) : (s.advance t).degraded = s.degraded := rfl
@[simp] theorem advance_fencedCores (s : State) (t : ThreadRef) : (s.advance t).fencedCores = s.fencedCores := rfl
@[simp] theorem advance_fencedSlices (s : State) (t : ThreadRef) : (s.advance t).fencedSlices = s.fencedSlices := rfl
@[simp] theorem advance_fencedPorts (s : State) (t : ThreadRef) : (s.advance t).fencedPorts = s.fencedPorts := rfl
@[simp] theorem advance_corrected (s : State) (t : ThreadRef) : (s.advance t).corrected = s.corrected := rfl
@[simp] theorem advance_uncorrected (s : State) (t : ThreadRef) : (s.advance t).uncorrected = s.uncorrected := rfl
@[simp] theorem advance_firmwareHash (s : State) (t : ThreadRef) : (s.advance t).firmwareHash = s.firmwareHash := rfl
@[simp] theorem advance_clockBase (s : State) (t : ThreadRef) : (s.advance t).clockBase = s.clockBase := rfl
@[simp] theorem advance_gregs (s : State) (t : ThreadRef) : (s.advance t).gregs = s.gregs := rfl
@[simp] theorem advance_fregs (s : State) (t : ThreadRef) : (s.advance t).fregs = s.fregs := rfl
@[simp] theorem advance_buckets (s : State) (t : ThreadRef) : (s.advance t).buckets = s.buckets := rfl
@[simp] theorem advance_mem (s : State) (t : ThreadRef) : (s.advance t).mem = s.mem := rfl
@[simp] theorem advance_hostMem (s : State) (t : ThreadRef) : (s.advance t).hostMem = s.hostMem := rfl
@[simp] theorem advance_metas (s : State) (t : ThreadRef) : (s.advance t).metas = s.metas := rfl
@[simp] theorem advance_slices (s : State) (t : ThreadRef) : (s.advance t).slices = s.slices := rfl
@[simp] theorem advance_plru (s : State) (t : ThreadRef) : (s.advance t).plru = s.plru := rfl
@[simp] theorem advance_l1 (s : State) (t : ThreadRef) : (s.advance t).l1 = s.l1 := rfl
@[simp] theorem advance_regq (s : State) (t : ThreadRef) : (s.advance t).regq = s.regq := rfl
@[simp] theorem advance_hostq (s : State) (t : ThreadRef) : (s.advance t).hostq = s.hostq := rfl
@[simp] theorem advance_nextStore (s : State) (t : ThreadRef) : (s.advance t).nextStore = s.nextStore := rfl
@[simp] theorem advance_spills (s : State) (t : ThreadRef) : (s.advance t).spills = s.spills := rfl
@[simp] theorem advance_ctxs (s : State) (t : ThreadRef) : (s.advance t).ctxs = s.ctxs := rfl
@[simp] theorem advance_tlbs (s : State) (t : ThreadRef) : (s.advance t).tlbs = s.tlbs := rfl
@[simp] theorem advance_twe (s : State) (t : ThreadRef) : (s.advance t).twe = s.twe := rfl
@[simp] theorem advance_peerCache (s : State) (t : ThreadRef) : (s.advance t).peerCache = s.peerCache := rfl
@[simp] theorem advance_atc (s : State) (t : ThreadRef) : (s.advance t).atc = s.atc := rfl
@[simp] theorem advance_atsPending (s : State) (t : ThreadRef) : (s.advance t).atsPending = s.atsPending := rfl
@[simp] theorem advance_priPending (s : State) (t : ThreadRef) : (s.advance t).priPending = s.priPending := rfl
@[simp] theorem advance_priDenied (s : State) (t : ThreadRef) : (s.advance t).priDenied = s.priDenied := rfl
@[simp] theorem advance_invals (s : State) (t : ThreadRef) : (s.advance t).invals = s.invals := rfl
@[simp] theorem advance_heldSignals (s : State) (t : ThreadRef) : (s.advance t).heldSignals = s.heldSignals := rfl
@[simp] theorem advance_counts (s : State) (t : ThreadRef) : (s.advance t).counts = s.counts := rfl
@[simp] theorem advance_regions (s : State) (t : ThreadRef) : (s.advance t).regions = s.regions := rfl
@[simp] theorem advance_migrations (s : State) (t : ThreadRef) : (s.advance t).migrations = s.migrations := rfl
@[simp] theorem advance_replicas (s : State) (t : ThreadRef) : (s.advance t).replicas = s.replicas := rfl
@[simp] theorem advance_plogSeq (s : State) (t : ThreadRef) : (s.advance t).plogSeq = s.plogSeq := rfl
@[simp] theorem advance_epochs (s : State) (t : ThreadRef) : (s.advance t).epochs = s.epochs := rfl
@[simp] theorem advance_tokens (s : State) (t : ThreadRef) : (s.advance t).tokens = s.tokens := rfl
@[simp] theorem advance_nextToken (s : State) (t : ThreadRef) : (s.advance t).nextToken = s.nextToken := rfl
@[simp] theorem advance_heldPage (s : State) (t : ThreadRef) : (s.advance t).heldPage = s.heldPage := rfl
@[simp] theorem advance_locks (s : State) (t : ThreadRef) : (s.advance t).locks = s.locks := rfl
@[simp] theorem advance_launchSeq (s : State) (t : ThreadRef) : (s.advance t).launchSeq = s.launchSeq := rfl
@[simp] theorem advance_pending (s : State) (t : ThreadRef) : (s.advance t).pending = s.pending := rfl
@[simp] theorem advance_taken (s : State) (t : ThreadRef) : (s.advance t).taken = s.taken := rfl
@[simp] theorem advance_arbPtr (s : State) (t : ThreadRef) : (s.advance t).arbPtr = s.arbPtr := rfl
@[simp] theorem advance_arbCr (s : State) (t : ThreadRef) : (s.advance t).arbCr = s.arbCr := rfl
@[simp] theorem advance_lastQ (s : State) (t : ThreadRef) : (s.advance t).lastQ = s.lastQ := rfl
@[simp] theorem advance_launches (s : State) (t : ThreadRef) : (s.advance t).launches = s.launches := rfl
@[simp] theorem advance_tasks (s : State) (t : ThreadRef) : (s.advance t).tasks = s.tasks := rfl
@[simp] theorem advance_gates (s : State) (t : ThreadRef) : (s.advance t).gates = s.gates := rfl
@[simp] theorem advance_tracker (s : State) (t : ThreadRef) : (s.advance t).tracker = s.tracker := rfl
@[simp] theorem advance_layouts (s : State) (t : ThreadRef) : (s.advance t).layouts = s.layouts := rfl
@[simp] theorem advance_engines (s : State) (t : ThreadRef) : (s.advance t).engines = s.engines := rfl
@[simp] theorem advance_nextEngine (s : State) (t : ThreadRef) : (s.advance t).nextEngine = s.nextEngine := rfl
@[simp] theorem advance_tmems (s : State) (t : ThreadRef) : (s.advance t).tmems = s.tmems := rfl
@[simp] theorem advance_counters (s : State) (t : ThreadRef) : (s.advance t).counters = s.counters := rfl
@[simp] theorem advance_armed (s : State) (t : ThreadRef) : (s.advance t).armed = s.armed := rfl
@[simp] theorem advance_fabricOut (s : State) (t : ThreadRef) : (s.advance t).fabricOut = s.fabricOut := rfl
@[simp] theorem advance_responses (s : State) (t : ThreadRef) : (s.advance t).responses = s.responses := rfl
@[simp] theorem advance_arrivals (s : State) (t : ThreadRef) : (s.advance t).arrivals = s.arrivals := rfl
@[simp] theorem advance_exchange (s : State) (t : ThreadRef) : (s.advance t).exchange = s.exchange := rfl
@[simp] theorem advance_readies (s : State) (t : ThreadRef) : (s.advance t).readies = s.readies := rfl
@[simp] theorem advance_linksDown (s : State) (t : ThreadRef) : (s.advance t).linksDown = s.linksDown := rfl
@[simp] theorem advance_grants (s : State) (t : ThreadRef) : (s.advance t).grants = s.grants := rfl
@[simp] theorem advance_slots (s : State) (t : ThreadRef) : (s.advance t).slots = s.slots := rfl
@[simp] theorem advance_ctxts (s : State) (t : ThreadRef) : (s.advance t).ctxts = s.ctxts := rfl
@[simp] theorem advance_lastCtx (s : State) (t : ThreadRef) : (s.advance t).lastCtx = s.lastCtx := rfl
@[simp] theorem advance_sepalQ (s : State) (t : ThreadRef) : (s.advance t).sepalQ = s.sepalQ := rfl
@[simp] theorem advance_hostRead (s : State) (t : ThreadRef) : (s.advance t).hostRead = s.hostRead := rfl

/-! ## jump -/

@[simp] theorem jump_tick (s : State) (t : ThreadRef) (a : DWord) : (s.jump t a).tick = s.tick := rfl
@[simp] theorem jump_fresh (s : State) (t : ThreadRef) (a : DWord) : (s.jump t a).fresh = s.fresh := rfl
@[simp] theorem jump_agenda (s : State) (t : ThreadRef) (a : DWord) : (s.jump t a).agenda = s.agenda := rfl
@[simp] theorem jump_actor (s : State) (t : ThreadRef) (a : DWord) : (s.jump t a).actor = s.actor := rfl
@[simp] theorem jump_collect (s : State) (t : ThreadRef) (a : DWord) : (s.jump t a).collect = s.collect := rfl
@[simp] theorem jump_touched (s : State) (t : ThreadRef) (a : DWord) : (s.jump t a).touched = s.touched := rfl
@[simp] theorem jump_powered (s : State) (t : ThreadRef) (a : DWord) : (s.jump t a).powered = s.powered := rfl
@[simp] theorem jump_boot (s : State) (t : ThreadRef) (a : DWord) : (s.jump t a).boot = s.boot := rfl
@[simp] theorem jump_memReady (s : State) (t : ThreadRef) (a : DWord) : (s.jump t a).memReady = s.memReady := rfl
@[simp] theorem jump_bootFail (s : State) (t : ThreadRef) (a : DWord) : (s.jump t a).bootFail = s.bootFail := rfl
@[simp] theorem jump_replace (s : State) (t : ThreadRef) (a : DWord) : (s.jump t a).replace = s.replace := rfl
@[simp] theorem jump_degraded (s : State) (t : ThreadRef) (a : DWord) : (s.jump t a).degraded = s.degraded := rfl
@[simp] theorem jump_fencedCores (s : State) (t : ThreadRef) (a : DWord) : (s.jump t a).fencedCores = s.fencedCores := rfl
@[simp] theorem jump_fencedSlices (s : State) (t : ThreadRef) (a : DWord) : (s.jump t a).fencedSlices = s.fencedSlices := rfl
@[simp] theorem jump_fencedPorts (s : State) (t : ThreadRef) (a : DWord) : (s.jump t a).fencedPorts = s.fencedPorts := rfl
@[simp] theorem jump_corrected (s : State) (t : ThreadRef) (a : DWord) : (s.jump t a).corrected = s.corrected := rfl
@[simp] theorem jump_uncorrected (s : State) (t : ThreadRef) (a : DWord) : (s.jump t a).uncorrected = s.uncorrected := rfl
@[simp] theorem jump_firmwareHash (s : State) (t : ThreadRef) (a : DWord) : (s.jump t a).firmwareHash = s.firmwareHash := rfl
@[simp] theorem jump_clockBase (s : State) (t : ThreadRef) (a : DWord) : (s.jump t a).clockBase = s.clockBase := rfl
@[simp] theorem jump_gregs (s : State) (t : ThreadRef) (a : DWord) : (s.jump t a).gregs = s.gregs := rfl
@[simp] theorem jump_fregs (s : State) (t : ThreadRef) (a : DWord) : (s.jump t a).fregs = s.fregs := rfl
@[simp] theorem jump_buckets (s : State) (t : ThreadRef) (a : DWord) : (s.jump t a).buckets = s.buckets := rfl
@[simp] theorem jump_mem (s : State) (t : ThreadRef) (a : DWord) : (s.jump t a).mem = s.mem := rfl
@[simp] theorem jump_hostMem (s : State) (t : ThreadRef) (a : DWord) : (s.jump t a).hostMem = s.hostMem := rfl
@[simp] theorem jump_metas (s : State) (t : ThreadRef) (a : DWord) : (s.jump t a).metas = s.metas := rfl
@[simp] theorem jump_slices (s : State) (t : ThreadRef) (a : DWord) : (s.jump t a).slices = s.slices := rfl
@[simp] theorem jump_plru (s : State) (t : ThreadRef) (a : DWord) : (s.jump t a).plru = s.plru := rfl
@[simp] theorem jump_l1 (s : State) (t : ThreadRef) (a : DWord) : (s.jump t a).l1 = s.l1 := rfl
@[simp] theorem jump_regq (s : State) (t : ThreadRef) (a : DWord) : (s.jump t a).regq = s.regq := rfl
@[simp] theorem jump_hostq (s : State) (t : ThreadRef) (a : DWord) : (s.jump t a).hostq = s.hostq := rfl
@[simp] theorem jump_nextStore (s : State) (t : ThreadRef) (a : DWord) : (s.jump t a).nextStore = s.nextStore := rfl
@[simp] theorem jump_spills (s : State) (t : ThreadRef) (a : DWord) : (s.jump t a).spills = s.spills := rfl
@[simp] theorem jump_ctxs (s : State) (t : ThreadRef) (a : DWord) : (s.jump t a).ctxs = s.ctxs := rfl
@[simp] theorem jump_tlbs (s : State) (t : ThreadRef) (a : DWord) : (s.jump t a).tlbs = s.tlbs := rfl
@[simp] theorem jump_twe (s : State) (t : ThreadRef) (a : DWord) : (s.jump t a).twe = s.twe := rfl
@[simp] theorem jump_peerCache (s : State) (t : ThreadRef) (a : DWord) : (s.jump t a).peerCache = s.peerCache := rfl
@[simp] theorem jump_atc (s : State) (t : ThreadRef) (a : DWord) : (s.jump t a).atc = s.atc := rfl
@[simp] theorem jump_atsPending (s : State) (t : ThreadRef) (a : DWord) : (s.jump t a).atsPending = s.atsPending := rfl
@[simp] theorem jump_priPending (s : State) (t : ThreadRef) (a : DWord) : (s.jump t a).priPending = s.priPending := rfl
@[simp] theorem jump_priDenied (s : State) (t : ThreadRef) (a : DWord) : (s.jump t a).priDenied = s.priDenied := rfl
@[simp] theorem jump_invals (s : State) (t : ThreadRef) (a : DWord) : (s.jump t a).invals = s.invals := rfl
@[simp] theorem jump_heldSignals (s : State) (t : ThreadRef) (a : DWord) : (s.jump t a).heldSignals = s.heldSignals := rfl
@[simp] theorem jump_counts (s : State) (t : ThreadRef) (a : DWord) : (s.jump t a).counts = s.counts := rfl
@[simp] theorem jump_regions (s : State) (t : ThreadRef) (a : DWord) : (s.jump t a).regions = s.regions := rfl
@[simp] theorem jump_migrations (s : State) (t : ThreadRef) (a : DWord) : (s.jump t a).migrations = s.migrations := rfl
@[simp] theorem jump_replicas (s : State) (t : ThreadRef) (a : DWord) : (s.jump t a).replicas = s.replicas := rfl
@[simp] theorem jump_plogSeq (s : State) (t : ThreadRef) (a : DWord) : (s.jump t a).plogSeq = s.plogSeq := rfl
@[simp] theorem jump_epochs (s : State) (t : ThreadRef) (a : DWord) : (s.jump t a).epochs = s.epochs := rfl
@[simp] theorem jump_tokens (s : State) (t : ThreadRef) (a : DWord) : (s.jump t a).tokens = s.tokens := rfl
@[simp] theorem jump_nextToken (s : State) (t : ThreadRef) (a : DWord) : (s.jump t a).nextToken = s.nextToken := rfl
@[simp] theorem jump_heldPage (s : State) (t : ThreadRef) (a : DWord) : (s.jump t a).heldPage = s.heldPage := rfl
@[simp] theorem jump_locks (s : State) (t : ThreadRef) (a : DWord) : (s.jump t a).locks = s.locks := rfl
@[simp] theorem jump_launchSeq (s : State) (t : ThreadRef) (a : DWord) : (s.jump t a).launchSeq = s.launchSeq := rfl
@[simp] theorem jump_pending (s : State) (t : ThreadRef) (a : DWord) : (s.jump t a).pending = s.pending := rfl
@[simp] theorem jump_taken (s : State) (t : ThreadRef) (a : DWord) : (s.jump t a).taken = s.taken := rfl
@[simp] theorem jump_arbPtr (s : State) (t : ThreadRef) (a : DWord) : (s.jump t a).arbPtr = s.arbPtr := rfl
@[simp] theorem jump_arbCr (s : State) (t : ThreadRef) (a : DWord) : (s.jump t a).arbCr = s.arbCr := rfl
@[simp] theorem jump_lastQ (s : State) (t : ThreadRef) (a : DWord) : (s.jump t a).lastQ = s.lastQ := rfl
@[simp] theorem jump_launches (s : State) (t : ThreadRef) (a : DWord) : (s.jump t a).launches = s.launches := rfl
@[simp] theorem jump_tasks (s : State) (t : ThreadRef) (a : DWord) : (s.jump t a).tasks = s.tasks := rfl
@[simp] theorem jump_gates (s : State) (t : ThreadRef) (a : DWord) : (s.jump t a).gates = s.gates := rfl
@[simp] theorem jump_tracker (s : State) (t : ThreadRef) (a : DWord) : (s.jump t a).tracker = s.tracker := rfl
@[simp] theorem jump_layouts (s : State) (t : ThreadRef) (a : DWord) : (s.jump t a).layouts = s.layouts := rfl
@[simp] theorem jump_engines (s : State) (t : ThreadRef) (a : DWord) : (s.jump t a).engines = s.engines := rfl
@[simp] theorem jump_nextEngine (s : State) (t : ThreadRef) (a : DWord) : (s.jump t a).nextEngine = s.nextEngine := rfl
@[simp] theorem jump_tmems (s : State) (t : ThreadRef) (a : DWord) : (s.jump t a).tmems = s.tmems := rfl
@[simp] theorem jump_counters (s : State) (t : ThreadRef) (a : DWord) : (s.jump t a).counters = s.counters := rfl
@[simp] theorem jump_armed (s : State) (t : ThreadRef) (a : DWord) : (s.jump t a).armed = s.armed := rfl
@[simp] theorem jump_fabricOut (s : State) (t : ThreadRef) (a : DWord) : (s.jump t a).fabricOut = s.fabricOut := rfl
@[simp] theorem jump_responses (s : State) (t : ThreadRef) (a : DWord) : (s.jump t a).responses = s.responses := rfl
@[simp] theorem jump_arrivals (s : State) (t : ThreadRef) (a : DWord) : (s.jump t a).arrivals = s.arrivals := rfl
@[simp] theorem jump_exchange (s : State) (t : ThreadRef) (a : DWord) : (s.jump t a).exchange = s.exchange := rfl
@[simp] theorem jump_readies (s : State) (t : ThreadRef) (a : DWord) : (s.jump t a).readies = s.readies := rfl
@[simp] theorem jump_linksDown (s : State) (t : ThreadRef) (a : DWord) : (s.jump t a).linksDown = s.linksDown := rfl
@[simp] theorem jump_grants (s : State) (t : ThreadRef) (a : DWord) : (s.jump t a).grants = s.grants := rfl
@[simp] theorem jump_slots (s : State) (t : ThreadRef) (a : DWord) : (s.jump t a).slots = s.slots := rfl
@[simp] theorem jump_ctxts (s : State) (t : ThreadRef) (a : DWord) : (s.jump t a).ctxts = s.ctxts := rfl
@[simp] theorem jump_lastCtx (s : State) (t : ThreadRef) (a : DWord) : (s.jump t a).lastCtx = s.lastCtx := rfl
@[simp] theorem jump_sepalQ (s : State) (t : ThreadRef) (a : DWord) : (s.jump t a).sepalQ = s.sepalQ := rfl
@[simp] theorem jump_hostRead (s : State) (t : ThreadRef) (a : DWord) : (s.jump t a).hostRead = s.hostRead := rfl

/-! ## park -/

@[simp] theorem park_tick (s : State) (t : ThreadRef) (w : Wait) : (s.park t w).tick = s.tick := rfl
@[simp] theorem park_fresh (s : State) (t : ThreadRef) (w : Wait) : (s.park t w).fresh = s.fresh := rfl
@[simp] theorem park_agenda (s : State) (t : ThreadRef) (w : Wait) : (s.park t w).agenda = s.agenda := rfl
@[simp] theorem park_actor (s : State) (t : ThreadRef) (w : Wait) : (s.park t w).actor = s.actor := rfl
@[simp] theorem park_collect (s : State) (t : ThreadRef) (w : Wait) : (s.park t w).collect = s.collect := rfl
@[simp] theorem park_touched (s : State) (t : ThreadRef) (w : Wait) : (s.park t w).touched = s.touched := rfl
@[simp] theorem park_powered (s : State) (t : ThreadRef) (w : Wait) : (s.park t w).powered = s.powered := rfl
@[simp] theorem park_boot (s : State) (t : ThreadRef) (w : Wait) : (s.park t w).boot = s.boot := rfl
@[simp] theorem park_memReady (s : State) (t : ThreadRef) (w : Wait) : (s.park t w).memReady = s.memReady := rfl
@[simp] theorem park_bootFail (s : State) (t : ThreadRef) (w : Wait) : (s.park t w).bootFail = s.bootFail := rfl
@[simp] theorem park_replace (s : State) (t : ThreadRef) (w : Wait) : (s.park t w).replace = s.replace := rfl
@[simp] theorem park_degraded (s : State) (t : ThreadRef) (w : Wait) : (s.park t w).degraded = s.degraded := rfl
@[simp] theorem park_fencedCores (s : State) (t : ThreadRef) (w : Wait) : (s.park t w).fencedCores = s.fencedCores := rfl
@[simp] theorem park_fencedSlices (s : State) (t : ThreadRef) (w : Wait) : (s.park t w).fencedSlices = s.fencedSlices := rfl
@[simp] theorem park_fencedPorts (s : State) (t : ThreadRef) (w : Wait) : (s.park t w).fencedPorts = s.fencedPorts := rfl
@[simp] theorem park_corrected (s : State) (t : ThreadRef) (w : Wait) : (s.park t w).corrected = s.corrected := rfl
@[simp] theorem park_uncorrected (s : State) (t : ThreadRef) (w : Wait) : (s.park t w).uncorrected = s.uncorrected := rfl
@[simp] theorem park_firmwareHash (s : State) (t : ThreadRef) (w : Wait) : (s.park t w).firmwareHash = s.firmwareHash := rfl
@[simp] theorem park_clockBase (s : State) (t : ThreadRef) (w : Wait) : (s.park t w).clockBase = s.clockBase := rfl
@[simp] theorem park_gregs (s : State) (t : ThreadRef) (w : Wait) : (s.park t w).gregs = s.gregs := rfl
@[simp] theorem park_fregs (s : State) (t : ThreadRef) (w : Wait) : (s.park t w).fregs = s.fregs := rfl
@[simp] theorem park_buckets (s : State) (t : ThreadRef) (w : Wait) : (s.park t w).buckets = s.buckets := rfl
@[simp] theorem park_mem (s : State) (t : ThreadRef) (w : Wait) : (s.park t w).mem = s.mem := rfl
@[simp] theorem park_hostMem (s : State) (t : ThreadRef) (w : Wait) : (s.park t w).hostMem = s.hostMem := rfl
@[simp] theorem park_metas (s : State) (t : ThreadRef) (w : Wait) : (s.park t w).metas = s.metas := rfl
@[simp] theorem park_slices (s : State) (t : ThreadRef) (w : Wait) : (s.park t w).slices = s.slices := rfl
@[simp] theorem park_plru (s : State) (t : ThreadRef) (w : Wait) : (s.park t w).plru = s.plru := rfl
@[simp] theorem park_l1 (s : State) (t : ThreadRef) (w : Wait) : (s.park t w).l1 = s.l1 := rfl
@[simp] theorem park_regq (s : State) (t : ThreadRef) (w : Wait) : (s.park t w).regq = s.regq := rfl
@[simp] theorem park_hostq (s : State) (t : ThreadRef) (w : Wait) : (s.park t w).hostq = s.hostq := rfl
@[simp] theorem park_nextStore (s : State) (t : ThreadRef) (w : Wait) : (s.park t w).nextStore = s.nextStore := rfl
@[simp] theorem park_spills (s : State) (t : ThreadRef) (w : Wait) : (s.park t w).spills = s.spills := rfl
@[simp] theorem park_ctxs (s : State) (t : ThreadRef) (w : Wait) : (s.park t w).ctxs = s.ctxs := rfl
@[simp] theorem park_tlbs (s : State) (t : ThreadRef) (w : Wait) : (s.park t w).tlbs = s.tlbs := rfl
@[simp] theorem park_twe (s : State) (t : ThreadRef) (w : Wait) : (s.park t w).twe = s.twe := rfl
@[simp] theorem park_peerCache (s : State) (t : ThreadRef) (w : Wait) : (s.park t w).peerCache = s.peerCache := rfl
@[simp] theorem park_atc (s : State) (t : ThreadRef) (w : Wait) : (s.park t w).atc = s.atc := rfl
@[simp] theorem park_atsPending (s : State) (t : ThreadRef) (w : Wait) : (s.park t w).atsPending = s.atsPending := rfl
@[simp] theorem park_priPending (s : State) (t : ThreadRef) (w : Wait) : (s.park t w).priPending = s.priPending := rfl
@[simp] theorem park_priDenied (s : State) (t : ThreadRef) (w : Wait) : (s.park t w).priDenied = s.priDenied := rfl
@[simp] theorem park_invals (s : State) (t : ThreadRef) (w : Wait) : (s.park t w).invals = s.invals := rfl
@[simp] theorem park_heldSignals (s : State) (t : ThreadRef) (w : Wait) : (s.park t w).heldSignals = s.heldSignals := rfl
@[simp] theorem park_counts (s : State) (t : ThreadRef) (w : Wait) : (s.park t w).counts = s.counts := rfl
@[simp] theorem park_regions (s : State) (t : ThreadRef) (w : Wait) : (s.park t w).regions = s.regions := rfl
@[simp] theorem park_migrations (s : State) (t : ThreadRef) (w : Wait) : (s.park t w).migrations = s.migrations := rfl
@[simp] theorem park_replicas (s : State) (t : ThreadRef) (w : Wait) : (s.park t w).replicas = s.replicas := rfl
@[simp] theorem park_plogSeq (s : State) (t : ThreadRef) (w : Wait) : (s.park t w).plogSeq = s.plogSeq := rfl
@[simp] theorem park_epochs (s : State) (t : ThreadRef) (w : Wait) : (s.park t w).epochs = s.epochs := rfl
@[simp] theorem park_tokens (s : State) (t : ThreadRef) (w : Wait) : (s.park t w).tokens = s.tokens := rfl
@[simp] theorem park_nextToken (s : State) (t : ThreadRef) (w : Wait) : (s.park t w).nextToken = s.nextToken := rfl
@[simp] theorem park_heldPage (s : State) (t : ThreadRef) (w : Wait) : (s.park t w).heldPage = s.heldPage := rfl
@[simp] theorem park_locks (s : State) (t : ThreadRef) (w : Wait) : (s.park t w).locks = s.locks := rfl
@[simp] theorem park_launchSeq (s : State) (t : ThreadRef) (w : Wait) : (s.park t w).launchSeq = s.launchSeq := rfl
@[simp] theorem park_pending (s : State) (t : ThreadRef) (w : Wait) : (s.park t w).pending = s.pending := rfl
@[simp] theorem park_taken (s : State) (t : ThreadRef) (w : Wait) : (s.park t w).taken = s.taken := rfl
@[simp] theorem park_arbPtr (s : State) (t : ThreadRef) (w : Wait) : (s.park t w).arbPtr = s.arbPtr := rfl
@[simp] theorem park_arbCr (s : State) (t : ThreadRef) (w : Wait) : (s.park t w).arbCr = s.arbCr := rfl
@[simp] theorem park_lastQ (s : State) (t : ThreadRef) (w : Wait) : (s.park t w).lastQ = s.lastQ := rfl
@[simp] theorem park_launches (s : State) (t : ThreadRef) (w : Wait) : (s.park t w).launches = s.launches := rfl
@[simp] theorem park_tasks (s : State) (t : ThreadRef) (w : Wait) : (s.park t w).tasks = s.tasks := rfl
@[simp] theorem park_gates (s : State) (t : ThreadRef) (w : Wait) : (s.park t w).gates = s.gates := rfl
@[simp] theorem park_tracker (s : State) (t : ThreadRef) (w : Wait) : (s.park t w).tracker = s.tracker := rfl
@[simp] theorem park_layouts (s : State) (t : ThreadRef) (w : Wait) : (s.park t w).layouts = s.layouts := rfl
@[simp] theorem park_engines (s : State) (t : ThreadRef) (w : Wait) : (s.park t w).engines = s.engines := rfl
@[simp] theorem park_nextEngine (s : State) (t : ThreadRef) (w : Wait) : (s.park t w).nextEngine = s.nextEngine := rfl
@[simp] theorem park_tmems (s : State) (t : ThreadRef) (w : Wait) : (s.park t w).tmems = s.tmems := rfl
@[simp] theorem park_counters (s : State) (t : ThreadRef) (w : Wait) : (s.park t w).counters = s.counters := rfl
@[simp] theorem park_armed (s : State) (t : ThreadRef) (w : Wait) : (s.park t w).armed = s.armed := rfl
@[simp] theorem park_fabricOut (s : State) (t : ThreadRef) (w : Wait) : (s.park t w).fabricOut = s.fabricOut := rfl
@[simp] theorem park_responses (s : State) (t : ThreadRef) (w : Wait) : (s.park t w).responses = s.responses := rfl
@[simp] theorem park_arrivals (s : State) (t : ThreadRef) (w : Wait) : (s.park t w).arrivals = s.arrivals := rfl
@[simp] theorem park_exchange (s : State) (t : ThreadRef) (w : Wait) : (s.park t w).exchange = s.exchange := rfl
@[simp] theorem park_readies (s : State) (t : ThreadRef) (w : Wait) : (s.park t w).readies = s.readies := rfl
@[simp] theorem park_linksDown (s : State) (t : ThreadRef) (w : Wait) : (s.park t w).linksDown = s.linksDown := rfl
@[simp] theorem park_grants (s : State) (t : ThreadRef) (w : Wait) : (s.park t w).grants = s.grants := rfl
@[simp] theorem park_slots (s : State) (t : ThreadRef) (w : Wait) : (s.park t w).slots = s.slots := rfl
@[simp] theorem park_ctxts (s : State) (t : ThreadRef) (w : Wait) : (s.park t w).ctxts = s.ctxts := rfl
@[simp] theorem park_lastCtx (s : State) (t : ThreadRef) (w : Wait) : (s.park t w).lastCtx = s.lastCtx := rfl
@[simp] theorem park_sepalQ (s : State) (t : ThreadRef) (w : Wait) : (s.park t w).sepalQ = s.sepalQ := rfl
@[simp] theorem park_hostRead (s : State) (t : ThreadRef) (w : Wait) : (s.park t w).hostRead = s.hostRead := rfl

/-! ## stand -/

@[simp] theorem stand_tick (s : State) (t : ThreadRef) (st : Status) : (s.stand t st).tick = s.tick := rfl
@[simp] theorem stand_fresh (s : State) (t : ThreadRef) (st : Status) : (s.stand t st).fresh = s.fresh := rfl
@[simp] theorem stand_agenda (s : State) (t : ThreadRef) (st : Status) : (s.stand t st).agenda = s.agenda := rfl
@[simp] theorem stand_actor (s : State) (t : ThreadRef) (st : Status) : (s.stand t st).actor = s.actor := rfl
@[simp] theorem stand_collect (s : State) (t : ThreadRef) (st : Status) : (s.stand t st).collect = s.collect := rfl
@[simp] theorem stand_touched (s : State) (t : ThreadRef) (st : Status) : (s.stand t st).touched = s.touched := rfl
@[simp] theorem stand_powered (s : State) (t : ThreadRef) (st : Status) : (s.stand t st).powered = s.powered := rfl
@[simp] theorem stand_boot (s : State) (t : ThreadRef) (st : Status) : (s.stand t st).boot = s.boot := rfl
@[simp] theorem stand_memReady (s : State) (t : ThreadRef) (st : Status) : (s.stand t st).memReady = s.memReady := rfl
@[simp] theorem stand_bootFail (s : State) (t : ThreadRef) (st : Status) : (s.stand t st).bootFail = s.bootFail := rfl
@[simp] theorem stand_replace (s : State) (t : ThreadRef) (st : Status) : (s.stand t st).replace = s.replace := rfl
@[simp] theorem stand_degraded (s : State) (t : ThreadRef) (st : Status) : (s.stand t st).degraded = s.degraded := rfl
@[simp] theorem stand_fencedCores (s : State) (t : ThreadRef) (st : Status) : (s.stand t st).fencedCores = s.fencedCores := rfl
@[simp] theorem stand_fencedSlices (s : State) (t : ThreadRef) (st : Status) : (s.stand t st).fencedSlices = s.fencedSlices := rfl
@[simp] theorem stand_fencedPorts (s : State) (t : ThreadRef) (st : Status) : (s.stand t st).fencedPorts = s.fencedPorts := rfl
@[simp] theorem stand_corrected (s : State) (t : ThreadRef) (st : Status) : (s.stand t st).corrected = s.corrected := rfl
@[simp] theorem stand_uncorrected (s : State) (t : ThreadRef) (st : Status) : (s.stand t st).uncorrected = s.uncorrected := rfl
@[simp] theorem stand_firmwareHash (s : State) (t : ThreadRef) (st : Status) : (s.stand t st).firmwareHash = s.firmwareHash := rfl
@[simp] theorem stand_clockBase (s : State) (t : ThreadRef) (st : Status) : (s.stand t st).clockBase = s.clockBase := rfl
@[simp] theorem stand_gregs (s : State) (t : ThreadRef) (st : Status) : (s.stand t st).gregs = s.gregs := rfl
@[simp] theorem stand_fregs (s : State) (t : ThreadRef) (st : Status) : (s.stand t st).fregs = s.fregs := rfl
@[simp] theorem stand_buckets (s : State) (t : ThreadRef) (st : Status) : (s.stand t st).buckets = s.buckets := rfl
@[simp] theorem stand_mem (s : State) (t : ThreadRef) (st : Status) : (s.stand t st).mem = s.mem := rfl
@[simp] theorem stand_hostMem (s : State) (t : ThreadRef) (st : Status) : (s.stand t st).hostMem = s.hostMem := rfl
@[simp] theorem stand_metas (s : State) (t : ThreadRef) (st : Status) : (s.stand t st).metas = s.metas := rfl
@[simp] theorem stand_slices (s : State) (t : ThreadRef) (st : Status) : (s.stand t st).slices = s.slices := rfl
@[simp] theorem stand_plru (s : State) (t : ThreadRef) (st : Status) : (s.stand t st).plru = s.plru := rfl
@[simp] theorem stand_l1 (s : State) (t : ThreadRef) (st : Status) : (s.stand t st).l1 = s.l1 := rfl
@[simp] theorem stand_regq (s : State) (t : ThreadRef) (st : Status) : (s.stand t st).regq = s.regq := rfl
@[simp] theorem stand_hostq (s : State) (t : ThreadRef) (st : Status) : (s.stand t st).hostq = s.hostq := rfl
@[simp] theorem stand_nextStore (s : State) (t : ThreadRef) (st : Status) : (s.stand t st).nextStore = s.nextStore := rfl
@[simp] theorem stand_spills (s : State) (t : ThreadRef) (st : Status) : (s.stand t st).spills = s.spills := rfl
@[simp] theorem stand_ctxs (s : State) (t : ThreadRef) (st : Status) : (s.stand t st).ctxs = s.ctxs := rfl
@[simp] theorem stand_tlbs (s : State) (t : ThreadRef) (st : Status) : (s.stand t st).tlbs = s.tlbs := rfl
@[simp] theorem stand_twe (s : State) (t : ThreadRef) (st : Status) : (s.stand t st).twe = s.twe := rfl
@[simp] theorem stand_peerCache (s : State) (t : ThreadRef) (st : Status) : (s.stand t st).peerCache = s.peerCache := rfl
@[simp] theorem stand_atc (s : State) (t : ThreadRef) (st : Status) : (s.stand t st).atc = s.atc := rfl
@[simp] theorem stand_atsPending (s : State) (t : ThreadRef) (st : Status) : (s.stand t st).atsPending = s.atsPending := rfl
@[simp] theorem stand_priPending (s : State) (t : ThreadRef) (st : Status) : (s.stand t st).priPending = s.priPending := rfl
@[simp] theorem stand_priDenied (s : State) (t : ThreadRef) (st : Status) : (s.stand t st).priDenied = s.priDenied := rfl
@[simp] theorem stand_invals (s : State) (t : ThreadRef) (st : Status) : (s.stand t st).invals = s.invals := rfl
@[simp] theorem stand_heldSignals (s : State) (t : ThreadRef) (st : Status) : (s.stand t st).heldSignals = s.heldSignals := rfl
@[simp] theorem stand_counts (s : State) (t : ThreadRef) (st : Status) : (s.stand t st).counts = s.counts := rfl
@[simp] theorem stand_regions (s : State) (t : ThreadRef) (st : Status) : (s.stand t st).regions = s.regions := rfl
@[simp] theorem stand_migrations (s : State) (t : ThreadRef) (st : Status) : (s.stand t st).migrations = s.migrations := rfl
@[simp] theorem stand_replicas (s : State) (t : ThreadRef) (st : Status) : (s.stand t st).replicas = s.replicas := rfl
@[simp] theorem stand_plogSeq (s : State) (t : ThreadRef) (st : Status) : (s.stand t st).plogSeq = s.plogSeq := rfl
@[simp] theorem stand_epochs (s : State) (t : ThreadRef) (st : Status) : (s.stand t st).epochs = s.epochs := rfl
@[simp] theorem stand_tokens (s : State) (t : ThreadRef) (st : Status) : (s.stand t st).tokens = s.tokens := rfl
@[simp] theorem stand_nextToken (s : State) (t : ThreadRef) (st : Status) : (s.stand t st).nextToken = s.nextToken := rfl
@[simp] theorem stand_heldPage (s : State) (t : ThreadRef) (st : Status) : (s.stand t st).heldPage = s.heldPage := rfl
@[simp] theorem stand_locks (s : State) (t : ThreadRef) (st : Status) : (s.stand t st).locks = s.locks := rfl
@[simp] theorem stand_launchSeq (s : State) (t : ThreadRef) (st : Status) : (s.stand t st).launchSeq = s.launchSeq := rfl
@[simp] theorem stand_pending (s : State) (t : ThreadRef) (st : Status) : (s.stand t st).pending = s.pending := rfl
@[simp] theorem stand_taken (s : State) (t : ThreadRef) (st : Status) : (s.stand t st).taken = s.taken := rfl
@[simp] theorem stand_arbPtr (s : State) (t : ThreadRef) (st : Status) : (s.stand t st).arbPtr = s.arbPtr := rfl
@[simp] theorem stand_arbCr (s : State) (t : ThreadRef) (st : Status) : (s.stand t st).arbCr = s.arbCr := rfl
@[simp] theorem stand_lastQ (s : State) (t : ThreadRef) (st : Status) : (s.stand t st).lastQ = s.lastQ := rfl
@[simp] theorem stand_launches (s : State) (t : ThreadRef) (st : Status) : (s.stand t st).launches = s.launches := rfl
@[simp] theorem stand_tasks (s : State) (t : ThreadRef) (st : Status) : (s.stand t st).tasks = s.tasks := rfl
@[simp] theorem stand_gates (s : State) (t : ThreadRef) (st : Status) : (s.stand t st).gates = s.gates := rfl
@[simp] theorem stand_tracker (s : State) (t : ThreadRef) (st : Status) : (s.stand t st).tracker = s.tracker := rfl
@[simp] theorem stand_layouts (s : State) (t : ThreadRef) (st : Status) : (s.stand t st).layouts = s.layouts := rfl
@[simp] theorem stand_engines (s : State) (t : ThreadRef) (st : Status) : (s.stand t st).engines = s.engines := rfl
@[simp] theorem stand_nextEngine (s : State) (t : ThreadRef) (st : Status) : (s.stand t st).nextEngine = s.nextEngine := rfl
@[simp] theorem stand_tmems (s : State) (t : ThreadRef) (st : Status) : (s.stand t st).tmems = s.tmems := rfl
@[simp] theorem stand_counters (s : State) (t : ThreadRef) (st : Status) : (s.stand t st).counters = s.counters := rfl
@[simp] theorem stand_armed (s : State) (t : ThreadRef) (st : Status) : (s.stand t st).armed = s.armed := rfl
@[simp] theorem stand_fabricOut (s : State) (t : ThreadRef) (st : Status) : (s.stand t st).fabricOut = s.fabricOut := rfl
@[simp] theorem stand_responses (s : State) (t : ThreadRef) (st : Status) : (s.stand t st).responses = s.responses := rfl
@[simp] theorem stand_arrivals (s : State) (t : ThreadRef) (st : Status) : (s.stand t st).arrivals = s.arrivals := rfl
@[simp] theorem stand_exchange (s : State) (t : ThreadRef) (st : Status) : (s.stand t st).exchange = s.exchange := rfl
@[simp] theorem stand_readies (s : State) (t : ThreadRef) (st : Status) : (s.stand t st).readies = s.readies := rfl
@[simp] theorem stand_linksDown (s : State) (t : ThreadRef) (st : Status) : (s.stand t st).linksDown = s.linksDown := rfl
@[simp] theorem stand_grants (s : State) (t : ThreadRef) (st : Status) : (s.stand t st).grants = s.grants := rfl
@[simp] theorem stand_slots (s : State) (t : ThreadRef) (st : Status) : (s.stand t st).slots = s.slots := rfl
@[simp] theorem stand_ctxts (s : State) (t : ThreadRef) (st : Status) : (s.stand t st).ctxts = s.ctxts := rfl
@[simp] theorem stand_lastCtx (s : State) (t : ThreadRef) (st : Status) : (s.stand t st).lastCtx = s.lastCtx := rfl
@[simp] theorem stand_sepalQ (s : State) (t : ThreadRef) (st : Status) : (s.stand t st).sepalQ = s.sepalQ := rfl
@[simp] theorem stand_hostRead (s : State) (t : ThreadRef) (st : Status) : (s.stand t st).hostRead = s.hostRead := rfl

/-! ## wake -/

@[simp] theorem wake_tick (s : State) (t : ThreadRef) : (s.wake t).tick = s.tick := rfl
@[simp] theorem wake_fresh (s : State) (t : ThreadRef) : (s.wake t).fresh = s.fresh := rfl
@[simp] theorem wake_agenda (s : State) (t : ThreadRef) : (s.wake t).agenda = s.agenda := rfl
@[simp] theorem wake_actor (s : State) (t : ThreadRef) : (s.wake t).actor = s.actor := rfl
@[simp] theorem wake_collect (s : State) (t : ThreadRef) : (s.wake t).collect = s.collect := rfl
@[simp] theorem wake_touched (s : State) (t : ThreadRef) : (s.wake t).touched = s.touched := rfl
@[simp] theorem wake_powered (s : State) (t : ThreadRef) : (s.wake t).powered = s.powered := rfl
@[simp] theorem wake_boot (s : State) (t : ThreadRef) : (s.wake t).boot = s.boot := rfl
@[simp] theorem wake_memReady (s : State) (t : ThreadRef) : (s.wake t).memReady = s.memReady := rfl
@[simp] theorem wake_bootFail (s : State) (t : ThreadRef) : (s.wake t).bootFail = s.bootFail := rfl
@[simp] theorem wake_replace (s : State) (t : ThreadRef) : (s.wake t).replace = s.replace := rfl
@[simp] theorem wake_degraded (s : State) (t : ThreadRef) : (s.wake t).degraded = s.degraded := rfl
@[simp] theorem wake_fencedCores (s : State) (t : ThreadRef) : (s.wake t).fencedCores = s.fencedCores := rfl
@[simp] theorem wake_fencedSlices (s : State) (t : ThreadRef) : (s.wake t).fencedSlices = s.fencedSlices := rfl
@[simp] theorem wake_fencedPorts (s : State) (t : ThreadRef) : (s.wake t).fencedPorts = s.fencedPorts := rfl
@[simp] theorem wake_corrected (s : State) (t : ThreadRef) : (s.wake t).corrected = s.corrected := rfl
@[simp] theorem wake_uncorrected (s : State) (t : ThreadRef) : (s.wake t).uncorrected = s.uncorrected := rfl
@[simp] theorem wake_firmwareHash (s : State) (t : ThreadRef) : (s.wake t).firmwareHash = s.firmwareHash := rfl
@[simp] theorem wake_clockBase (s : State) (t : ThreadRef) : (s.wake t).clockBase = s.clockBase := rfl
@[simp] theorem wake_gregs (s : State) (t : ThreadRef) : (s.wake t).gregs = s.gregs := rfl
@[simp] theorem wake_fregs (s : State) (t : ThreadRef) : (s.wake t).fregs = s.fregs := rfl
@[simp] theorem wake_buckets (s : State) (t : ThreadRef) : (s.wake t).buckets = s.buckets := rfl
@[simp] theorem wake_mem (s : State) (t : ThreadRef) : (s.wake t).mem = s.mem := rfl
@[simp] theorem wake_hostMem (s : State) (t : ThreadRef) : (s.wake t).hostMem = s.hostMem := rfl
@[simp] theorem wake_metas (s : State) (t : ThreadRef) : (s.wake t).metas = s.metas := rfl
@[simp] theorem wake_slices (s : State) (t : ThreadRef) : (s.wake t).slices = s.slices := rfl
@[simp] theorem wake_plru (s : State) (t : ThreadRef) : (s.wake t).plru = s.plru := rfl
@[simp] theorem wake_l1 (s : State) (t : ThreadRef) : (s.wake t).l1 = s.l1 := rfl
@[simp] theorem wake_regq (s : State) (t : ThreadRef) : (s.wake t).regq = s.regq := rfl
@[simp] theorem wake_hostq (s : State) (t : ThreadRef) : (s.wake t).hostq = s.hostq := rfl
@[simp] theorem wake_nextStore (s : State) (t : ThreadRef) : (s.wake t).nextStore = s.nextStore := rfl
@[simp] theorem wake_spills (s : State) (t : ThreadRef) : (s.wake t).spills = s.spills := rfl
@[simp] theorem wake_ctxs (s : State) (t : ThreadRef) : (s.wake t).ctxs = s.ctxs := rfl
@[simp] theorem wake_tlbs (s : State) (t : ThreadRef) : (s.wake t).tlbs = s.tlbs := rfl
@[simp] theorem wake_twe (s : State) (t : ThreadRef) : (s.wake t).twe = s.twe := rfl
@[simp] theorem wake_peerCache (s : State) (t : ThreadRef) : (s.wake t).peerCache = s.peerCache := rfl
@[simp] theorem wake_atc (s : State) (t : ThreadRef) : (s.wake t).atc = s.atc := rfl
@[simp] theorem wake_atsPending (s : State) (t : ThreadRef) : (s.wake t).atsPending = s.atsPending := rfl
@[simp] theorem wake_priPending (s : State) (t : ThreadRef) : (s.wake t).priPending = s.priPending := rfl
@[simp] theorem wake_priDenied (s : State) (t : ThreadRef) : (s.wake t).priDenied = s.priDenied := rfl
@[simp] theorem wake_invals (s : State) (t : ThreadRef) : (s.wake t).invals = s.invals := rfl
@[simp] theorem wake_heldSignals (s : State) (t : ThreadRef) : (s.wake t).heldSignals = s.heldSignals := rfl
@[simp] theorem wake_counts (s : State) (t : ThreadRef) : (s.wake t).counts = s.counts := rfl
@[simp] theorem wake_regions (s : State) (t : ThreadRef) : (s.wake t).regions = s.regions := rfl
@[simp] theorem wake_migrations (s : State) (t : ThreadRef) : (s.wake t).migrations = s.migrations := rfl
@[simp] theorem wake_replicas (s : State) (t : ThreadRef) : (s.wake t).replicas = s.replicas := rfl
@[simp] theorem wake_plogSeq (s : State) (t : ThreadRef) : (s.wake t).plogSeq = s.plogSeq := rfl
@[simp] theorem wake_epochs (s : State) (t : ThreadRef) : (s.wake t).epochs = s.epochs := rfl
@[simp] theorem wake_tokens (s : State) (t : ThreadRef) : (s.wake t).tokens = s.tokens := rfl
@[simp] theorem wake_nextToken (s : State) (t : ThreadRef) : (s.wake t).nextToken = s.nextToken := rfl
@[simp] theorem wake_heldPage (s : State) (t : ThreadRef) : (s.wake t).heldPage = s.heldPage := rfl
@[simp] theorem wake_locks (s : State) (t : ThreadRef) : (s.wake t).locks = s.locks := rfl
@[simp] theorem wake_launchSeq (s : State) (t : ThreadRef) : (s.wake t).launchSeq = s.launchSeq := rfl
@[simp] theorem wake_pending (s : State) (t : ThreadRef) : (s.wake t).pending = s.pending := rfl
@[simp] theorem wake_taken (s : State) (t : ThreadRef) : (s.wake t).taken = s.taken := rfl
@[simp] theorem wake_arbPtr (s : State) (t : ThreadRef) : (s.wake t).arbPtr = s.arbPtr := rfl
@[simp] theorem wake_arbCr (s : State) (t : ThreadRef) : (s.wake t).arbCr = s.arbCr := rfl
@[simp] theorem wake_lastQ (s : State) (t : ThreadRef) : (s.wake t).lastQ = s.lastQ := rfl
@[simp] theorem wake_launches (s : State) (t : ThreadRef) : (s.wake t).launches = s.launches := rfl
@[simp] theorem wake_tasks (s : State) (t : ThreadRef) : (s.wake t).tasks = s.tasks := rfl
@[simp] theorem wake_tracker (s : State) (t : ThreadRef) : (s.wake t).tracker = s.tracker := rfl
@[simp] theorem wake_layouts (s : State) (t : ThreadRef) : (s.wake t).layouts = s.layouts := rfl
@[simp] theorem wake_engines (s : State) (t : ThreadRef) : (s.wake t).engines = s.engines := rfl
@[simp] theorem wake_nextEngine (s : State) (t : ThreadRef) : (s.wake t).nextEngine = s.nextEngine := rfl
@[simp] theorem wake_tmems (s : State) (t : ThreadRef) : (s.wake t).tmems = s.tmems := rfl
@[simp] theorem wake_counters (s : State) (t : ThreadRef) : (s.wake t).counters = s.counters := rfl
@[simp] theorem wake_armed (s : State) (t : ThreadRef) : (s.wake t).armed = s.armed := rfl
@[simp] theorem wake_fabricOut (s : State) (t : ThreadRef) : (s.wake t).fabricOut = s.fabricOut := rfl
@[simp] theorem wake_responses (s : State) (t : ThreadRef) : (s.wake t).responses = s.responses := rfl
@[simp] theorem wake_arrivals (s : State) (t : ThreadRef) : (s.wake t).arrivals = s.arrivals := rfl
@[simp] theorem wake_exchange (s : State) (t : ThreadRef) : (s.wake t).exchange = s.exchange := rfl
@[simp] theorem wake_readies (s : State) (t : ThreadRef) : (s.wake t).readies = s.readies := rfl
@[simp] theorem wake_linksDown (s : State) (t : ThreadRef) : (s.wake t).linksDown = s.linksDown := rfl
@[simp] theorem wake_grants (s : State) (t : ThreadRef) : (s.wake t).grants = s.grants := rfl
@[simp] theorem wake_slots (s : State) (t : ThreadRef) : (s.wake t).slots = s.slots := rfl
@[simp] theorem wake_ctxts (s : State) (t : ThreadRef) : (s.wake t).ctxts = s.ctxts := rfl
@[simp] theorem wake_lastCtx (s : State) (t : ThreadRef) : (s.wake t).lastCtx = s.lastCtx := rfl
@[simp] theorem wake_sepalQ (s : State) (t : ThreadRef) : (s.wake t).sepalQ = s.sepalQ := rfl
@[simp] theorem wake_hostRead (s : State) (t : ThreadRef) : (s.wake t).hostRead = s.hostRead := rfl

/-! ## What the changed fields are -/

@[simp] theorem modThread_threads (s : State) (t : ThreadRef) (f : Thread → Thread) :
    (s.modThread t f).threads = s.threads.modify (tkey t) f := rfl
@[simp] theorem modTask_tasks (s : State) (a : Nat) (f : Task → Task) : (s.modTask a f).tasks = s.tasks.modify a f := rfl
@[simp] theorem modLaunch_launches (s : State) (l : Nat) (f : Launch → Launch) :
    (s.modLaunch l f).launches = s.launches.modify l f := rfl
@[simp] theorem setGreg_gregs (s : State) (r : GReg) (v : DWord) : (s.setGreg r v).gregs = assocSet s.gregs r v := rfl
@[simp] theorem setFreg_fregs (s : State) (n : Nat) (r : FReg) (v : DWord) :
    (s.setFreg n r v).fregs = assocSet s.fregs (n, r) v := rfl
@[simp] theorem advance_threads (s : State) (t : ThreadRef) :
    (s.advance t).threads = s.threads.modify (tkey t) (fun th => { th with pc := th.pc + 4 }) := rfl
@[simp] theorem jump_threads (s : State) (t : ThreadRef) (a : DWord) :
    (s.jump t a).threads = s.threads.modify (tkey t) (fun th => { th with pc := a, jumped := true }) := rfl
@[simp] theorem park_threads (s : State) (t : ThreadRef) (w : Wait) :
    (s.park t w).threads =
      s.threads.modify (tkey t) (fun th => if th.status == .ended then th else { th with status := .parked w }) := rfl
@[simp] theorem wake_threads (s : State) (t : ThreadRef) :
    (s.wake t).threads = s.threads.modify (tkey t) (fun th =>
      { th with status := th.second.getD .ready, since := s.tick, second := none }) := rfl
@[simp] theorem stand_threads (s : State) (t : ThreadRef) (st : Status) :
    (s.stand t st).threads = s.threads.modify (tkey t) (fun th =>
      if th.status == .ended then th
      else if th.status != .ready && th.second.isSome then { th with second := some st }
      else { th with status := st }) := rfl

end Sys2Proof.Machine.State

namespace Sys2Proof.Machine

/-! ## Association lists -/

theorem assoc_assocSet {α β : Type} [DecidableEq α] (l : List (α × β)) (a b : α) (v : β) :
    assoc (assocSet l a v) b = if a = b then some v else assoc l b := by
  induction l with
  | nil => by_cases h : a = b <;> simp [assocSet, assoc, h]
  | cons e r ih =>
    obtain ⟨x, w⟩ := e
    simp only [assocSet]
    by_cases hx : x = a
    · subst hx
      by_cases h : x = b <;> simp [assoc, h]
    · simp only [hx, if_false, assoc, ih]
      by_cases h : a = b
      · subst h; simp [hx]
      · by_cases h2 : x = b <;> simp [h, h2]

/-- A register of the global block after a write of one. -/
theorem greg_setGreg (s : State) (a b : GReg) (v : DWord) : (s.setGreg a v).greg b = if a = b then v else s.greg b := by
  simp only [State.greg, State.setGreg_gregs, assoc_assocSet]
  split <;> rfl
/-- A register of a function page after a write of one. -/
theorem freg_setFreg (s : State) (m n : Nat) (a b : FReg) (v : DWord) :
    (s.setFreg m a v).freg n b = if (m, a) = (n, b) then v else s.freg n b := by
  simp only [State.freg, State.setFreg_fregs, assoc_assocSet]
  split <;> rfl

/-! ## Threads -/

/-- The thread after its own record has been changed. -/
theorem thread_modThread {s : State} {t : ThreadRef} {f : Thread → Thread} {th : Thread}
    (h : s.threads.find? (tkey t) = some th) : (s.modThread t f).thread t = f th := by
  simp [State.thread, h]
/-- Another thread's record is left alone. -/
theorem find_modThread_other (s : State) {t u : ThreadRef} (f : Thread → Thread) (h : tkey t ≠ tkey u) :
    (s.modThread t f).threads.find? (tkey u) = s.threads.find? (tkey u) := by
  simp [Tbl.find?_modify, h]
theorem thread_modThread_other (s : State) {t u : ThreadRef} (f : Thread → Thread) (h : tkey t ≠ tkey u) :
    (s.modThread t f).thread u = s.thread u := by
  simp [State.thread, Tbl.find?_modify, h]
@[simp] theorem task_modThread (s : State) (t : ThreadRef) (f : Thread → Thread) (a : Nat) :
    (s.modThread t f).task a = s.task a := rfl
@[simp] theorem thread_modTask (s : State) (a : Nat) (f : Task → Task) (t : ThreadRef) :
    (s.modTask a f).thread t = s.thread t := rfl
/-- A task after its own record has been changed. -/
theorem task_modTask {s : State} {a : Nat} {f : Task → Task} {k : Task} (h : s.tasks.find? a = some k) :
    (s.modTask a f).task a = f k := by
  simp [State.task, h]
/-- Two threads with TIDs below 1,024 have one key only if they are one thread. -/
theorem tkey_inj {t u : ThreadRef} (ht : t.tid < 1024) (hu : u.tid < 1024) (h : tkey t = tkey u) : t = u := by
  cases t; cases u
  simp only [tkey] at *
  simp only [ThreadRef.mk.injEq]
  omega

end Sys2Proof.Machine
end

