-- ==== Sys2Proof/Laws/Ops.lean ====
section
/-! SUPPORT. The shared operations, each said once: lanes of an issue, the operand forms, waiting, device registers. -/
namespace Sys2Proof.Machine

/-! ## One lane -/

theorem Lone.lanes {s : State} {t : ThreadRef} {th : Thread} (h : Lone s t th) : s.lanes = [t] := by
  simp [State.lanes, h.actor]
theorem Lone.thread {s : State} {t : ThreadRef} {th : Thread} (h : Lone s t th) : s.thread t = th := by
  simp [State.thread, h.found]
theorem Lone.running {s : State} {t : ThreadRef} {th : Thread} (h : Lone s t th) : ((s.thread t).status == .ended) = false := by
  rw [h.thread, h.ready]; rfl
/-- Outside a chained group a word reads the thread's own registers. -/
theorem Thread.view_alone {th : Thread} (h : th.old = none) :
    th.view = { regs := th.regs, flags := th.flags, fcr := th.fcr, dead := th.dead, pend := th.pend } := by
  simp [Thread.view, h]

/-- What a word that may go anywhere does for a lone lane. -/
theorem runTo_lone {s : State} {t : ThreadRef} {th : Thread} (h : Lone s t th) (f : State → ThreadRef → Res (Option DWord)) :
    runTo f s = laneStep f s t := by
  simp [runTo, h.lanes]
/-- It completes and goes on to the next word. -/
theorem runTo_next {s s' : State} {t : ThreadRef} {th : Thread} (h : Lone s t th) {f : State → ThreadRef → Res (Option DWord)}
    (hf : f s t = .ok none s') : runTo f s = s'.advance t := by
  simp [runTo_lone h, laneStep, h.running, hf]
/-- It completes with a transfer of control. -/
theorem runTo_jump {s s' : State} {t : ThreadRef} {th : Thread} (h : Lone s t th) {f : State → ThreadRef → Res (Option DWord)}
    {a : DWord} (hf : f s t = .ok (some a) s') : runTo f s = s'.jump t a := by
  simp [runTo_lone h, laneStep, h.running, hf]
/-- It stops, and the lane takes its stop. -/
theorem runTo_stop {s s' : State} {t : ThreadRef} {th : Thread} (h : Lone s t th) {f : State → ThreadRef → Res (Option DWord)}
    {r : Stop} (hf : f s t = .stop r s') (hc : s'.collect = none) : runTo f s = s'.takeStop t r := by
  simp [runTo_lone h, laneStep, h.running, hf, hc]
/-- A word that cannot transfer control, for a lone lane that completes. -/
theorem runLanes_next {s s' : State} {t : ThreadRef} {th : Thread} (h : Lone s t th) {f : State → ThreadRef → Res Unit}
    (hf : f s t = .ok () s') : runLanes f s = s'.advance t := by
  simp [runLanes, runTo_next h (s' := s'), hf, Res.andThen]
/-- A word that cannot transfer control, for a lone lane that stops. -/
theorem runLanes_stop {s s' : State} {t : ThreadRef} {th : Thread} (h : Lone s t th) {f : State → ThreadRef → Res Unit}
    {r : Stop} (hf : f s t = .stop r s') (hc : s'.collect = none) : runLanes f s = s'.takeStop t r :=
  runTo_stop h (by simp [hf, Res.andThen]) hc
/-- A word without checks, for a lone lane. -/
theorem runPure_lone {s : State} {t : ThreadRef} {th : Thread} (h : Lone s t th) (f : State → ThreadRef → State) :
    runPure f s = (f s t).advance t := runLanes_next h rfl

/-! ## The lanes of an issue -/

theorem Gang.lanes {s : State} {ls : List ThreadRef} (h : Gang s ls) : s.lanes = ls := by
  simp [State.lanes, h.actor]

/-- Changes of some threads, one after another. -/
def stepAll (F : ThreadRef → Thread → Thread) (ls : List ThreadRef) (m : Tbl Thread) : Tbl Thread :=
  ls.foldl (fun m t => m.modify (tkey t) (F t)) m

theorem stepAll_other (F : ThreadRef → Thread → Thread) (ls : List ThreadRef) (m : Tbl Thread) (k : Nat)
    (h : k ∉ ls.map tkey) : (stepAll F ls m).find? k = m.find? k := by
  induction ls generalizing m with
  | nil => rfl
  | cons t r ih =>
    simp only [List.map_cons, List.mem_cons, not_or] at h
    simp only [stepAll, List.foldl_cons] at *
    rw [ih _ h.2, Tbl.find?_modify]
    simp [Ne.symm h.1]

theorem stepAll_mem (F : ThreadRef → Thread → Thread) (ls : List ThreadRef) (m : Tbl Thread) (hd : (ls.map tkey).Nodup)
    (t : ThreadRef) (ht : t ∈ ls) : (stepAll F ls m).find? (tkey t) = (m.find? (tkey t)).map (F t) := by
  induction ls generalizing m with
  | nil => simp at ht
  | cons u r ih =>
    simp only [List.map_cons, List.nodup_cons] at hd
    simp only [stepAll, List.foldl_cons]
    rcases List.mem_cons.mp ht with rfl | hr
    · have := stepAll_other F r (m.modify (tkey t) (F t)) (tkey t) hd.1
      simp only [stepAll] at this
      rw [this, Tbl.find?_modify_same]
    · have hne : tkey u ≠ tkey t := fun e => hd.1 (e ▸ List.mem_map_of_mem hr)
      have := ih (m.modify (tkey u) (F u)) hd.2 hr
      simp only [stepAll] at this
      rw [this, Tbl.find?_modify]
      simp [hne]

/-- A word each of whose lanes changes only its own thread, by what that thread and the fixed parts of the package say. -/
theorem runTo_gang {s : State} {ls : List ThreadRef} (h : Gang s ls) {f : State → ThreadRef → Res (Option DWord)}
    {G : ThreadRef → Thread → Thread}
    (hf : ∀ (m : Tbl Thread) (t : ThreadRef) (th : Thread), t ∈ ls → m.find? (tkey t) = some th → s.threads.find? (tkey t) = some th →
      laneStep f { s with threads := m } t = { s with threads := m.modify (tkey t) (G t) }) :
    runTo f s = { s with threads := stepAll G ls s.threads } := by
  have key : ∀ (l : List ThreadRef) (m : Tbl Thread), (l.map tkey).Nodup → (∀ t ∈ l, t ∈ ls) →
      (∀ t ∈ l, m.find? (tkey t) = s.threads.find? (tkey t)) →
      l.foldl (laneStep f) { s with threads := m } = { s with threads := stepAll G l m } := by
    intro l
    induction l with
    | nil => intro m _ _ _; rfl
    | cons t r ih =>
      intro m hd hm heq
      obtain ⟨th, hth, _⟩ := h.live t (hm t (by simp))
      have hmt : m.find? (tkey t) = some th := by rw [heq t (by simp), hth]
      simp only [List.map_cons, List.nodup_cons] at hd
      simp only [List.foldl_cons]
      rw [hf m t th (hm t (by simp)) hmt hth, ih _ hd.2 (fun u hu => hm u (by simp [hu])) ?_]
      · simp [stepAll]
      · intro u hu
        have hne : tkey t ≠ tkey u := fun e => hd.1 (e ▸ List.mem_map_of_mem hu)
        rw [Tbl.find?_modify]
        simp [hne, heq u (by simp [hu])]
  have := key ls s.threads h.distinct (fun t ht => ht) (fun t _ => rfl)
  simpa [runTo, h.lanes] using this

/-- The same for a word without checks. -/
theorem runPure_gang {s : State} {ls : List ThreadRef} (h : Gang s ls) {f : State → ThreadRef → State}
    {F : ThreadRef → Thread → Thread}
    (hf : ∀ (m : Tbl Thread) (t : ThreadRef) (th : Thread), t ∈ ls → m.find? (tkey t) = some th → s.threads.find? (tkey t) = some th →
      (f { s with threads := m } t).advance t =
        { s with threads := m.modify (tkey t) (fun th => { F t th with pc := (F t th).pc + 4 }) }) :
    runPure f s = { s with threads := stepAll (fun t th => { F t th with pc := (F t th).pc + 4 }) ls s.threads } := by
  refine runTo_gang h (f := fun s t => (Res.ok () (f s t)).andThen fun _ s => Res.ok none s) ?_
  intro m t th ht hm hs
  obtain ⟨th', hth', hr⟩ := h.live t ht
  obtain rfl : th' = th := Option.some.inj (hth'.symm.trans hs)
  have hne : ((({ s with threads := m } : State).thread t).status == .ended) = false := by simp [State.thread, hm, hr]
  simp only [laneStep, hne, Bool.false_eq_true, if_false, Res.andThen, hf m t th' ht hm hs]

/-- From that form, what holds of each thread and of everything else. -/
theorem onlyThreads_of_step {s : State} {ls : List ThreadRef} (h : Gang s ls) (G : ThreadRef → Thread → Thread) :
    OnlyThreads s { s with threads := stepAll G ls s.threads } ls G := by
  refine ⟨?_, ?_, rfl⟩
  · intro t ht th hth
    simp [stepAll_mem _ ls s.threads h.distinct t ht, hth]
  · intro k hk
    exact stepAll_other _ ls s.threads k hk
theorem onlyLanes_of_step {s : State} {ls : List ThreadRef} (h : Gang s ls) (F : ThreadRef → Thread → Thread) :
    OnlyLanes s { s with threads := stepAll (fun t th => { F t th with pc := (F t th).pc + 4 }) ls s.threads } ls F :=
  onlyThreads_of_step h _

end Sys2Proof.Machine
end

