-- ==== Sys2Proof/Safety/Words.lean ====
section
/-! DEFINITION. The register words of chapter 9 as its tables give them: each word with the number it computes, written from the
rules and not from the meanings. Claims quantify over these tables. -/
namespace Sys2Proof.Machine.Claims

/-! ## Numbers (R184, R254, R256, R258, R259) -/

/-- An integer modulo 2^w. -/
def wrap (w : Nat) (n : Int) : BitVec w := BitVec.ofInt w n
/-- u(v) as an integer. -/
def u {w : Nat} (v : BitVec w) : Int := v.toNat
/-- Bits [hi:lo] of a word as a number. -/
def bits (a : Word) (hi lo : Nat) : Nat := a.toNat / 2 ^ lo % 2 ^ (hi + 1 - lo)
/-- Bits [hi:lo] of a word read as two's complement. -/
def sbits (a : Word) (hi lo : Nat) : Int :=
  let v := bits a hi lo
  if 2 ^ (hi - lo) ≤ v then (v : Int) - 2 ^ (hi + 1 - lo) else v
/-- The four byte products of IDP4. -/
def products (val : Word → Nat → Int) (a b : Word) : Int :=
  val a 0 * val b 0 + val a 1 * val b 1 + val a 2 * val b 2 + val a 3 * val b 3
/-- u(a) × 2^n when n < w; 0 otherwise. -/
def shl {w : Nat} (a : BitVec w) (n : Nat) : BitVec w := if n < w then wrap w (u a * 2 ^ n) else 0
/-- floor(u(a) / 2^n) when n < w; 0 otherwise. -/
def shr {w : Nat} (a : BitVec w) (n : Nat) : BitVec w := if n < w then wrap w (u a / 2 ^ n) else 0
/-- floor(s(a) / 2^n) when n < w; 0 or −1, by the sign of a, otherwise. -/
def sar {w : Nat} (a : BitVec w) (n : Nat) : BitVec w :=
  if n < w then wrap w (a.toInt / 2 ^ n) else if a.toInt < 0 then wrap w (-1) else 0
/-- a rotated left by n mod w. -/
def rol {w : Nat} (a : BitVec w) (n : Nat) : BitVec w := wrap w (u a * 2 ^ (n % w) + u a / 2 ^ (w - n % w))
/-- The low register of a pair, as a shift amount. -/
def low (b : DWord) : Nat := b.toNat % 2 ^ 32
/-- The number of 1 bits. -/
def ones {w : Nat} (a : BitVec w) : Nat := (List.range w).countP (fun i => a.getLsbD i)
/-- The number of 0 bits above the highest 1 bit; w for 0. -/
def above {w : Nat} (a : BitVec w) : Nat := if a = 0 then w else w - 1 - Nat.log2 a.toNat
/-- The number of 0 bits below the lowest 1 bit; w for 0. -/
def below {w : Nat} (a : BitVec w) : Nat := ((List.range w).find? (fun i => a.getLsbD i)).getD w
/-- Bit i of the result is bit w − 1 − i. -/
def turned {w : Nat} (a : BitVec w) : BitVec w :=
  wrap w (((List.range w).map (fun i => if a.getLsbD (w - 1 - i) then (2 ^ i : Int) else 0)).sum)
/-- m of R259. -/
def fieldBits (b : Word) : Nat :=
  let p := bits b 7 0
  let l := bits b 15 8
  if 32 ≤ p ∨ l = 0 then 0 else min l (32 - p)
/-- BFX: the field, zero- or sign-extended. -/
def extract (signed : Bool) (a b : Word) : Word :=
  let p := bits b 7 0
  let m := fieldBits b
  if m = 0 then 0 else if signed then wrap 32 (sbits a (p + m - 1) p) else wrap 32 (bits a (p + m - 1) p)
/-- BFI: bits [p+m−1:p] of d replaced by bits [m−1:0] of a. -/
def insert (d a b : Word) : Word :=
  let p := bits b 7 0
  let m := fieldBits b
  if m = 0 then d else wrap 32 (u d - bits d (p + m - 1) p * 2 ^ p + bits a (m - 1) 0 * 2 ^ p)
/-- BPRM: byte i is the byte of a or d that nibble i of b names, or 0. -/
def permute (d a b : Word) : Word :=
  let byte := fun (i : Nat) =>
    let c := bits b (4 * i + 3) (4 * i)
    if c ≤ 3 then bits a (8 * c + 7) (8 * c) else if c ≤ 7 then bits d (8 * (c - 4) + 7) (8 * (c - 4)) else 0
  wrap 32 (byte 0 + 2 ^ 8 * byte 1 + 2 ^ 16 * byte 2 + 2 ^ 24 * byte 3)

/-! ## Tables -/

/-- A word of format R on single registers: what it writes to D, from d, a and b; `two` where it reads B. -/
structure R32 where
  word : FmtR → Instr
  two : Bool
  val : Word → Word → Word → Word
/-- A word of format R on pairs. -/
structure R64 where
  word : FmtR → Instr
  two : Bool
  val : DWord → DWord → DWord → DWord
/-- A word of format R from a pair to a register. -/
structure N64 where
  word : FmtR → Instr
  val : DWord → Word

/-- The .b32 rows of R254. -/
def arith32 : List R32 :=
  [⟨.addB32, true, fun _ a b => wrap 32 (u a + u b)⟩, ⟨.subB32, true, fun _ a b => wrap 32 (u a - u b)⟩,
   ⟨.mulB32, true, fun _ a b => wrap 32 (u a * u b)⟩, ⟨.mulhS32, true, fun _ a b => wrap 32 (a.toInt * b.toInt / 2 ^ 32)⟩,
   ⟨.mulhN32, true, fun _ a b => wrap 32 (u a * u b / 2 ^ 32)⟩, ⟨.minS32, true, fun _ a b => wrap 32 (min a.toInt b.toInt)⟩,
   ⟨.minN32, true, fun _ a b => wrap 32 (min (u a) (u b))⟩, ⟨.maxS32, true, fun _ a b => wrap 32 (max a.toInt b.toInt)⟩,
   ⟨.maxN32, true, fun _ a b => wrap 32 (max (u a) (u b))⟩, ⟨.absS32, false, fun _ a _ => wrap 32 a.toInt.natAbs⟩,
   ⟨.negS32, false, fun _ a _ => wrap 32 (-a.toInt)⟩, ⟨.madB32, true, fun d a b => wrap 32 (u d + u a * u b)⟩,
   ⟨.idp4S8, true, fun d a b => wrap 32 (u d + products (fun x i => sbits x (8 * i + 7) (8 * i)) a b)⟩,
   ⟨.idp4N8, true, fun d a b => wrap 32 (u d + products (fun x i => bits x (8 * i + 7) (8 * i)) a b)⟩]
/-- The .b64 rows of R254. -/
def arith64 : List R64 :=
  [⟨.addB64, true, fun _ a b => wrap 64 (u a + u b)⟩, ⟨.subB64, true, fun _ a b => wrap 64 (u a - u b)⟩,
   ⟨.mulB64, true, fun _ a b => wrap 64 (u a * u b)⟩, ⟨.mulhS64, true, fun _ a b => wrap 64 (a.toInt * b.toInt / 2 ^ 64)⟩,
   ⟨.mulhN64, true, fun _ a b => wrap 64 (u a * u b / 2 ^ 64)⟩, ⟨.minS64, true, fun _ a b => wrap 64 (min a.toInt b.toInt)⟩,
   ⟨.minN64, true, fun _ a b => wrap 64 (min (u a) (u b))⟩, ⟨.maxS64, true, fun _ a b => wrap 64 (max a.toInt b.toInt)⟩,
   ⟨.maxN64, true, fun _ a b => wrap 64 (max (u a) (u b))⟩, ⟨.absS64, false, fun _ a _ => wrap 64 a.toInt.natAbs⟩,
   ⟨.negS64, false, fun _ a _ => wrap 64 (-a.toInt)⟩, ⟨.madB64, true, fun d a b => wrap 64 (u d + u a * u b)⟩]
/-- The .b32 rows of R256. -/
def logic32 : List R32 :=
  [⟨.andB32, true, fun _ a b => a &&& b⟩, ⟨.orB32, true, fun _ a b => a ||| b⟩, ⟨.xorB32, true, fun _ a b => a ^^^ b⟩,
   ⟨.andnB32, true, fun _ a b => a &&& ~~~b⟩, ⟨.shlB32, true, fun _ a b => shl a b.toNat⟩,
   ⟨.shrB32, true, fun _ a b => shr a b.toNat⟩, ⟨.sarB32, true, fun _ a b => sar a b.toNat⟩,
   ⟨.rolB32, true, fun _ a b => rol a b.toNat⟩]
/-- The .b64 rows of R256. -/
def logic64 : List R64 :=
  [⟨.andB64, true, fun _ a b => a &&& b⟩, ⟨.orB64, true, fun _ a b => a ||| b⟩, ⟨.xorB64, true, fun _ a b => a ^^^ b⟩,
   ⟨.andnB64, true, fun _ a b => a &&& ~~~b⟩, ⟨.shlB64, true, fun _ a b => shl a (low b)⟩,
   ⟨.shrB64, true, fun _ a b => shr a (low b)⟩, ⟨.sarB64, true, fun _ a b => sar a (low b)⟩,
   ⟨.rolB64, true, fun _ a b => rol a (low b)⟩]
/-- R258 and R259 on single registers. -/
def bits32 : List R32 :=
  [⟨.popcB32, false, fun _ a _ => wrap 32 (ones a)⟩, ⟨.clzB32, false, fun _ a _ => wrap 32 (above a)⟩,
   ⟨.ctzB32, false, fun _ a _ => wrap 32 (below a)⟩, ⟨.brevB32, false, fun _ a _ => turned a⟩,
   ⟨.bfxN32, true, fun _ a b => extract false a b⟩, ⟨.bfxS32, true, fun _ a b => extract true a b⟩,
   ⟨.bfiB32, true, insert⟩, ⟨.bprmB32, true, permute⟩]
/-- BREV.b64 (R258). -/
def bits64 : List R64 := [⟨.brevB64, false, fun _ a _ => turned a⟩]
/-- The counts of pairs (R258). -/
def counts64 : List N64 :=
  [⟨.popcB64, fun a => wrap 32 (ones a)⟩, ⟨.clzB64, fun a => wrap 32 (above a)⟩, ⟨.ctzB64, fun a => wrap 32 (below a)⟩]

/-! ## Effects on a thread -/

/-- The registers that an R-format word marks as last uses (R234). -/
def lastUses (f : FmtR) (n : Nat) (two : Bool) : List Run :=
  mark f.la [(f.a.toNat, n)] ++ (if two then mark f.lb [(f.b.toNat, n)] else [])
/-- What a word of R32 makes of a lane's thread: its last uses, then D. -/
def R32.effect (e : R32) (f : FmtR) (s : State) (t : ThreadRef) (th : Thread) : Thread :=
  (th.useRuns (lastUses f 1 e.two)).setG f.d.toNat
    (e.val (s.readG t f.d.toNat) (s.readG t f.a.toNat) (s.readG t f.b.toNat))
/-- What a word of R64 makes of a lane's thread. -/
def R64.effect (e : R64) (f : FmtR) (s : State) (t : ThreadRef) (th : Thread) : Thread :=
  (th.useRuns (lastUses f 2 e.two)).setRun f.d.toNat
    (wordsOf (e.val (s.readPair t f.d.toNat) (s.readPair t f.a.toNat) (s.readPair t f.b.toNat)))
/-- What a word of N64 makes of a lane's thread. -/
def N64.effect (e : N64) (f : FmtR) (s : State) (t : ThreadRef) (th : Thread) : Thread :=
  (th.useRuns (lastUses f 2 false)).setG f.d.toNat (e.val (s.readPair t f.a.toNat))

/-- The immediate shifts of R257: each with its value for any width and an amount. -/
structure Shift where
  word : FmtSh → Instr
  val : (w : Nat) → BitVec w → Nat → BitVec w
/-- SHLI, SHRI, SARI and ROLI. -/
def shifts : List Shift :=
  [⟨.shli, fun _ => shl⟩, ⟨.shri, fun _ => shr⟩, ⟨.sari, fun _ => sar⟩, ⟨.roli, fun _ => rol⟩]
/-- What an immediate shift makes of a lane's thread, at the width WD names. -/
def Shift.effect (e : Shift) (f : FmtSh) (s : State) (t : ThreadRef) (th : Thread) : Thread :=
  if f.wd then
    (th.useRuns (mark f.la [(f.a.toNat, 2)])).setRun f.d.toNat (wordsOf (e.val 64 (s.readPair t f.a.toNat) f.n.toNat))
  else (th.useRuns (mark f.la [(f.a.toNat, 1)])).setG f.d.toNat (e.val 32 (s.readG t f.a.toNat) f.n.toNat)

/-- The I-format immediates on a register (R265): what each writes, from a and IMM. -/
def immediates : List ((FmtI → Instr) × (Word → BitVec 11 → Word)) :=
  [(.addiB32, fun a n => wrap 32 (u a + n.toInt)), (.andi, fun a n => a &&& wrap 32 n.toNat),
   (.ori, fun a n => a ||| wrap 32 n.toNat), (.xori, fun a n => a ^^^ wrap 32 n.toNat)]
/-- The L-format constants (R266): what each writes, from d and IMM. -/
def constants : List ((FmtL → Instr) × (Word → BitVec 16 → Word)) :=
  [(.moviN, fun _ n => wrap 32 n.toNat), (.moviS, fun _ n => wrap 32 n.toInt),
   (.movh, fun d n => wrap 32 (n.toNat * 2 ^ 16 + bits d 15 0)), (.addh, fun d n => wrap 32 (u d + n.toNat * 2 ^ 16))]

/-! ## Flags (R227, R262-R264) -/

/-- The condition of a CC code on two integers: eq, ne, lt, le, gt, ge. -/
def holds (cc : Nat) (x y : Int) : Bool :=
  match cc with
  | 0 => decide (x = y)
  | 1 => decide (x ≠ y)
  | 2 => decide (x < y)
  | 3 => decide (x ≤ y)
  | 4 => decide (y < x)
  | _ => decide (y ≤ x)
/-- A thread with a flag written; a write to f7 is discarded. -/
def withFlag (th : Thread) (n : Nat) (b : Bool) : Thread := if n = 7 then th else { th with flags := putBit th.flags n b }
/-- An integer operand of CMP: a register or a pair, signed or not, as TY says (0 s32, 1 n32, 2 s64, 3 n64). -/
def operand (s : State) (t : ThreadRef) (ty r : Nat) : Int :=
  match ty with
  | 0 => (s.readG t r).toInt
  | 1 => u (s.readG t r)
  | 2 => (s.readPair t r).toInt
  | _ => u (s.readPair t r)
/-- FAND, FOR, FXOR, FNOT (R264). -/
def flagWords : List ((FmtR → Instr) × (Bool → Bool → Bool)) :=
  [(.fAnd, fun a b => a && b), (.fOr, fun a b => a || b), (.fXor, fun a b => a ^^ b), (.fNot, fun a _ => !a)]

/-! ## Completion -/

/-- The instruction answers a next state in which each lane's thread has become what `F` says and has gone on to the next word,
and nothing else has changed. -/
def Does (i : Instr) (s : State) (ls : List ThreadRef) (F : ThreadRef → Thread → Thread) : Prop :=
  ∃ v, exec i s = .next v ∧ OnlyLanes s v ls F

/-- The instruction answers a next state in which each lane's thread has become what `G` says, its pc too, and nothing else has
changed. -/
def Makes (i : Instr) (s : State) (ls : List ThreadRef) (G : ThreadRef → Thread → Thread) : Prop :=
  ∃ v, exec i s = .next v ∧ OnlyThreads s v ls G

end Sys2Proof.Machine.Claims
end

