-- ==== Sys2Proof/Laws/Forms.lean ====
section
/-! SUPPORT. Each operand form of Operands.lean, said once for the lanes of an issue. -/
namespace Sys2Proof.Machine
open Claims

/-! ## Reading in a state whose other threads have changed -/

theorem Tbl.modify_modify {β : Type} (m : Tbl β) (k : Nat) (f g : β → β) :
    (m.modify k f).modify k g = m.modify k (g ∘ f) := by
  simp only [Tbl.modify]
  cases h : m.find? k with
  | none => simp [h]
  | some v => simp [Tbl.find?_put_same, Tbl.put_put]

/-- A change of a thread is by what the change makes of the thread that is there. -/
theorem Tbl.modify_congr {β : Type} {m : Tbl β} {k : Nat} {v : β} {f g : β → β} (h : m.find? k = some v) (e : f v = g v) :
    m.modify k f = m.modify k g := by
  simp [Tbl.modify, h, e]

section
variable {s : State} {m : Tbl Thread} {t : ThreadRef} {th : Thread}

theorem thread_threads (h : m.find? (tkey t) = some th) : ({ s with threads := m } : State).thread t = th := by
  simp [State.thread, h]
theorem readG_threads (h1 : m.find? (tkey t) = some th) (h2 : s.threads.find? (tkey t) = some th) (n : Nat) :
    ({ s with threads := m } : State).readG t n = s.readG t n := by
  simp [State.readG, State.thread, h1, h2]
theorem readPair_threads (h1 : m.find? (tkey t) = some th) (h2 : s.threads.find? (tkey t) = some th) (n : Nat) :
    ({ s with threads := m } : State).readPair t n = s.readPair t n := by
  simp [State.readPair, readG_threads h1 h2]
theorem readF_threads (h1 : m.find? (tkey t) = some th) (h2 : s.threads.find? (tkey t) = some th) (n : Nat) :
    ({ s with threads := m } : State).readF t n = s.readF t n := by
  simp [State.readF, State.thread, h1, h2]
theorem readFcr_threads (h1 : m.find? (tkey t) = some th) (h2 : s.threads.find? (tkey t) = some th) :
    ({ s with threads := m } : State).readFcr t = s.readFcr t := by
  simp [State.readFcr, State.thread, h1, h2]
end

/-- A word that may go anywhere, by what it makes of each lane's thread. -/
theorem makes_of {i : Instr} {s : State} {ls : List ThreadRef} {f : State → ThreadRef → Res (Option DWord)}
    {G : ThreadRef → Thread → Thread} (h : Gang s ls) (he : exec i s = .next (runTo f s))
    (hf : ∀ (m : Tbl Thread) (t : ThreadRef) (th : Thread), t ∈ ls → m.find? (tkey t) = some th →
      s.threads.find? (tkey t) = some th → laneStep f { s with threads := m } t = { s with threads := m.modify (tkey t) (G t) }) :
    Makes i s ls G :=
  ⟨_, he.trans (by rw [runTo_gang h (G := G) hf]), onlyThreads_of_step h G⟩
/-- A lane of the issue has not ended. -/
theorem notEnded {s : State} {ls : List ThreadRef} (h : Gang s ls) {m : Tbl Thread} {t : ThreadRef} {th : Thread} (ht : t ∈ ls)
   (h1 : m.find? (tkey t) = some th) (h2 : s.threads.find? (tkey t) = some th) : ((({ s with threads := m } : State).thread t).status == .ended) = false := by
  obtain ⟨th', hth', hr⟩ := h.live t ht
  obtain rfl : th' = th := Option.some.inj (hth'.symm.trans h2)
  simp [State.thread, h1, hr]
/-- The same where every lane goes on to the next word. -/
theorem does_to {i : Instr} {s : State} {ls : List ThreadRef} {f : State → ThreadRef → Res (Option DWord)}
    {F : ThreadRef → Thread → Thread} (h : Gang s ls) (he : exec i s = .next (runTo f s))
    (hf : ∀ (m : Tbl Thread) (t : ThreadRef) (th : Thread), t ∈ ls → m.find? (tkey t) = some th →
      s.threads.find? (tkey t) = some th → laneStep f { s with threads := m } t = { s with threads := m.modify (tkey t) (fun th => { F t th with pc := (F t th).pc + 4 }) }) :
    Does i s ls F := makes_of h he hf
/-- A word's own ILLEGAL check stops a lone lane. -/
theorem illegal_stop {s : State} {t : ThreadRef} {th : Thread} (h : Lone s t th) (n : Nat) (hc : s.collect = none) {f : State → ThreadRef → Res Unit}
   (hf : f s t = illegal n t s) : runLanes f s = s.takeTrap t { code := 1, sub := n, va := th.pc } := by
  refine runLanes_stop h (s' := s) (r := .trap { code := 1, sub := n, va := th.pc }) ?_ hc
  rw [hf]; simp [illegal, Res.trapAt, h.thread, trapIllegal]

/-! ## Forms -/

/-- A word without checks does what it does to each lane's thread. -/
theorem does_of {i : Instr} {s : State} {ls : List ThreadRef} {f : State → ThreadRef → State}
    {F : ThreadRef → Thread → Thread} (h : Gang s ls) (he : exec i s = .next (runPure f s))
    (hf : ∀ (m : Tbl Thread) (t : ThreadRef) (th : Thread), t ∈ ls → m.find? (tkey t) = some th →
      s.threads.find? (tkey t) = some th → f { s with threads := m } t = { s with threads := m.modify (tkey t) (F t) }) :
    Does i s ls F :=
  ⟨_, he.trans (by
    rw [runPure_gang h (F := F) (fun m t th ht h1 h2 => by
      rw [hf m t th ht h1 h2]; simp only [State.advance, State.modThread, Tbl.modify_modify]; rfl)]), onlyLanes_of_step h F⟩

section
variable {i : Instr} {f : FmtR} {s : State} {ls : List ThreadRef}

theorem opR32_does {g : Word → Word → Word} (h : Gang s ls) (he : exec i s = .next (opR32 f g s)) :
    Does i s ls (R32.effect ⟨fun _ => i, true, fun _ a b => g a b⟩ f s) := by
  refine does_of h he ?_
  intro m t th _ h1 h2
  simp only [readG_threads h1 h2, State.useLast, State.writeG, State.modThread, Tbl.modify_modify]
  rfl
theorem opU32_does {g : Word → Word} (h : Gang s ls) (he : exec i s = .next (opU32 f g s)) :
    Does i s ls (R32.effect ⟨fun _ => i, false, fun _ a _ => g a⟩ f s) := by
  refine does_of h he ?_
  intro m t th _ h1 h2
  simp only [readG_threads h1 h2, State.useLast, State.writeG, State.modThread, Tbl.modify_modify]
  congr 2
  funext x
  simp [R32.effect, lastUses]
theorem opD32_does {g : Word → Word → Word → Word} (h : Gang s ls) (he : exec i s = .next (opD32 f g s)) :
    Does i s ls (R32.effect ⟨fun _ => i, true, g⟩ f s) := by
  refine does_of h he ?_
  intro m t th _ h1 h2
  simp only [readG_threads h1 h2, State.useLast, State.writeG, State.modThread, Tbl.modify_modify]
  rfl
theorem opR64_does {g : DWord → DWord → DWord} (h : Gang s ls) (he : exec i s = .next (opR64 f g s)) :
    Does i s ls (R64.effect ⟨fun _ => i, true, fun _ a b => g a b⟩ f s) := by
  refine does_of h he ?_
  intro m t th _ h1 h2
  simp only [readPair_threads h1 h2, State.useLast, State.writePair, State.writeRun, State.modThread, Tbl.modify_modify]
  rfl
theorem opU64_does {g : DWord → DWord} (h : Gang s ls) (he : exec i s = .next (opU64 f g s)) :
    Does i s ls (R64.effect ⟨fun _ => i, false, fun _ a _ => g a⟩ f s) := by
  refine does_of h he ?_
  intro m t th _ h1 h2
  simp only [readPair_threads h1 h2, State.useLast, State.writePair, State.writeRun, State.modThread, Tbl.modify_modify]
  congr 2
  funext x
  simp [R64.effect, lastUses]
theorem opD64_does {g : DWord → DWord → DWord → DWord} (h : Gang s ls) (he : exec i s = .next (opD64 f g s)) :
    Does i s ls (R64.effect ⟨fun _ => i, true, g⟩ f s) := by
  refine does_of h he ?_
  intro m t th _ h1 h2
  simp only [readPair_threads h1 h2, State.useLast, State.writePair, State.writeRun, State.modThread, Tbl.modify_modify]
  rfl
theorem opN64_does {g : DWord → Word} (h : Gang s ls) (he : exec i s = .next (opN64 f g s)) :
    Does i s ls (N64.effect ⟨fun _ => i, g⟩ f s) := by
  refine does_of h he ?_
  intro m t th _ h1 h2
  simp only [readPair_threads h1 h2, State.useLast, State.writeG, State.modThread, Tbl.modify_modify]
  congr 2
  funext x
  simp [N64.effect, lastUses]
end

theorem opSh_does {i : Instr} {f : FmtSh} {s : State} {ls : List ThreadRef} {v : (w : Nat) → BitVec w → Nat → BitVec w}
    (h : Gang s ls) (he : exec i s = .next (opSh f (fun a => v 32 a f.n.toNat) (fun a => v 64 a f.n.toNat) s)) :
    Does i s ls (Shift.effect ⟨fun _ => i, v⟩ f s) := by
  refine does_of h he ?_
  intro m t th _ h1 h2
  cases hw : f.wd <;>
    simp only [readG_threads h1 h2, readPair_threads h1 h2, State.useLast, State.writePair, State.writeRun, State.writeG,
      State.modThread, Tbl.modify_modify, Bool.false_eq_true, if_false, if_true] <;>
    refine congrArg (fun x => { s with threads := x }) (congrArg _ ?_) <;> funext x <;> simp [Shift.effect, hw]
theorem opI32_does {i : Instr} {f : FmtI} {s : State} {ls : List ThreadRef} {g : Word → Word} (h : Gang s ls)
    (he : exec i s = .next (opI32 f g s)) :
    Does i s ls (fun t th => (th.useRuns (mark f.la [(f.a.toNat, 1)])).setG f.d.toNat (g (s.readG t f.a.toNat))) := by
  refine does_of h he ?_
  intro m t th _ h1 h2
  simp only [readG_threads h1 h2, State.useLast, State.writeG, State.modThread, Tbl.modify_modify]
  rfl
theorem opI64_does {i : Instr} {f : FmtI} {s : State} {ls : List ThreadRef} {g : DWord → DWord} (h : Gang s ls)
    (he : exec i s = .next (opI64 f g s)) :
    Does i s ls (fun t th => (th.useRuns (mark f.la [(f.a.toNat, 2)])).setRun f.d.toNat
      (wordsOf (g (s.readPair t f.a.toNat)))) := by
  refine does_of h he ?_
  intro m t th _ h1 h2
  simp only [readPair_threads h1 h2, State.useLast, State.writePair, State.writeRun, State.modThread, Tbl.modify_modify]
  rfl
theorem opL_does {i : Instr} {f : FmtL} {s : State} {ls : List ThreadRef} {g : Word → Word} (h : Gang s ls)
    (he : exec i s = .next (opL f g s)) :
    Does i s ls (fun t th => th.setG f.d.toNat (g (s.readG t f.d.toNat))) := by
  refine does_of h he ?_
  intro m t th _ h1 h2
  simp only [readG_threads h1 h2, State.writeG, State.modThread]
theorem opConst_does {i : Instr} {f : FmtL} {s : State} {ls : List ThreadRef} {v : Word} (h : Gang s ls)
    (he : exec i s = .next (opConst f v s)) : Does i s ls (fun _ th => th.setG f.d.toNat v) :=
  does_of h he (fun _ _ _ _ _ _ => rfl)
/-- What a word that writes a flag does, where it changes nothing before. -/
theorem flag_does {i : Instr} {s : State} {ls : List ThreadRef} {n : Nat} {v : State → ThreadRef → Bool} (h : Gang s ls)
    (hv : ∀ (m : Tbl Thread) (t : ThreadRef) (th : Thread), m.find? (tkey t) = some th → s.threads.find? (tkey t) = some th →
      v { s with threads := m } t = v s t)
    (he : exec i s = .next (runPure (fun s t => s.writeF t n (v s t)) s)) :
    Does i s ls (fun t th => withFlag th n (v s t)) := by
  refine ⟨_, he.trans (congrArg _ (runPure_gang h (F := fun t th => withFlag th n (v s t)) ?_)), onlyLanes_of_step h _⟩
  intro m t th _ h1 h2
  by_cases hn : n = 7
  · simp only [State.writeF, hn, if_true, withFlag]; rfl
  · simp only [State.writeF, hn, if_false, withFlag, hv m t th h1 h2, State.advance, State.modThread, Tbl.modify_modify]; rfl
/-- The same after last uses. -/
theorem lastFlag_does {i : Instr} {s : State} {ls : List ThreadRef} {n : Nat} {v : State → ThreadRef → Bool} {rs : List Run}
    (h : Gang s ls)
    (hv : ∀ (m : Tbl Thread) (t : ThreadRef) (th : Thread), m.find? (tkey t) = some th → s.threads.find? (tkey t) = some th →
      v { s with threads := m } t = v s t)
    (he : exec i s = .next (runPure (fun s t => (s.useLast t rs).writeF t n (v s t)) s)) :
    Does i s ls (fun t th => withFlag (th.useRuns rs) n (v s t)) := by
  refine does_of h he ?_
  intro m t th _ h1 h2
  by_cases hn : n = 7
  · simp only [State.writeF, hn, if_true, withFlag]; rfl
  · simp only [State.writeF, hn, if_false, withFlag, hv m t th h1 h2, State.useLast, State.modThread, Tbl.modify_modify]; rfl

end Sys2Proof.Machine
end

