-- ==== Sys2Proof/Laws/Still.lean ====
section
/-! SUPPORT. What accesses to memory leave alone: every operation of the memory hierarchy and of translation changes nothing but
what that hierarchy holds. -/
namespace Sys2Proof.Machine.State
set_option Elab.async false

/-- Equal but for the hierarchy: the fields that a word's own effect rests on are equal. -/
theorem of_still {s u : State} (h : u.still = s.still) :
    u.threads = s.threads ∧ u.tasks = s.tasks ∧ u.gates = s.gates ∧ u.tick = s.tick := by
  have e : ∀ {β : Type} (g : State → β), (∀ x, g x.still = g x) → g u = g s := fun g hg => by rw [← hg u, h, hg]
  exact ⟨e State.threads fun _ => rfl, e State.tasks fun _ => rfl, e State.gates fun _ => rfl, e State.tick fun _ => rfl⟩
theorem foldl_still {α : Type} (f : State → α → State) (h : ∀ s a, (f s a).still = s.still) (l : List α) (s : State) :
    (l.foldl f s).still = s.still := by
  induction l generalizing s with
  | nil => rfl
  | cons a r ih => simp only [List.foldl_cons, ih, h]

theorem ite_still (c : Prop) [Decidable c] (a b : State) : (if c then a else b).still = if c then a.still else b.still :=
  apply_ite State.still c a b

theorem still_of_ite {c : Prop} [Decidable c] {a b s : State} (ha : a.still = s.still) (hb : b.still = s.still) :
    (if c then a else b).still = s.still := by
  split <;> assumption

/-! ## Plain updates -/

@[simp] theorem setMeta_still (s : State) (line : Nat) (m : Meta) : (s.setMeta line m).still = s.still := rfl
@[simp] theorem countError_still (s : State) : s.countError.still = s.still := rfl
@[simp] theorem unlisted_still (s : State) : s.unlisted.still = s.still := rfl
@[simp] theorem putSlice_still (s : State) (d l : Nat) (e : SliceLine) : (s.putSlice d l e).still = s.still := rfl
@[simp] theorem dropSlice_still (s : State) (d l : Nat) : (s.dropSlice d l).still = s.still := rfl
@[simp] theorem putL1_still (s : State) (c w : Nat) (x : L1Word) : (s.putL1 c w x).still = s.still := rfl
@[simp] theorem dropL1_still (s : State) (c w : Nat) : (s.dropL1 c w).still = s.still := rfl
@[simp] theorem setMemWord_still (s : State) (w : Nat) (v : Word) : (s.setMemWord w v).still = s.still := rfl
@[simp] theorem setRegs_still (s : State) (c : Nat) (l : List Reg) : (s.setRegs c l).still = s.still := rfl
@[simp] theorem l1_still (s : State) (m : Tbl L1Word) : ({ s with l1 := m } : State).still = s.still := rfl
@[simp] theorem poison_still (s : State) (pa : Nat) : (s.poison pa).still = s.still := rfl
@[simp] theorem addTlb_still (s : State) (v : Via) (e : Nat × Nat × Tlb) : (s.addTlb v e).still = s.still := by
  cases v <;> rfl
@[simp] theorem countHome_still (s : State) (d l : Nat) (w : Bool) : (s.countHome d l w).still = s.still := rfl
@[simp] theorem fillSlice_still (s : State) (d l : Nat) (e : SliceLine) : (s.fillSlice d l e).still = s.still := rfl
@[simp] theorem touch_still (s : State) (d l : Nat) : (s.touch d l).still = s.still := by
  unfold State.touch; split <;> rfl
@[simp] theorem hostq_still (s : State) (q : List HostWrite) : ({ s with hostq := q } : State).still = s.still := rfl
@[simp] theorem nextStore_still (s : State) (n : Nat) : ({ s with nextStore := n } : State).still = s.still := rfl
@[simp] theorem regions_still (s : State) (r : List (Nat × Nat)) : ({ s with regions := r } : State).still = s.still := rfl
@[simp] theorem mem_still (s : State) (m : Memory) : ({ s with mem := m } : State).still = s.still := rfl
@[simp] theorem hostMem_still (s : State) (m : Memory) : ({ s with hostMem := m } : State).still = s.still := rfl
@[simp] theorem spills_still (s : State) (m : Tbl Word) : ({ s with spills := m } : State).still = s.still := rfl
@[simp] theorem tracker_still (s : State) (m : Tbl (List TrackEntry)) : ({ s with tracker := m } : State).still = s.still := rfl
@[simp] theorem counts_still (s : State) (m : Tbl AccessCount) : ({ s with counts := m } : State).still = s.still := rfl
@[simp] theorem atsPending_still (s : State) (m : List (Nat × Nat × Nat)) : ({ s with atsPending := m } : State).still = s.still := rfl
@[simp] theorem priDenied_still (s : State) (m : List (Nat × Nat)) : ({ s with priDenied := m } : State).still = s.still := rfl
theorem assocSet_forced (l : List (GReg × DWord)) (h : Nat) (v : DWord) :
    (assocSet l (.uforced h) v).filter (fun e => !forced e.1) =
      l.filter (fun e => !forced e.1) := by
  induction l with
  | nil => rfl
  | cons e r ih =>
    obtain ⟨x, w⟩ := e
    simp only [assocSet]
    split
    · next he => subst he; simp [forced]
    · simp only [List.filter_cons, ih]
@[simp] theorem bumpForced_still (s : State) (h : Nat) : (s.bumpG (.uforced h)).still = s.still := by
  simp only [State.still, State.bumpG, State.setGreg, assocSet_forced]

theorem hits_still (s : State) (g : Nat × Layout → Nat × Layout)
    (h : ∀ e, (g e).1 = e.1 ∧ { (g e).2 with hits := [] } = { e.2 with hits := [] }) :
    ({ s with layouts := s.layouts.map g } : State).still = s.still := by
  simp only [State.still, List.map_map]
  congr 1
  exact List.map_congr_left fun e _ => Prod.ext (h e).1 (h e).2
@[simp] theorem compete_still (s : State) (p : Layout → Bool) (h : Nat × Nat × Nat) : (s.compete p h).still = s.still := by
  unfold State.compete; split
  · exact hits_still _ _ fun e => by split <;> exact ⟨rfl, rfl⟩
  · rfl
@[simp] theorem competeMem_still (s : State) (h : Bool) (a n : Nat) : (s.competeMem h a n).still = s.still :=
  compete_still _ _ _

/-! ## Coherence -/

@[simp] theorem checkMeta_still (s : State) (l : Nat) : (s.checkMeta l).still = s.still := by
  unfold State.checkMeta; dsimp only; split <;> simp
@[simp] theorem fetchSector_still (s : State) (d l k : Nat) : (s.fetchSector d l k).still = s.still := by
  unfold State.fetchSector; split
  · rfl
  · split <;> simp
@[simp] theorem recall_still (s : State) (d l : Nat) : (s.recall d l).still = s.still := by
  unfold State.recall; split
  · rfl
  · rw [foldl_still]
    · simp
    · intro s i; split
      · rfl
      · split <;> simp
@[simp] theorem invalidate_still (s : State) (d l : Nat) : (s.invalidate d l).still = s.still := by
  simp [State.invalidate]
@[simp] theorem invalidateAll_still (s : State) (l : Nat) (ds : List Nat) : (s.invalidateAll l ds).still = s.still := by
  unfold State.invalidateAll; exact foldl_still _ (by simp) _ _
@[simp] theorem flush_still (s : State) (d l : Nat) : (s.flush d l).still = s.still := by
  unfold State.flush; split
  · rfl
  · exact foldl_still _ (fun s i => by split <;> simp) _ _
@[simp] theorem merge_still (s : State) (l : Nat) : (s.merge l).still = s.still := by
  unfold State.merge
  simp only [setMeta_still]
  rw [foldl_still, foldl_still]
  · intro t k
    apply foldl_still
    intro t dc
    split
    · rfl
    · split <;> simp
  · intro t dc
    simp only [dropSlice_still]
    rw [foldl_still]
    · split <;> simp
    · intro t c
      apply foldl_still
      intro t i
      split <;> simp
@[simp] theorem toI_still (s : State) (l : Nat) : (s.toI l).still = s.still := by
  unfold State.toI; dsimp only; split <;> simp
@[simp] theorem hold_still (s : State) (d l : Nat) (st : DieSt) : (s.hold d l st).still = s.still := by
  unfold State.hold; split <;> simp
@[simp] theorem grantE_still (s : State) (l d : Nat) : (s.grantE l d).still = s.still := by
  simp [State.grantE]
@[simp] theorem rdS_still (s : State) (l d : Nat) : (s.rdS l d).still = s.still := by
  unfold State.rdS; dsimp only; repeat' split
  all_goals simp
@[simp] theorem rdX_still (s : State) (l d : Nat) : (s.rdX l d).still = s.still := by
  unfold State.rdX; dsimp only; repeat' split
  all_goals simp
@[simp] theorem wb_still (s : State) (l d : Nat) : (s.wb l d).still = s.still := by
  unfold State.wb; dsimp only; split
  · split <;> simp
  · simp
@[simp] theorem evC_still (s : State) (l d : Nat) : (s.evC l d).still = s.still := by
  unfold State.evC; dsimp only; split
  · simp
  · split <;> try simp
    split
    · simp
    · split <;> simp
@[simp] theorem countFetch_still (s : State) (d l k : Nat) (w : Bool) : (s.countFetch d l k w).still = s.still := by
  unfold State.countFetch; split <;> simp [ite_still]
@[simp] theorem countOwned_still (s : State) (d l : Nat) (ks : List Nat) : (s.countOwned d l ks).still = s.still := by
  unfold State.countOwned; split <;> simp [ite_still]
@[simp] theorem admitU_still (s : State) (l d u : Nat) : (s.admitU l d u).still = s.still := by simp [State.admitU]
@[simp] theorem redU_still (s : State) (l d u : Nat) : (s.redU l d u).still = s.still := by
  unfold State.redU; dsimp only; repeat' split
  all_goals simp
@[simp] theorem wrnLine_still (s : State) (hd l pa : Nat) (b : List Byte) : (s.wrnLine hd l pa b).still = s.still := by
  unfold State.wrnLine
  dsimp only
  refine still_of_ite ?_ ?_
  · simp only [ite_still, setMeta_still, ite_self, touch_still]
    rw [foldl_still, foldl_still]
    · simp
    · intro u i
      repeat' split
      all_goals simp
    · intro u i
      repeat' split
      all_goals simp
  · simp [ite_still]
@[simp] theorem wrNVia_still (s : State) (v : Nat → Nat) (pa : Nat) (b : List Byte) : (s.wrNVia v pa b).still = s.still := by
  unfold State.wrNVia; dsimp only; split
  · rfl
  · rw [foldl_still _ (fun u k => by simp), competeMem_still]
@[simp] theorem wrN_still (s : State) (pa : Nat) (b : List Byte) : (s.wrN pa b).still = s.still := wrNVia_still s _ pa b
@[simp] theorem wrNAt_still (s : State) (d pa : Nat) (b : List Byte) : (s.wrNAt d pa b).still = s.still := by
  unfold State.wrNAt; dsimp only
  rw [wrNVia_still, foldl_still _ (fun u k => by split <;> simp [ite_still])]
@[simp] theorem redF_still (s : State) (pa : Nat) (r : RedOp) (v : DWord) : (s.redF pa r v).still = s.still := by
  unfold State.redF; simp [ite_still]
@[simp] theorem spill_still (s : State) (l d c : Nat) : (s.spill l d c).still = s.still := by
  unfold State.spill; dsimp only; split
  · simp
  · split
    · simp
    · split
      · rw [putSlice_still, foldl_still _ (fun u i => by split <;> simp)]; simp
      · rw [foldl_still _ (fun u i => by split <;> simp)]; simp
@[simp] theorem sliceEvict_still (s : State) (d l : Nat) : (s.sliceEvict d l).still = s.still := by
  unfold State.sliceEvict; split
  · rfl
  · split
    · dsimp only
      have h : ∀ (xs : List Nat) (u : State),
          (xs.foldl (fun s c => if (s.slice? d l).isSome then s.spill l d c else s) u).still = u.still :=
        fun xs u => foldl_still _ (fun u i => by split <;> simp) _ _
      split
      · split
        · rw [dropSlice_still, h]
        · rw [h]
      · rw [h]
    · simp [ite_still]
@[simp] theorem settle_still (s : State) (d l : Nat) : (s.settle d l).still = s.still := by
  unfold State.settle; simp [ite_still]
@[simp] theorem l1Evict_still (s : State) (c l : Nat) : (s.l1Evict c l).still = s.still := by
  unfold State.l1Evict; dsimp only
  split
  · rw [spill_still, foldl_still]
    intro u i
    split
    · simp
    · split
      · simp [ite_still]
      · simp
    · rfl
  · rw [foldl_still]
    intro u i
    split
    · simp
    · split
      · simp [ite_still]
      · simp
    · rfl

/-! ## What cores and engines ask -/

@[simp] theorem makeRoom_still (s : State) (d l : Nat) : (s.makeRoom d l).still = s.still := by
  unfold State.makeRoom; dsimp only; repeat' split
  all_goals simp
@[simp] theorem ensureRead_still (s : State) (d l : Nat) : (s.ensureRead d l).still = s.still := by
  unfold State.ensureRead; split <;> simp [ite_still]
@[simp] theorem ensureOwn_still (s : State) (d l : Nat) : (s.ensureOwn d l).still = s.still := by
  unfold State.ensureOwn; split <;> simp [ite_still]
@[simp] theorem readAt_still (s : State) (d w : Nat) : (s.readAt d w).2.still = s.still := by
  simp [State.readAt]
@[simp] theorem readWordsAt_still (s : State) (d w n : Nat) : (s.readWordsAt d w n).2.still = s.still := by
  induction n generalizing s w with
  | zero => rfl
  | succ n ih => simp [State.readWordsAt, ih]
@[simp] theorem readBytesAt_still (s : State) (d pa n : Nat) : (s.readBytesAt d pa n).2.still = s.still := by
  unfold State.readBytesAt; split <;> simp
@[simp] theorem readDwordAt_still (s : State) (d pa : Nat) : (s.readDwordAt d pa).2.still = s.still := by
  simp [State.readDwordAt]
@[simp] theorem performed_still (s : State) (c : Nat) (e : TrackEntry) : (s.performed c e).still = s.still := by
  unfold State.performed; split <;> simp
@[simp] theorem issueHost_still (s : State) (c : Nat) : (s.issueHost c).still = s.still := by
  unfold State.issueHost; split
  · rfl
  · rw [performed_still]; rfl
@[simp] theorem issueHosts_still (s : State) (c : Nat) : (s.issueHosts c).still = s.still :=
  foldl_still _ (fun u _ => by simp) _ _
@[simp] theorem accept_still (s : State) (c : Nat) (r : Reg) : (s.accept c r).2.still = s.still := by
  unfold State.accept; dsimp only; repeat' split
  all_goals simp
@[simp] theorem acceptAll_still (s : State) (c : Nat) (l : List Reg) : (s.acceptAll c l).2.still = s.still := by
  induction l generalizing s with
  | nil => rfl
  | cons r l ih => unfold State.acceptAll; dsimp only; split <;> simp [ih]
@[simp] theorem acceptOne_still (s : State) (c : Nat) : (s.acceptOne c).still = s.still := by
  unfold State.acceptOne; dsimp only; split <;> simp
@[simp] theorem acceptThrough_still (s : State) (c : Nat) (p : Reg → Bool) : (s.acceptThrough c p).still = s.still := by
  unfold State.acceptThrough; dsimp only; split <;> simp
@[simp] theorem acquire_still (s : State) (c : Nat) : (s.acquire c).still = s.still := by simp [State.acquire]
@[simp] theorem ackOne_still (s : State) (c : Nat) : (s.ackOne c).still = s.still := by
  unfold State.ackOne; split
  · rfl
  · next r l _ =>
    have h : ∀ (xs : List TrackEntry) (u : State), (xs.foldl (fun s e => s.performed c e) u).still = u.still :=
      fun xs u => foldl_still _ (fun u e => by simp) _ _
    dsimp only
    repeat' split
    all_goals simp [h]
@[simp] theorem drain_still (s : State) (c : Nat) : (s.drain c).still = s.still := by
  unfold State.drain; dsimp only
  rw [issueHosts_still, foldl_still _ (fun u _ => by simp), foldl_still _ (fun u _ => by simp)]
@[simp] theorem l1Room_still (s : State) (c l : Nat) : (s.l1Room c l).still = s.still := by
  unfold State.l1Room; dsimp only; repeat' split
  all_goals simp
@[simp] theorem sectorRead_still (s : State) (c w : Nat) : (s.sectorRead c w).still = s.still := by
  unfold State.sectorRead; dsimp only; split
  · simp
  · rw [settle_still, foldl_still]
    · simp
    · intro u j; split <;> simp
@[simp] theorem loadWord_still (s : State) (c w : Nat) : (s.loadWord c w).2.still = s.still := by
  unfold State.loadWord; dsimp only; split <;> simp
@[simp] theorem joinPair_still (s : State) (c w : Nat) : (s.joinPair c w).still = s.still := by
  unfold State.joinPair; split <;> simp
@[simp] theorem readyPair_still (s : State) (c w : Nat) : (s.readyPair c w).still = s.still := by
  unfold State.readyPair; split <;> simp
@[simp] theorem storeWord_still (s : State) (c w : Nat) (m : BitVec 4) (v : Word) (e : TrackEntry) :
    (s.storeWord c w m v e).still = s.still := by
  unfold State.storeWord; dsimp only; split
  · simp
  · simp
  · simp only [setRegs_still, putL1_still]
    repeat' split
    all_goals simp
@[simp] theorem atomLine_still (s : State) (c l : Nat) : (s.atomLine c l).still = s.still := by
  unfold State.atomLine; dsimp only
  rw [foldl_still, foldl_still _ (fun u _ => by simp)]
  · simp [ite_still]
  · intro u i
    split
    · rfl
    · simp [ite_still]
@[simp] theorem dropCopies_still (s : State) (c w : Nat) (wide : Bool) : (s.dropCopies c w wide).still = s.still :=
  foldl_still _ (fun u _ => by split <;> simp) _ _
@[simp] theorem admitRed_still (s : State) (d l u : Nat) : (s.admitRed d l u).still = s.still := by
  unfold State.admitRed; dsimp only; repeat' split
  all_goals simp
@[simp] theorem redPartial_still (s : State) (c w u : Nat) (v : DWord) : (s.redPartial c w u v).still = s.still := by
  unfold State.redPartial; dsimp only; repeat' split
  all_goals simp

/-! ## Translation -/

@[simp] theorem readDwordsAt_still (s : State) (d pa n : Nat) : (s.readDwordsAt d pa n).2.still = s.still := by
  induction n generalizing s pa with
  | zero => rfl
  | succ n ih => simp [State.readDwordsAt, ih]
@[simp] theorem ctxTable_still (s : State) (a : Nat) : (s.ctxTable a).2.still = s.still := by
  unfold State.ctxTable; dsimp only; split <;> simp
@[simp] theorem ctx_still (s : State) (a : Nat) : (s.ctx a).2.still = s.still := by
  unfold State.ctx; split <;> simp
@[simp] theorem walkFrom_still (s : State) (d va : Nat) (l : List Nat) (b : Nat) : (s.walkFrom d va l b).2.still = s.still := by
  induction l generalizing s b with
  | nil => rfl
  | cons x r ih =>
    unfold State.walkFrom
    dsimp only
    repeat' split
    all_goals simp [ih]
@[simp] theorem walk_still (s : State) (d a va : Nat) : (s.walk d a va).2.still = s.still := by
  unfold State.walk; dsimp only; split <;> simp
@[simp] theorem hostPage_still (s : State) (a b : Nat) : (s.hostPage a b).2.still = s.still := by
  unfold State.hostPage; dsimp only
  repeat' split
  all_goals simp
@[simp] theorem useLeaf_still (s : State) (a va : Nat) (t : Tlb) (k : Access) : (s.useLeaf a va t k).2.still = s.still := by
  unfold State.useLeaf; dsimp only
  repeat' split
  all_goals simp
@[simp] theorem leaf_still (s : State) (v : Via) (a va : Nat) : (s.leaf v a va).2.still = s.still := by
  unfold State.leaf; dsimp only
  repeat' split
  all_goals simp
@[simp] theorem translate_still (s : State) (v : Via) (a va : Nat) (k : Access) : (s.translate v a va k).2.still = s.still := by
  unfold State.translate; dsimp only
  split <;> simp
@[simp] theorem hostSector_still (s : State) (c a : Nat) : (s.hostSector c a).still = s.still := by
  unfold State.hostSector; dsimp only
  rw [foldl_still _ (fun u i => by simp)]
  split <;> simp
@[simp] theorem hostLoadWord_still (s : State) (c a : Nat) : (s.hostLoadWord c a).2.still = s.still := by
  unfold State.hostLoadWord; dsimp only; split <;> simp
@[simp] theorem readyHostPair_still (s : State) (c a : Nat) : (s.readyHostPair c a).still = s.still := by
  unfold State.readyHostPair; split <;> simp
@[simp] theorem loadWords_still (s : State) (c : Nat) (l : Loc) (n : Nat) : (s.loadWords c l n).2.still = s.still := by
  induction n generalizing s l with
  | zero => rfl
  | succ n ih => unfold State.loadWords; dsimp only; rw [ih, apply_ite Prod.snd, ite_still]; simp
@[simp] theorem loadBytes_still (s : State) (c : Nat) (l : Loc) (n : Nat) : (s.loadBytes c l n).2.still = s.still := by
  simp only [State.loadBytes, loadWords_still]
  exact foldl_still _ (fun u k => by split <;> simp) _ _
@[simp] theorem hostStore_still (s : State) (c a : Nat) (b : List Byte) (e : TrackEntry) :
    (s.hostStore c a b e).still = s.still := by
  unfold State.hostStore
  rw [foldl_still]
  · rfl
  · intro u i
    dsimp only
    split
    · exact putL1_still _ _ _ _
    · rfl
@[simp] theorem storeBytes_still (s : State) (c : Nat) (l : Loc) (b : List Byte) (e : TrackEntry) :
    (s.storeBytes c l b e).still = s.still := by
  unfold State.storeBytes; dsimp only; split
  · exact hostStore_still _ _ _ _ _
  · rw [foldl_still _ (fun u k => joinPair_still u c _), foldl_still]
    intro u i
    split
    · rfl
    · exact storeWord_still _ _ _ _ _ _

@[simp] theorem fetchCheck_still (s : State) (t : ThreadRef) (va : Nat) : (s.fetchCheck t va).2.still = s.still := by
  unfold State.fetchCheck; split
  · rfl
  · rfl
  · dsimp only
    split
    · split <;> simp
    · simp
@[simp] theorem fetchable_still (s : State) (t : ThreadRef) (va : Nat) : (s.fetchable t va).2.still = s.still := by
  unfold State.fetchable
  have : ∀ (l : List Nat) (a : Bool × State), a.2.still = s.still → ((l.foldl (fun (a : Bool × State) p =>
    let x := a.2.fetchCheck t p
    (a.1 && (match x.1 with
      | .ok _ _ | .wait _ => true
      | _ => false), x.2)) a)).2.still = s.still := by
    intro l
    induction l with
    | nil => intro a h; exact h
    | cons p r ih => intro a h; simp only [List.foldl_cons]; apply ih; simp [h]
  exact this _ _ rfl

end Sys2Proof.Machine.State
end

