-- ==== Sys2Proof/Safety/Reals.lean ====
section
/-! DEFINITION. What rounding means, said with real numbers and apart from the functions that round (R180 to R183, R188, R194): the
value of a pattern, the nearest and the directed result, and what an overflow gives. -/
open Sys2Proof.Machine
namespace Sys2Proof.Machine.Claims

/-- The formats of R180. -/
def formats : List Fp.Fmt := [Fp.f64, Fp.f32, Fp.h16, Fp.bf, Fp.e4, Fp.e5]
/-- The exponent field of a pattern. -/
def expField (F : Fp.Fmt) (x : Nat) : Nat := x / 2 ^ F.fb % 2 ^ F.eb
/-- Its fraction field. -/
def fracField (F : Fp.Fmt) (x : Nat) : Nat := x % 2 ^ F.fb
/-- Its sign. -/
def signBit (F : Fp.Fmt) (x : Nat) : Bool := decide (x / 2 ^ (F.eb + F.fb) % 2 = 1)
/-- A pattern of a number: neither a NaN nor an infinity (R181). -/
def IsNumber (F : Fp.Fmt) (x : Nat) : Prop :=
  x < 2 ^ F.width ∧ if F.inf then expField F x ≠ 2 ^ F.eb - 1 else x % 2 ^ (F.eb + F.fb) ≠ 2 ^ (F.eb + F.fb) - 1
/-- A pattern of an infinity. -/
def IsInf (F : Fp.Fmt) (x : Nat) : Prop :=
  x < 2 ^ F.width ∧ F.inf = true ∧ expField F x = 2 ^ F.eb - 1 ∧ fracField F x = 0
/-- The value of a pattern of a number (R180). -/
noncomputable def real (F : Fp.Fmt) (x : Nat) : ℝ :=
  (if signBit F x then -1 else 1) *
    (if expField F x = 0 then (fracField F x : ℝ) * (2 : ℝ) ^ ((1 : ℤ) - F.bias - F.fb)
      else (2 ^ F.fb + fracField F x : ℝ) * (2 : ℝ) ^ ((expField F x : ℤ) - F.bias - F.fb))
/-- The value of a pattern that is no NaN. -/
noncomputable def extended (F : Fp.Fmt) (x : Nat) : EReal :=
  if F.inf = true ∧ expField F x = 2 ^ F.eb - 1 then (if signBit F x then ⊥ else ⊤) else (real F x : EReal)
/-- The largest finite magnitude of a format, and the value that would follow it if the exponent had no bound. -/
noncomputable def largest (F : Fp.Fmt) : ℝ :=
  if F.inf then (2 ^ (F.fb + 1) - 1) * (2 : ℝ) ^ ((2 : ℤ) ^ F.eb - 2 - F.bias - F.fb)
  else (2 ^ (F.fb + 1) - 2) * (2 : ℝ) ^ ((2 : ℤ) ^ F.eb - 1 - F.bias - F.fb)
/-- The first magnitude that every mode finds too large. -/
noncomputable def beyond (F : Fp.Fmt) : ℝ :=
  if F.inf then (2 : ℝ) ^ ((2 : ℤ) ^ F.eb - 1 - F.bias) else (2 ^ (F.fb + 1) - 1) * (2 : ℝ) ^ ((2 : ℤ) ^ F.eb - 1 - F.bias - F.fb)
/-- The least normal magnitude of a format. -/
noncomputable def leastNormal (F : Fp.Fmt) : ℝ := (2 : ℝ) ^ ((1 : ℤ) - F.bias)
/-- Of a value below the least normal number, whether rounding with an unbounded exponent brings it up to that number (R182); the
number below it is then 2^(-bias - fb) less, an odd significand. -/
def roundsToNormal (F : Fp.Fmt) (m : Fp.Mode) (v : ℝ) : Prop :=
  let gap := (2 : ℝ) ^ (-(F.bias : ℤ) - F.fb)
  match m with
  | .rn | .rns => leastNormal F - gap / 2 ≤ |v|
  | .rz | .rzs => False
  | .ru => leastNormal F - gap < v
  | .rd => leastNormal F - gap < -v
/-- Tiny after rounding (R182). -/
def Tiny (F : Fp.Fmt) (m : Fp.Mode) (v : ℝ) : Prop := v ≠ 0 ∧ |v| < leastNormal F ∧ ¬roundsToNormal F m v
/-- A result is a value rounded once to a format, under a mode, NX says whether that changed it, UF whether it is then tiny, and no
other flag is set (R182, R188, R189); for a value that the format's range holds. -/
def Rounds (F : Fp.Fmt) (m : Fp.Mode) (v : ℝ) (r : Fp.Res) : Prop :=
  IsNumber F r.bits ∧ (r.flags.getLsbD 0 = true ↔ real F r.bits ≠ v) ∧
  (r.flags.getLsbD 1 = true ↔ real F r.bits ≠ v ∧ Tiny F m v) ∧ r.flags.toNat < 4 ∧
  match m with
  | .rn | .rns => (∀ x, IsNumber F x → |real F r.bits - v| ≤ |real F x - v|) ∧
      ∀ x, IsNumber F x → |real F x - v| = |real F r.bits - v| → real F x ≠ real F r.bits → r.bits % 2 = 0
  | .rz | .rzs => |real F r.bits| ≤ |v| ∧ 0 ≤ real F r.bits * v ∧
      ∀ x, IsNumber F x → 0 ≤ real F x * v → |real F x| ≤ |v| → |real F x| ≤ |real F r.bits|
  | .ru => v ≤ real F r.bits ∧ ∀ x, IsNumber F x → v ≤ real F x → real F r.bits ≤ real F x
  | .rd => real F r.bits ≤ v ∧ ∀ x, IsNumber F x → real F x ≤ v → real F x ≤ real F r.bits
/-- R194's table: the pattern that an overflow of a sign gives, of a format with infinities or of E4. -/
def overflows (F : Fp.Fmt) (m : Fp.Mode) (neg : Bool) : Nat :=
  let sign := if neg then 2 ^ (F.eb + F.fb) else 0
  let big := if F.inf then sign + (2 ^ F.eb - 1) * 2 ^ F.fb else 2 ^ (F.eb + F.fb) - 1
  let max_ := sign + (if F.inf then (2 ^ F.eb - 1) * 2 ^ F.fb - 1 else 2 ^ (F.eb + F.fb) - 2)
  match m, neg with
  | .rn, _ | .ru, false | .rd, true => big
  | _, _ => max_
/-- A value past the largest finite one overflows: rounded with an unbounded exponent it does not come back to that one (R188). The
largest number of a format with infinities has an odd significand, that of E4 an even one. -/
def Overflows (F : Fp.Fmt) (m : Fp.Mode) (v : ℝ) : Prop :=
  largest F < |v| ∧ (beyond F ≤ |v| ∨ match m with
    | .rn | .rns => largest F + beyond F < 2 * |v| ∨ (F.inf = true ∧ largest F + beyond F = 2 * |v|)
    | .rz | .rzs => False
    | .ru => 0 < v
    | .rd => v < 0)
/-- The pattern of the largest finite number of a sign. -/
def largestBits (F : Fp.Fmt) (neg : Bool) : Nat := overflows F .rz neg
/-- The result of an operation whose exact value is `v`: rounded where the range holds it; R194's row with OF and NX where it
overflows; else the largest number of its sign, with NX. -/
def Exactly (F : Fp.Fmt) (m : Fp.Mode) (v : ℝ) (r : Fp.Res) : Prop :=
  (|v| ≤ largest F → Rounds F m v r) ∧
  (Overflows F m v → r = { bits := overflows F m (decide (v < 0)), flags := 0b00101 }) ∧
  (largest F < |v| → ¬Overflows F m v → r = { bits := largestBits F (decide (v < 0)), flags := 0b00001 })
/-- An infinity of a sign, with no flag. -/
def infinity (F : Fp.Fmt) (neg : Bool) : Fp.Res := { bits := overflows F .rn neg }
/-- An invalid operation: the canonical NaN, and NV (R191). -/
def invalid (F : Fp.Fmt) : Fp.Res := { bits := F.cnan, flags := 0b10000 }
/-- A zero of a sign, with no flag. -/
def zeroOf (F : Fp.Fmt) (neg : Bool) : Fp.Res := { bits := if neg then 2 ^ (F.eb + F.fb) else 0 }
/-- An integer is a value rounded under a mode (R188). -/
def RoundsInt (m : Fp.Mode) (v : ℝ) (n : ℤ) : Prop :=
  match m with
  | .rn | .rns => |(n : ℝ) - v| ≤ 1 / 2 ∧ (|(n : ℝ) - v| = 1 / 2 → n % 2 = 0)
  | .rz | .rzs => |(n : ℝ)| ≤ |v| ∧ |v| < |(n : ℝ)| + 1 ∧ 0 ≤ n * v
  | .ru => v ≤ n ∧ (n : ℝ) < v + 1
  | .rd => (n : ℝ) ≤ v ∧ v < n + 1
/-- An integer brought into the range of a type, with NV where that changes it (R183, R192). -/
def saturated (I : Fp.IFmt) (n : ℤ) (inexact : Bool) : Fp.Res :=
  let lo : ℤ := if I.sg then -(2 ^ (I.w - 1)) else 0
  let hi : ℤ := if I.sg then 2 ^ (I.w - 1) - 1 else 2 ^ I.w - 1
  let pattern := fun (x : ℤ) => (x % 2 ^ I.w).toNat
  if n < lo then { bits := pattern lo, flags := 0b10000 }
  else if hi < n then { bits := pattern hi, flags := 0b10000 }
  else { bits := pattern n, flags := if inexact then 1 else 0 }
/-- The integer of a pattern (R183). -/
def intOf (I : Fp.IFmt) (x : Nat) : ℤ := if I.sg = true ∧ 2 ^ (I.w - 1) ≤ x then (x : ℤ) - 2 ^ I.w else x
/-- The integer types of R183. -/
def intTypes : List Fp.IFmt := [8, 16, 32, 64].flatMap (fun w => [⟨true, w⟩, ⟨false, w⟩])
/-- FCLASS's bit, read off the fields of a pattern (R320): its exponent and fraction, its sign, and the top bit of its fraction. -/
def classBit (F : Fp.Fmt) (x : Nat) : Nat :=
  let e := expField F x
  let f := fracField F x
  let by_ := fun (neg pos : Nat) => if signBit F x then neg else pos
  if e = 2 ^ F.eb - 1 then (if f = 0 then by_ 0 7 else if f / 2 ^ (F.fb - 1) = 0 then 8 else 9)
  else if e = 0 then (if f = 0 then by_ 3 4 else by_ 2 5)
  else by_ 1 6

end Sys2Proof.Machine.Claims
end

