-- ==== Sys2Proof/Safety/Floats.lean ====
section
/-! DEFINITION. The floating-point words as tables, and what each makes of a lane's thread (R189, R190, R314-R324). The values are
those of Fp.lean, which says once how a result is rounded. -/
namespace Sys2Proof.Machine.Claims

/-- A floating-point word of format R: its operation on patterns, and whether its result is variable-latency (R233). -/
structure Flt where
  word : FmtR → Instr
  late : Bool
  val : FpOp

/-- Words on single registers: majors 0x33, 0x35 and the f32 rows of 0x36 (R314-R319). -/
noncomputable def floats32 : List Flt :=
  [⟨.faddF32, false, fpAdd Fp.f32⟩, ⟨.fsubF32, false, fpSub Fp.f32⟩, ⟨.fmulF32, false, fpMul Fp.f32⟩,
   ⟨.ffmaF32, false, fpFma Fp.f32⟩, ⟨.fminF32, false, fpMin Fp.f32⟩, ⟨.fmaxF32, false, fpMax Fp.f32⟩,
   ⟨.fabsF32, false, fpAbs Fp.f32⟩, ⟨.fnegF32, false, fpNeg Fp.f32⟩, ⟨.frndF32Rn, false, fpRnd Fp.f32 .rn⟩,
   ⟨.frndF32Rz, false, fpRnd Fp.f32 .rz⟩, ⟨.frndF32Ru, false, fpRnd Fp.f32 .ru⟩, ⟨.frndF32Rd, false, fpRnd Fp.f32 .rd⟩,
   ⟨.hadd2H, false, halves (fpAdd Fp.h16)⟩, ⟨.hsub2H, false, halves (fpSub Fp.h16)⟩, ⟨.hmul2H, false, halves (fpMul Fp.h16)⟩,
   ⟨.hfma2H, false, halves (fpFma Fp.h16)⟩, ⟨.hmin2H, false, halves (fpMin Fp.h16)⟩, ⟨.hmax2H, false, halves (fpMax Fp.h16)⟩,
   ⟨.hadd2Bf, false, halves (fpAdd Fp.bf)⟩, ⟨.hsub2Bf, false, halves (fpSub Fp.bf)⟩, ⟨.hmul2Bf, false, halves (fpMul Fp.bf)⟩,
   ⟨.hfma2Bf, false, halves (fpFma Fp.bf)⟩, ⟨.hmin2Bf, false, halves (fpMin Fp.bf)⟩, ⟨.hmax2Bf, false, halves (fpMax Fp.bf)⟩,
   ⟨.dot4E4, false, fpDot4 Fp.e4⟩, ⟨.dot4E5, false, fpDot4 Fp.e5⟩,
   ⟨.frcpF32, true, fpRcp Fp.f32⟩, ⟨.frsqF32, true, fun _ _ a _ => Fp.rsqrt Fp.f32 (Fp.f32.val a)⟩,
   ⟨.fsqrtF32, true, fpSqrt Fp.f32⟩, ⟨.fexp2F32, true, fun _ _ a _ => Fp.exp2 (Fp.f32.val a)⟩,
   ⟨.flog2F32, true, fun _ _ a _ => Fp.log2 (Fp.f32.val a)⟩, ⟨.fsinF32, true, fun _ _ a _ => Fp.sin a⟩,
   ⟨.fcosF32, true, fun _ _ a _ => Fp.cos a⟩, ⟨.fdivF32, true, fpDiv Fp.f32⟩]
/-- Words on pairs: major 0x34 and the f64 rows of 0x36. -/
noncomputable def floats64 : List Flt :=
  [⟨.faddF64, false, fpAdd Fp.f64⟩, ⟨.fsubF64, false, fpSub Fp.f64⟩, ⟨.fmulF64, false, fpMul Fp.f64⟩,
   ⟨.ffmaF64, false, fpFma Fp.f64⟩, ⟨.fminF64, false, fpMin Fp.f64⟩, ⟨.fmaxF64, false, fpMax Fp.f64⟩,
   ⟨.fabsF64, false, fpAbs Fp.f64⟩, ⟨.fnegF64, false, fpNeg Fp.f64⟩, ⟨.frndF64Rn, false, fpRnd Fp.f64 .rn⟩,
   ⟨.frndF64Rz, false, fpRnd Fp.f64 .rz⟩, ⟨.frndF64Ru, false, fpRnd Fp.f64 .ru⟩, ⟨.frndF64Rd, false, fpRnd Fp.f64 .rd⟩,
   ⟨.fsqrtF64, true, fpSqrt Fp.f64⟩, ⟨.fdivF64, true, fpDiv Fp.f64⟩, ⟨.frcpF64, true, fpRcp Fp.f64⟩]

/-- The registers an R-format floating-point word marks as last uses. -/
def fltUses (f : FmtR) (n : Nat) : List Run := mark f.la [(f.a.toNat, n)] ++ mark f.lb [(f.b.toNat, n)]
/-- A thread with flags of FCR set: bits [12:8], which only the device sets (R189, R190). -/
def withFlags (th : Thread) (fl : Fp.Flags) : Thread := { th with fcr := th.fcr ||| (BitVec.ofNat 32 (fl.toNat % 32) <<< 8) }
/-- A thread with words for ascending registers: written, or on their way where the result is variable-latency (R233). -/
def withResult (th : Thread) (late : Bool) (d : Nat) (ws : List Word) : Thread :=
  if late then { th with pend := th.pend ++ [(List.range ws.length).map (fun i => (d + i, ws.getD i 0))] } else th.setRun d ws
/-- What a word of `floats32` makes of a lane's thread: last uses, flags, and D. -/
def Flt.effect32 (e : Flt) (f : FmtR) (s : State) (t : ThreadRef) (th : Thread) : Thread :=
  let r := e.val (Fp.Mode.ofCode ((s.readFcr t).toNat % 4)) (s.readG t f.d.toNat).toNat (s.readG t f.a.toNat).toNat
    (s.readG t f.b.toNat).toNat
  withResult (withFlags (th.useRuns (fltUses f 1)) r.flags) e.late f.d.toNat [BitVec.ofNat 32 r.bits]
/-- What a word of `floats64` makes of a lane's thread. -/
def Flt.effect64 (e : Flt) (f : FmtR) (s : State) (t : ThreadRef) (th : Thread) : Thread :=
  let r := e.val (Fp.Mode.ofCode ((s.readFcr t).toNat % 4)) (s.readPair t f.d.toNat).toNat (s.readPair t f.a.toNat).toNat
    (s.readPair t f.b.toNat).toNat
  withResult (withFlags (th.useRuns (fltUses f 2)) r.flags) e.late f.d.toNat (wordsOf (BitVec.ofNat 64 r.bits))

/-- A block word (R324): registers of an element, and its operation. -/
structure Blk where
  word : FmtX → Instr
  regs : Nat
  val : FpOp
/-- The block words, majors 0x38 to 0x3A. -/
noncomputable def blocks : List Blk :=
  [⟨.blkAddB32, 1, fun _ _ a b => ⟨(a + b) % 2 ^ 32, 0⟩⟩, ⟨.blkMovB32, 1, fun _ _ a _ => ⟨a, 0⟩⟩,
   ⟨.blkAndB32, 1, fun _ _ a b => ⟨a &&& b, 0⟩⟩, ⟨.blkXorB32, 1, fun _ _ a b => ⟨a ^^^ b, 0⟩⟩,
   ⟨.blkFaddF32, 1, fpAdd Fp.f32⟩, ⟨.blkFmulF32, 1, fpMul Fp.f32⟩, ⟨.blkFfmaF32, 1, fpFma Fp.f32⟩,
   ⟨.blkFmaxF32, 1, fpMax Fp.f32⟩, ⟨.blkHfma2H, 1, halves (fpFma Fp.h16)⟩, ⟨.blkHfma2Bf, 1, halves (fpFma Fp.bf)⟩,
   ⟨.blkFfmaF64, 2, fpFma Fp.f64⟩]
/-- First register of element `i` of a block with corner `r`: row i / C, column i mod C (R236, R324). -/
def cell (f : FmtX) (n r i : Nat) : Nat := r + 8 * (i / 2 ^ f.xc.toNat) + n * (i % 2 ^ f.xc.toNat)
/-- An element as a number. -/
def cellValue (s : State) (t : ThreadRef) (n r : Nat) : Nat :=
  if n = 2 then (s.readPair t r).toNat else (s.readG t r).toNat
/-- What element `i` computes. -/
def Blk.result (e : Blk) (f : FmtX) (s : State) (t : ThreadRef) (i : Nat) : Fp.Res :=
  e.val (Fp.Mode.ofCode ((s.readFcr t).toNat % 4)) (cellValue s t e.regs (cell f e.regs f.d.toNat i))
    (cellValue s t e.regs (cell f e.regs f.a.toNat i)) (cellValue s t e.regs (cell f e.regs f.b.toNat i))
/-- Elements of a block. -/
def cells (f : FmtX) : List Nat := List.range (2 ^ f.xr.toNat * 2 ^ f.xc.toNat)
/-- What a block word makes of a lane's thread: every element from the registers as they stood, and the union of the flags. -/
def Blk.effect (e : Blk) (f : FmtX) (s : State) (t : ThreadRef) (th : Thread) : Thread :=
  withFlags
    ((cells f).foldl (fun th i =>
      th.setRun (cell f e.regs f.d.toNat i)
        (if e.regs = 2 then wordsOf (BitVec.ofNat 64 (e.result f s t i).bits) else [BitVec.ofNat 32 (e.result f s t i).bits])) th)
    ((cells f).foldl (fun x i => x ||| (e.result f s t i).flags) 0)

end Sys2Proof.Machine.Claims
end

