-- ==== Sys2Proof/Safety/Threads.lean ====
section
/-! DEFINITION. What the words of a thread leave behind, and the terms for traps, masks, tasks and launches (R206-R216, R376-R396). -/
open Sys2Proof Sys2Proof.Machine
namespace Sys2Proof.Machine.Claims

/-- A thread with a variable-latency result on its way to ascending registers (R233). -/
def withLate (th : Thread) (d : Nat) (ws : List Word) : Thread :=
  { th with pend := th.pend ++ [(List.range ws.length).map (fun i => (d + i, ws.getD i 0))] }
/-- A thread past its word. -/
def past (th : Thread) : Thread := { th with pc := th.pc + 4 }
/-- A thread past a word that was a commit point: its region starts at the next word (R388). -/
def committed (th : Thread) : Thread :=
  { th with regionPc := th.pc + 4, liveIn := ~~~th.dead, regionRm := th.fcr.truncate 2, boundary := true, pc := th.pc + 4 }
/-- The layout state that a handle of the issuer's task names (R45). -/
def Names (s : State) (t : ThreadRef) (h : Nat) (k : Nat) (l : Layout) : Prop :=
  h ≤ 63 ∧ (s.task t.task).handles.find? h = some k ∧ s.layouts.find? k = some l
/-- The special registers of R279 (CLOCK, PEER and NCORE included), each with the value it reads. -/
def specials : List (Nat × (State → ThreadRef → Word)) :=
  let nat := fun (n : Nat) (g : State → ThreadRef → Nat) => (n, fun s t => BitVec.ofNat 32 (g s t))
  [nat 0x00 (fun _ t => t.tid), nat 0x01 (fun s t => (s.task t.task).threads), nat 0x02 (fun s t => (s.task t.task).num),
   nat 0x03 (fun s t => (s.task t.task).x), nat 0x04 (fun s t => (s.task t.task).y), nat 0x05 (fun s t => (s.task t.task).z),
   nat 0x06 (fun _ t => t.tid % 32), nat 0x07 (fun _ t => t.tid / 32), nat 0x08 (fun s t => (s.task t.task).core),
   nat 0x09 (fun s t => 2 ^ (s.launchOf t.task).rcd.coresLog2), nat 0x0A (fun s _ => (s.greg .peerid).toNat % 2 ^ 10),
   nat 0x0B (fun s t => (s.task t.task).launch), nat 0x0C (fun s _ => Config.clockAt s.tick - Config.clockAt s.clockBase),
   nat 0x0D (fun s _ => (Config.clockAt s.tick - Config.clockAt s.clockBase) / 2 ^ 32), nat 0x0E (fun s t => (s.task t.task).age),
   nat 0x0F (fun s t => (s.task t.task).age / 2 ^ 32), (0x10, fun s t => s.readFcr t), (0x11, fun s t => (s.task t.task).trapLo),
   (0x12, fun s t => (s.task t.task).trapHi), nat 0x13 (fun s t => (s.task t.task).spmBase),
   nat 0x14 (fun s t => (s.task t.task).spmSize), nat 0x15 (fun s t => (s.task t.task).stage),
   nat 0x16 (fun s t => (s.task t.task).phys / 8), nat 0x17 (fun s t => (s.task t.task).phys / 128)]

/-- The record of a trap of lane `t` at its current word (R380). -/
def recordAt (s : State) (t : ThreadRef) (i : TrapInfo) : FaultRec :=
  let k := s.task t.task
  { code := i.code, sub := i.sub, precise := true, exited := false, recoverable := false, killed := false, tid := t.tid, va := i.va,
    pc := (s.thread t).pc, regionPc := (s.thread t).regionPc, task := k.num, peer := i.peer, lseq := k.lseq, asid := k.asid, token := 0 }

/-- A thread in its handler (R377): its results have returned, the record is written, the region and the pc are TRAPBASE. -/
def handled (s : State) (t : ThreadRef) (r : FaultRec) (tick : Nat) (th : Thread) : Thread :=
  let a := BitVec.ofNat 64 (s.task t.task).trapBase
  { th.drain with
    trapRec := r, handler := true, pc := a, regionPc := a, liveIn := ~~~th.drain.dead, regionRm := th.drain.fcr.truncate 2,
    boundary := false, status := .ready, since := tick, old := none, second := none }
/-- The words that write a mask, each with the value of kd (R267); a MALL lane has a thread that has not ended. -/
def maskWords : List ((FmtK → Instr) × (FmtK → State → ThreadRef → Word)) :=
  let k := fun (s : State) (t : ThreadRef) (n : BitVec 4) => s.readK t n.toNat
  [(.mand, fun f s t => k s t f.ka &&& k s t f.kb), (.mor, fun f s t => k s t f.ka ||| k s t f.kb),
   (.mxor, fun f s t => k s t f.ka ^^^ k s t f.kb), (.mandn, fun f s t => k s t f.ka &&& ~~~(k s t f.kb)),
   (.mmov, fun f s t => k s t f.ka), (.msetg, fun f s t => s.readG t f.g.toNat),
   (.mself, fun f s t => k s t f.kd ||| 1#32 <<< (t.tid % 32)), (.mclr, fun _ _ _ => 0), (.mall, fun _ s t => s.liveLanes t)]

/-- A lane's part of an issue: what it goes on to where its checks pass, else its stop, which a chained group keeps until its words
have all been tried (R232). -/
def lanePart {α : Type} (t : ThreadRef) (r : Res α) (goes : α → State → State) : State :=
  match r with
  | .ok v u => goes v u
  | .stop x u => match u.collect with
    | none => u.takeStop t x
    | some l => { u with collect := some (l ++ [(t, (u.thread t).pc, x)]) }
/-- A lane's trap, at its word. -/
def laneTrap (s : State) (t : ThreadRef) (i : TrapInfo) : State := lanePart t (Res.stop (α := Unit) (.trap i) s) (fun _ u => u)
/-- An issue of any number of lanes: their parts one after the other, ascending, each on the state that the one before has left; a
lane whose thread an earlier one has ended does nothing (R178, R204, R268, R281). -/
def inTurn (ls : List ThreadRef) (part : State → ThreadRef → State) (s : State) : State :=
  ls.foldl (fun s t => if (s.thread t).status = .ended then s else part s t) s
/-- The words that arrive at a phase, each with its mask, its KIND, what its thread supplies and its last uses (R206, R269-R272,
R295). -/
def meetings (f : FmtK) (r : FmtR) (a : FmtAK) (k : BitVec 4) (s : State) (t : ThreadRef) :
    List (Instr × Nat × Nat × LaneOperand × List Run) :=
  let kind := fun (maj sel : Nat) => 64 * maj + sel
  let flag : LaneOperand := { flag := s.readF t (f.kb.toNat % 8), dst := f.g.toNat }
  let shuffle : LaneOperand := { a := s.readG t r.a.toNat, b := s.readG t r.b.toNat, dst := r.d.toNat }
  let sum : LaneOperand := { a := s.readG t r.a.toNat, dst := r.d.toNat }
  let stream : LaneOperand := { b := s.readG t a.b.toNat, key := s.readPair t a.a.toNat, dst2 := a.b.toNat }
  let ab := fun (n : Nat) => mark r.la [(r.a.toNat, n)] ++ mark r.lb [(r.b.toNat, 1)]
  [(.join f, f.ka.toNat, kind 0x19 3, {}, []), (.ballot f, f.ka.toNat, kind 0x19 0, flag, []),
   (.popcm f, f.ka.toNat, kind 0x19 1, flag, []), (.rankm f, f.ka.toNat, kind 0x19 2, flag, []),
   (.shfl r k, k.toNat, kind 0x1A 0, shuffle, ab 1), (.shflx r k, k.toNat, kind 0x1B 0, shuffle, ab 1),
   (.redm r k, k.toNat, kind 0x1C 0, sum, mark r.la [(r.a.toNat, 1)]),
   (.scanm r k, k.toNat, kind 0x1D 0, sum, mark r.la [(r.a.toNat, 1)]),
   (.mrgrk r k, k.toNat, kind 0x1E 0, { key := s.readPair t r.a.toNat, b := s.readG t r.b.toNat, dst := r.d.toNat }, ab 2),
   (.stcmp a, a.k.toNat, kind 0x2D 0, { stream with a := s.readG t a.d.toNat }, []),
   (.ldexp a, a.k.toNat, kind 0x2D 1, { stream with dst := a.d.toNat }, [])]
/-- What a thread's last word does at its end: its pc goes on, and the mask tests of its posy run (R206, R209). -/
def lastWord (s : State) (t : ThreadRef) : State := (s.advance t).testAll [t]
/-- What follows for the task where the thread has ended (R211). -/
def endedThen (s : State) (t : ThreadRef) : State := if (s.thread t).status = .ended then s.afterEnd t.task else s
/-- A doubleword of a successor record is zero but for these fields, and each field is in its range (R212). -/
def SuccessorRecord (b : List Byte) (r : Successor) : Prop :=
  let d := fun (i : Nat) => natOfBytes ((b.drop (8 * i)).take 8)
  d 0 < 2 ^ 56 ∧ d 0 % 12 = 0 ∧ d 1 < 2 ^ 24 ∧ 1 ≤ d 1 % 2 ^ 16 ∧ d 1 % 2 ^ 16 ≤ 1024 ∧ 1 ≤ d 1 / 2 ^ 16 ∧ d 1 / 2 ^ 16 ≤ 64 ∧
  d 3 = 0 ∧ d 4 = 0 ∧ d 5 = 0 ∧ d 6 = 0 ∧ d 7 = 0 ∧
  r = { entry := BitVec.ofNat 64 (d 0), threads := d 1 % 2 ^ 16, regs := d 1 / 2 ^ 16, arg := BitVec.ofNat 64 (d 2) }
/-- A thread of a successor as it starts: ARG in g0:g1, every other register, flag and FCR zero (R213, R214). -/
def firstThread (age tid : Nat) (x : Successor) (tick : Nat) : Thread :=
  { task := age
    tid := tid
    pc := x.entry
    regionPc := x.entry
    regs := Tbl.set 0 (Tbl.set 0 [] 0 (loWord x.arg)) 1 (hiWord x.arg)
    since := tick }
/-- A task that ends gives up what it holds: handles, tile memory, threads (R211). -/
def released (s : State) (k : Task) (task : Nat) : State :=
  let s := k.handles.foldl (fun s h => s.dropHandle task h.1) s
  { s with
    tmems := s.tmems.map (fun e => if e.2.lease = some task then (e.1, { e.2 with lease := none }) else e)
    tasks := Tbl.erase s.tasks task
    threads := s.threads.filter (fun e => e.2.task != task) }
/-- A record keeps R415 for a collective of `n` members of its launch: at memory level, PEERB 0, as many chunks as CHUNKMAP has, each
one range (its top index bits make the tile id, and its matrix leaves them alone), and at least one for each member, but for KIND 1. -/
def ResultFits (l : Launch) (n : Nat) (y : Layout) : Prop :=
  let k := ones y.rcd.tilemask
  y.rcd.spm = false ∧ y.rcd.peerb = 0 ∧ k ≤ y.rcd.n ∧ k = ones l.rcd.chunkmap ∧ (l.rcd.collop % 16 = 1 ∨ n ≤ 2 ^ k) ∧
  ∀ j, y.rcd.n - k ≤ j → j < y.rcd.n → y.rcd.tilemask.getLsbD j = true ∧ y.cur.getD j 0 = BitVec.ofNat 48 (2 ^ j)
/-- LAUNCH answers its thread: Rd holds the status, and its region ends (R387). -/
def launchAnswer (s : State) (t : ThreadRef) (d st : Nat) : State :=
  s.modThread t (fun th => committed (th.setG d (BitVec.ofNat 32 st)))
/-- A launch that is rejected leaves its queue: bit 63 and the decrements of its two signals, and its slot is passed (R361). -/
def turnedAway (s : State) (q count : Nat) (doneSig doneDec trigSig : DWord) : State :=
  let s1 := { s with pending := s.pending.filter (fun p => !(p.q == q && p.count == count)) }
  let s2 := s1.signalDec (s.qFunc q) (s.qAsid q) 0 doneSig true doneDec
  ((s2.signalDec (s.qFunc q) (s.qAsid q) 0 trigSig true 1).headGo q).armEligible q
/-- Tasks that may be donated wait on a bed (R371). -/
def donated (s : State) (bed : Nat) : Nat := (s.launches.map (fun e => (e.2.donates bed).length)).sum
/-- No core of a launch is between two stages (R369). -/
def Settled (s : State) : Prop := ∀ e ∈ s.launches, e.2.moved = [] ∧ s.launches.find? e.1 = some e.2
/-- The collective that COLLECTIVE_RESERVE names (R416). -/
def armedAt (s : State) (n : Nat) : Option ArmedColl :=
  if n < 2 ^ 40 then (s.launches.find? n).bind (fun l => armedOf l.func l.asid l.rcd l.group l.coll)
  else (s.pending.find? (fun p => 2 ^ 40 + p.q * 2 ^ 32 + p.count == n)).bind (fun p => armedOf (s.qFunc p.q) (s.qAsid p.q) p.rcd p.group p.coll)
/-- A collective that is armed and has no reservation yet. -/
def awaits (c : ArmedColl) : Bool := !c.coll.reserved && !c.coll.failed && !c.coll.finished
/-- The wait of R223's table, with SUB and the object's address or number, written out. -/
def hangRow : Wait → Option (Nat × Nat)
  | .phase k => some (1, k)
  | .waitk k => some (2, k)
  | .bwait off _ _ => some (3, off)
  | .mwait _ va _ _ _ _ => some (4, va.toNat)
  | .sigw _ va _ _ => some (4, va.toNat)
  | .ldq ch _ _ _ => some (5, ch)
  | .stq ch _ _ => some (6, ch)
  | .lock n _ => some (7, n.va)
  | .xsucc va => some (8, va.toNat)
  | .launch _ _ va _ => some (9, va.toNat)
  | .rfence => some (10, 0)
  | .ratom _ _ _ _ p => some (11, p.toNat)
  | .page _ i => some (12, i.va.toNat)
  | .deferred i => some (13, i.va.toNat)
  | _ => none
/-- Waits that a save ends by rolling their thread back (R394). -/
def savedByRollback : Status → Bool
  | .ready | .yielded => true
  | .parked (.ldq _ _ _ _) | .parked (.stq _ _ _) | .parked (.page _ _) | .parked (.launch _ _ _ _) | .parked (.lockHeld _) => true
  | _ => false
/-- Waits that a save keeps (R392, R394). -/
def savedAsIs : Status → Bool
  | .parked (.phase _) | .parked (.waitk _) | .parked (.bwait _ _ _) | .parked (.mwait _ _ _ _ _ _) | .parked (.sigw _ _ _ _) => true
  | .parked .rfence | .parked (.ratom _ _ _ _ _) | .parked (.deferred _) | .parked (.xsucc _) | .ended => true
  | _ => false

end Sys2Proof.Machine.Claims
end

