-- ==== Sys2Proof/Safety/Accesses.lean ====
section
/-! DEFINITION. What loads, stores, atomics and channels read and write (R57-R63, R282-R298), and M·x (R150). -/
open Sys2Proof Sys2Proof.Machine
namespace Sys2Proof.Machine.Claims

/-- No slice, L1, registration or spill entry holds anything, and no metadata word is set: memory alone holds every word. -/
def Quiet (s : State) : Prop := s.slices = [] ∧ s.l1 = [] ∧ s.regq = [] ∧ s.spills = [] ∧ s.metas = []
/-- A core has no write to host memory on its way (R63). -/
def NoHostWrites (s : State) (core : Nat) : Prop := ∀ w ∈ s.hostq, w.core ≠ core
/-- No store of a core waits with only a part of its word written: an acquire then brings no other byte up to date (R58, R122, log
108). -/
def NoNarrow (s : State) (core : Nat) : Prop := ∀ r ∈ s.regs core, r.narrow = false
/-- A load of a word hits: the core's L1 holds it in one of these states, and no partial of its line (R57, R75). -/
def Hits (s : State) (core word : Nat) (sts : List L1St) : Prop :=
  (∃ x, s.l1? core word = some x ∧ x.st ∈ sts) ∧
  ∀ e, s.slice? (core / 128) (word / 64) = some e → ¬(e.st = .u ∧ e.holders.getLsbD (core % 128) = true)
/-- The states in which a load hits; an acquire has dropped the SHR words (R57, R59). -/
def hitStates (acquire : Bool) : List L1St := if acquire then [.pnd, .own] else [.shr, .pnd, .own]
/-- A byte as the core's L1 holds it. -/
def cachedByte (s : State) (core a : Nat) : Byte := ((s.l1? core (a / 4)).map (fun x => x.val.extractLsb' (8 * (a % 4)) 8)).getD 0
/-- The core's L1 holds the line of a byte, or its set of eight ways has room for it (R55). -/
def L1Fits (s : State) (core pa : Nat) : Prop :=
  pa / 256 ∈ s.l1Lines core (pa / 256) ∨ (s.l1Lines core (pa / 256)).length < 8
/-- The home has read a line's metadata word: an invalid one leaves the line poisoned and in I, keeps LOCKHINT, and is counted
(R71). -/
def metaRead (s : State) (line : Nat) : State :=
  let w := Tbl.get 0 s.metas line
  if metaValid w then s
  else { s with metas := Tbl.set 0 s.metas line ((w &&& 0x2000) ||| 0x1000), uncorrected := s.uncorrected + 1 }
/-- Some bit of a number from `lo` to `hi`. -/
def anyBit (n hi lo : Nat) : Prop := n / 2 ^ lo % 2 ^ (hi + 1 - lo) ≠ 0
/-- FRAME of a table entry, and the frame it names. -/
def tableFrame (e : Nat) : Nat := e / 2 ^ 12 % 2 ^ 40
/-- A leaf at the level that maps 2^sh bytes is malformed (R21). -/
def BadLeaf (sh e : Nat) : Prop :=
  let bit := fun (n : Nat) => e.testBit n = true
  bit 11 ∨ anyBit e 63 52 ∨ sh = 39 ∨ (12 < sh ∧ anyBit (tableFrame e) (sh - 13) 0) ∨ (bit 6 ∧ 12 < sh) ∨
  (¬bit 7 ∧ 2 ^ 39 < tableFrame e * 4096 + 2 ^ sh) ∨ (bit 7 ∧ (bit 8 ∨ bit 9 ∨ bit 10)) ∨ (bit 10 ∧ bit 3)
/-- A contiguous run is valid (R22), the reserved bits of its entries zero (R20, log 107). -/
def GoodRun (es : List DWord) : Prop :=
  let e := fun (i : Nat) => (es.getD i 0).toNat
  tableFrame (e 0) % 16 = 0 ∧ ∀ i < 16, e i % 4 = 3 ∧ (e i).testBit 6 = true ∧ e i / 4 % 2 ^ 10 = e 0 / 4 % 2 ^ 10 ∧ ¬anyBit (e i) 63 52 ∧
    tableFrame (e i) = tableFrame (e 0) + i
/-- A context descriptor has V = 1 and its reserved fields zero (R17). -/
def GoodContext (d : List DWord) : Prop :=
  let w := fun (i : Nat) => (d.getD i 0).toNat
  w 0 % 2 = 1 ∧ w 0 < 2 ^ 28 ∧ w 1 % 2 ^ 12 = 0 ∧ w 1 < 2 ^ 52 ∧ w 2 / 2 % 2 ^ 13 = 0 ∧ w 2 < 2 ^ 52 ∧ w 3 / 2 % 2 ^ 11 = 0 ∧
    w 3 < 2 ^ 52 ∧ w 4 = 0 ∧ w 5 = 0 ∧ w 6 = 0 ∧ w 7 = 0
/-- What a leaf entry, found by a walk that maps 2^log2 bytes at a frame, gives a translation cache. -/
def cachedLeaf (log2 frame e : Nat) : Tlb :=
  ⟨log2, frame, e.testBit 2, e.testBit 3, e.testBit 4, e.testBit 5, e.testBit 7⟩
/-- A leaf's permission for a kind of access, and the PROT subcode where it is denied (R24 check 7, R25). -/
def permission (t : Tlb) (k : Access) : Bool × Nat :=
  match k with
  | .read => (t.r, 2)
  | .write => (t.w, 3)
  | .atomic => (t.a && t.w, 4)
  | .fetch => (t.x, 5)
/-- Bytes of SZ (R239). -/
def sizeBytes (sz : BitVec 3) : Nat := [1, 1, 2, 2, 4, 8, 16].getD sz.toNat 16
/-- Registers of SZ. -/
def sizeRegs (sz : BitVec 3) : Nat := [1, 1, 1, 1, 1, 2, 4].getD sz.toNat 4
/-- ea of R281. -/
def ea (f : FmtM) (base : DWord) : DWord := wrap 64 (u base + f.off.toInt * sizeBytes f.sz)
/-- off of R281. -/
def spmOff (f : FmtM) (base : Word) : Nat := (wrap 32 (u base + f.off.toInt * sizeBytes f.sz)).toNat
/-- What a load writes for the number that its bytes stand for (R282). -/
def loaded (sz : BitVec 3) (n : Nat) : List Word :=
  match sz.toNat with
  | 1 => [wrap 32 (BitVec.ofNat 8 n).toInt]
  | 3 => [wrap 32 (BitVec.ofNat 16 n).toInt]
  | _ => (List.range (sizeRegs sz)).map (fun i => BitVec.ofNat 32 (n / 2 ^ (32 * i)))
/-- What a store writes: the low bytes of its registers. -/
def storedBytes (sz : BitVec 3) (ws : List Word) : List Byte :=
  (List.range (sizeBytes sz)).map (fun i => BitVec.ofNat 8 ((ws.getD (i / 4) 0).toNat / 2 ^ (8 * (i % 4))))
/-- The new value of an atomic's word (R288), by the numbers it holds: w its width, `o` the old word, b the operand, `c` CAS's
second operand; none writes nothing. -/
def newWord (w : Nat) (op : AtOp) (o b c : Nat) : Option Nat :=
  let s := fun (n : Nat) => (BitVec.ofNat w n).toInt
  match op with
  | .add => some ((o + b) % 2 ^ w)
  | .minS => some (if s o ≤ s b then o else b)
  | .minN => some (min o b)
  | .maxS => some (if s o ≤ s b then b else o)
  | .maxN => some (max o b)
  | .and => some (o &&& b)
  | .or => some (o ||| b)
  | .xor => some (o ^^^ b)
  | .exch => some b
  | .cas => if o = b then some c else none
  | .faddF32 => some (Fp.addBits Fp.f32 o b)
  | .faddF64 => some (Fp.addBits Fp.f64 o b)
  | .faddBf2 => some (Fp.addBits Fp.bf (o % 2 ^ 16) (b % 2 ^ 16) + 2 ^ 16 * Fp.addBits Fp.bf (o / 2 ^ 16) (b / 2 ^ 16))

/-- The words of majors 0x27 and 0x28 with their operator and width in bits (R288). -/
noncomputable def atomWords : List ((FmtA → Instr) × AtOp × Nat) :=
  [(.atomAddB32, .add, 32), (.atomMinS32, .minS, 32), (.atomMinN32, .minN, 32), (.atomMaxS32, .maxS, 32), (.atomMaxN32, .maxN, 32),
   (.atomAndB32, .and, 32), (.atomOrB32, .or, 32), (.atomXorB32, .xor, 32), (.atomExchB32, .exch, 32), (.atomCasB32, .cas, 32),
   (.atomFaddF32, .faddF32, 32), (.atomAddB64, .add, 64), (.atomMinS64, .minS, 64), (.atomMinN64, .minN, 64),
   (.atomMaxS64, .maxS, 64), (.atomMaxN64, .maxN, 64), (.atomAndB64, .and, 64), (.atomOrB64, .or, 64), (.atomXorB64, .xor, 64),
   (.atomExchB64, .exch, 64), (.atomCasB64, .cas, 64), (.atomFaddF64, .faddF64, 64)]
/-- The words of major 0x2A. -/
noncomputable def atomsWords : List ((FmtA → Instr) × AtOp) :=
  [(.atomsAddB32, .add), (.atomsMinS32, .minS), (.atomsMinN32, .minN), (.atomsMaxS32, .maxS), (.atomsMaxN32, .maxN),
   (.atomsAndB32, .and), (.atomsOrB32, .or), (.atomsXorB32, .xor), (.atomsExchB32, .exch), (.atomsCasB32, .cas),
   (.atomsFaddF32, .faddF32)]
/-- The words of major 0x29. -/
noncomputable def redWords : List ((FmtA → Instr) × AtOp) :=
  [(.redAdd, .add), (.redMinS, .minS), (.redMinN, .minN), (.redMaxS, .maxS), (.redMaxN, .maxN), (.redAnd, .and), (.redOr, .or),
   (.redXor, .xor), (.redFaddF32, .faddF32), (.redFaddF64, .faddF64), (.redFaddBf2, .faddBf2)]
/-- The words of major 0x2B. -/
noncomputable def redsWords : List ((FmtA → Instr) × AtOp) :=
  [(.redsAddB32, .add), (.redsMinS32, .minS), (.redsMinN32, .minN), (.redsMaxS32, .maxS), (.redsMaxN32, .maxN),
   (.redsAndB32, .and), (.redsOrB32, .or), (.redsXorB32, .xor), (.redsFaddF32, .faddF32), (.redsFaddBf2, .faddBf2)]
/-- An operand of a width: a register or a pair. -/
def wideOperand (s : State) (t : ThreadRef) (w r : Nat) : Nat := if w = 64 then (s.readPair t r).toNat else (s.readG t r).toNat
/-- CAS's second operand follows the first (R288). -/
def secondOperand (s : State) (t : ThreadRef) (w r : Nat) : Nat := wideOperand s t w (r + w / 32)
/-- The registers of a value of a width. -/
def valueRegs (w n : Nat) : List Word := (List.range (w / 32)).map (fun i => BitVec.ofNat 32 (n / 2 ^ (32 * i)))
/-- The number that an L1 holds at a word, or at a word and the next. -/
def ownedNumber (s : State) (core word w : Nat) : Option Nat :=
  let one := fun (k : Nat) => match s.l1? core k with
    | some ⟨.own, v⟩ => some v.toNat
    | _ => none
  if w = 64 then (one word).bind (fun lo => (one (word + 1)).map (fun hi => lo + 2 ^ 32 * hi)) else one word
/-- A thread after an atomic: its old value is on its way to D and its region starts at the next word. -/
def atomized (d : Nat) (ws : List Word) (th : Thread) : Thread := committed (withLate th d ws)
/-- A precise record of a trap that names an address, at a thread's current word (R380). -/
def recordAtAddress (s : State) (t : ThreadRef) (code sub : Nat) (va : DWord) : FaultRec :=
  let k := s.task t.task
  { code := code, sub := sub, precise := true, exited := false, recoverable := false, killed := false, tid := t.tid, va := va,
    pc := (s.thread t).pc, regionPc := (s.thread t).regionPc, task := k.num, peer := 0, lseq := k.lseq, asid := k.asid, token := 0 }
/-- M·x (R150): bit j is the parity of the bits that row j and x share. -/
def applied (m : List (BitVec 48)) (n x : Nat) : Nat :=
  ((List.range n).map (fun j => if (m.getD j 0 &&& BitVec.ofNat 48 x).toNat.bits.count true % 2 = 1 then 2 ^ j else 0)).sum

end Sys2Proof.Machine.Claims
end

