-- ==== Sys2Proof/Safety/Engines.lean ====
section
/-! DEFINITION. The terms for engine operations, records and matrix words (R302-R355). -/
open Sys2Proof Sys2Proof.Machine
namespace Sys2Proof.Machine.Claims

/-- n bytes at an aligned offset of the task's scratchpad (R43). -/
def InSpm (s : State) (t : ThreadRef) (off n : Nat) : Prop := off % n = 0 ∧ off + n ≤ (s.task t.task).spmSize
/-- The eight doublewords of the command record that H names (R338). -/
def cmd (s : State) (t : ThreadRef) (f : FmtT) : List Nat :=
  (List.range 8).map (fun i => natOfBytes (Memory.bytes (s.task t.task).spm ((s.readG t f.h.toNat).toNat + 8 * i) 8))
/-- A lone lane's engine word finds the record q in scratchpad, with its barrier object (R338-R340). -/
structure Commanded (s : State) (t : ThreadRef) (th : Thread) (f : FmtT) (q : List Nat) (bar : Nat) : Prop where
  lone : Lone s t th
  alone : s.collect = none
  record : InSpm s t (s.readG t f.h.toNat).toNat 64
  reads : cmd s t f = q
  object : InSpm s t bar 32
/-- The operation that a thread's word starts (R131, R302). -/
def opBy (s : State) (t : ThreadRef) (th : Thread) (k : EngKind) (bar : Nat) (bytes prog stop : Nat) : EngineOp :=
  let z := s.task t.task
  { kind := k, task := t.task, tid := t.tid, pc := th.pc, lseq := z.lseq, num := z.num, asid := z.asid, func := z.func, core := z.phys,
    bar := some bar, remain := bytes, prog := prog, stop := stop, launch := some z.launch }
/-- The operation runs, after the earlier stores of its core (R131), and its bytes have been added to PENDB of its object (R302). -/
def started (s : State) (o : EngineOp) : State :=
  let s := s.drain o.core
  let u := { s with engines := s.engines.put s.nextEngine o, nextEngine := s.nextEngine + 1 }
  match o.bar with
  | some b => if o.remain = 0 then u else u.countOn o.task b o.remain
  | none => u
/-- A status to A, a commit point, and the test of the barrier objects that the word has changed (R303, R338). -/
def answered (s : State) (t : ThreadRef) (d st : Nat) : State :=
  (s.modThread t (fun th => committed (withLate th d [BitVec.ofNat 32 st]))).settleBarriers
/-- Two ranges share no byte. -/
def Disjoint_ (a n b m : Nat) : Prop := a + n ≤ b ∨ b + m ≤ a
/-- Two layout states lie at one level: memory, or the scratchpad of one stage's tasks (R152, R175). -/
def OneLevel (a b : Layout) : Prop := a.rcd.spm = b.rcd.spm ∧ (a.rcd.spm = true → a.stage = b.stage)
/-- Two layout states share no storage (R353, R354). -/
def Unshared (a b : Layout) : Prop := OneLevel a b → Disjoint_ a.rcd.base a.rcd.size b.rcd.base b.rcd.size
/-- The storage of a layout state meets neither the storage nor the staging area of another (R175). -/
def Apart (a b : Layout) : Prop :=
  Unshared a b ∧ (OneLevel a b → b.rcd.sv = true → Disjoint_ a.rcd.base a.rcd.size b.rcd.stage b.rcd.size)
/-- The progress that TSTAT reports for a destination becomes this, unless a later operation than `op` has it (R344). -/
def progressed (s : State) (k op a b : Nat) : State :=
  s.modLayout k (fun l => if l.progOp ≤ op then { l with progOp := op, prog0 := BitVec.ofNat 32 a, prog1 := BitVec.ofNat 32 b } else l)
/-- Whether its handle may be used: no pass in flight, not broken. -/
def Whole (l : Layout) : Prop := l.inflight = false ∧ l.broken = false
/-- SHAPE of R345 and R347 does not arise. -/
def CopyFits (a d : TRec) (ovl mcast chv : Bool) (red first : Nat) : Prop :=
  a.rank = d.rank ∧ a.ext = d.ext ∧ d.etype ≠ 14 ∧ a.peerb = 0 ∧ d.peerb = 0 ∧
  ((a.etype < 16 ∧ d.etype < 16) ∨ a.etype = d.etype) ∧ (red ≠ 0 → d.spm = true) ∧
  (red = 0 ∨ d.etype ∈ ([[], [0, 1], [4], [7], [4], [4], [0], [0]] : List (List Nat)).getD red []) ∧
  (chv = true ∨ mcast = true → d.spm = true ∧ d.coreb = 0) ∧ (ovl = true → d.sv = true) ∧
  first * (4096 / d.esize) < 2 ^ d.n ∧ d.esize ≠ 0
/-- The extents of a record are those of its rank, and their bits make n (R147, R148). -/
def Measured (r : TRec) : Prop := (∀ i < r.ext.length, r.ext.getD i 0 ≠ 0 ↔ i < r.rank) ∧ (r.ext.map bitsOf).sum = r.n
/-- Bytes of the elements with an index in [lo, hi): under TRIM of the real ones only (R161, R302). -/
def elementBytes (d : TRec) (lo hi : Nat) : Nat :=
  d.esize * ((List.range hi).filter (fun x => decide (lo ≤ x) && !(d.trim && d.phantom x))).length
/-- Records of the engine words, by CMD (R338). -/
noncomputable def engineWords : List ((FmtT → Instr) × Nat) :=
  [(.tcopy, 2), (.remap, 3), (.remapStep, 3), (.tmerge, 4), (.txf, 5), (.mxgo, 6), (.tldtab, 7), (.rget, 8), (.rput, 9), (.tsend, 10)]
/-- The bytes that a record's address doubleword names, from scratchpad or by plain loads of `piece` bytes (R351, R355). -/
def Table_ (s : State) (t : ThreadRef) (w align piece n : Nat) (b : List Byte) (s1 : State) : Prop :=
  (∃ off, w = off + 2 ^ 63 ∧ off < 2 ^ 32 ∧ off % align = 0 ∧ off + piece * n ≤ (s.task t.task).spmSize ∧ s1 = s ∧
    b = Memory.bytes (s.task t.task).spm off (piece * n)) ∨
  (w < 2 ^ 56 ∧ w % align = 0 ∧ s.memReadRun t (BitVec.ofNat 64 w) piece n = .ok b s1)
/-- Doubleword i of some bytes. -/
def dword (b : List Byte) (i : Nat) : Nat := natOfBytes ((b.drop (8 * i)).take 8)
/-- Elements of C in output tile p of an M×N product, tiles of 256×128 taken column of tiles by column (R335). -/
def tileSize (m n p : Nat) : Nat :=
  let mt := (m + 255) / 256
  min 256 (m - 256 * (p % mt)) * min 128 (n - 128 * (p / mt))
/-- The tile memory of a core as a task's word finds it, once the task has the lease: a new lease has no configuration, and zeros
(R326, R327). -/
def leased (s : State) (core task : Nat) : Tmem :=
  let m := (s.tmems.find? core).getD {}
  if m.lease = none then { lease := some task, p := m.p, done := m.done, error := m.error, status := m.status } else m
/-- A task may use its core's tile memory. -/
def MayLease (s : State) (core task : Nat) : Prop :=
  ((s.tmems.find? core).getD {}).lease = none ∨ ((s.tmems.find? core).getD {}).lease = some task
/-- An operation is an MXGO. -/
def EngKind.isMxgo : EngKind → Bool
  | .mxgo _ _ _ _ _ => true
  | _ => false
/-- The operation is neither suspended nor of a saved task (R173, R393). -/
def Runs (s : State) (o : EngineOp) : Prop := o.susp = none ∧ (s.task o.task).status ≠ .saved ∧ (s.task o.task).status ≠ .saving
/-- Bytes of an operation complete: its object loses as many of those that it still counts (R302). -/
def counted (s : State) (id : Nat) (o : EngineOp) (n : Nat) : State :=
  let m := min n o.remain
  let s := { s with engines := s.engines.put id { o with remain := o.remain - m } }
  match o.bar with
  | some b => if m = 0 then s else s.countOff o.task b m false
  | none => s
/-- An operation is over, with what it never wrote taken off its object (R354). -/
def finished (s : State) (id : Nat) (o : EngineOp) : State :=
  let s := counted s id o o.remain
  { s with engines := s.engines.erase id }
/-- An element operation stands at its new position, with the progress that TSTAT reports; it is over after its last element. -/
def movesOn (s : State) (op : Nat) (o : EngineOp) (kd a b : Nat) (ends : Prop) [Decidable ends] : Host.Outcome State Fault Refusal :=
  let u := progressed { s with engines := s.engines.put op o } kd op a b
  .next (if ends then finished u op o else u).settleBarriers
/-- A transform's action writes `y` to element j of its destination, unless that is a phantom under TRIM, and goes on to the next
element, keeping `keep` (R354); `u` is the state in which its operands have been read. -/
def Writes (s u : State) (op : Nat) (o : EngineOp) (kd : Nat) (d : Layout) (j : Nat) (y : List Byte) (keep : Nat) : Prop :=
  let goes := fun (s : State) (n : Nat) =>
    movesOn s op { o with remain := o.remain - n, prog := o.prog + 1, prog2 := keep } kd (o.prog + 1) 0 (o.stop ≤ o.prog + 1)
  (d.rcd.trim = true → d.rcd.phantom j = true → exec (.engineChunk op) s = goes u 0) ∧
  (d.rcd.trim = false ∨ d.rcd.phantom j = false → ∀ p v, u.elementDest o d d.cur j = .ok p v → v.engines = s.engines →
    exec (.engineChunk op) s = goes (counted (v.placePut o p y) op o d.rcd.esize) (min d.rcd.esize o.remain))
/-- A number read as its integer type says: s32, s64, s8 and s16 are the even codes (R149). -/
def integer (etype size n : Nat) : Int := if etype % 2 = 0 then (BitVec.ofNat (8 * size) n).toInt else (n % 2 ^ (8 * size) : Nat)
/-- An integer in a smaller type: the nearest that it holds (R192). -/
def clamped (etype size : Nat) (v : Int) : Nat :=
  let w := 8 * size
  ((if etype % 2 = 0 then max (-2 ^ (w - 1)) (min (2 ^ (w - 1) - 1) v) else max 0 (min (2 ^ w - 1) v)) % 2 ^ w).toNat
/-- Bits [hi:lo] of an entry of a decode table (R355). -/
def entry (e hi lo : Nat) : Nat := e / 2 ^ lo % 2 ^ (hi + 1 - lo)
/-- The elements of chunk c: by source index, or by destination slot for a copy bound to a channel (R172, R348). -/
def chunk (d : Layout) (chv : Bool) (c : Nat) : List Nat :=
  let e := 4096 / d.rcd.esize
  let xs := (List.range (2 ^ d.rcd.n)).filter (fun x => decide (c * e ≤ x) && decide (x < (c + 1) * e))
  if chv then xs.map (fun x => applied ((invert d.cur d.rcd.n).getD []) d.rcd.n x) else xs

/-- The two planes and tiles of tile memory, but for one tile's first rows, are as they were. -/
def SameBut (m m' : Tmem) (tile rows : Nat) : Prop :=
  m'.active = m.active ∧ m'.shadow = m.shadow ∧ m'.lease = m.lease ∧ m'.config = m.config ∧
  (∀ i j, j < 128 → rows ≤ i → m'.acc tile i j = m.acc tile i j) ∧ (∀ i j, m'.acc (1 - tile) i j = m.acc (1 - tile) i j)
/-- One k-step of the array (R195, R332): a 32-bit integer accumulator takes the sum of the products, modulo 2^32; a float one
rounds as R195 says. -/
def stepped (opt : Nat) (acc : Word) (ps : List (Nat × Nat)) : Word :=
  let v := fun (n : Nat) => if opt = 10 then (BitVec.ofNat 8 n).toInt else ((n % 2 ^ 8 : Nat) : Int)
  if opt = 10 ∨ opt = 11 then wrap 32 (acc.toInt + (ps.map (fun p => v p.1 * v p.2)).sum)
  else BitVec.ofNat 32 (Fp.dotStep (([Fp.h16, Fp.bf, Fp.e4, Fp.e5] : List Fp.Fmt).getD (opt - 6) Fp.h16) acc.toNat ps).bits
/-- Bytes of an operand element (R328). -/
def opSize (opt : Nat) : Nat := if opt = 6 ∨ opt = 7 then 2 else 1
/-- The direct matrix words (R329). -/
noncomputable def matrixWords : List (FmtT → Instr) := [.mxcfg, .mxlds, .mxswap, .mxmul, .mxst, .mxzero]
/-- The barrier object at an offset: the fields of its 32 bytes (R299). -/
def object (s : State) (task off : Nat) : Barrier := Barrier.unpack (Memory.bytes (s.task task).spm off 32)
/-- BINIT has written the object, and nothing else has since (R299). -/
def Initialised (s : State) (task off : Nat) : Prop := (s.task task).bars.contains off = true
/-- The object takes these fields and is tested at the end of the cycle (R303). -/
def withObject (s : State) (task off : Nat) (b : Barrier) : State :=
  { s.modTask task (fun k => { k with spm := Memory.write k.spm off b.pack }) with
    touched := if (task, off) ∈ s.touched then s.touched else s.touched ++ [(task, off)] }

end Sys2Proof.Machine.Claims
end

