-- ==== Sys2Proof/Safety/Locks.lean ====
section
/-! DEFINITION. The tables of the lock manager, written out from R96-R109. -/
open Sys2Proof Sys2Proof.Machine
namespace Sys2Proof.Machine.Claims

/-- The modes that a mode covers (R96): 0 IS, 1 IX, 2 S, 3 SIX, 4 X, 5 INC. -/
def coverTable : List (List Nat) := [[0], [0, 1], [0, 2], [0, 1, 2, 3], [0, 1, 2, 3, 4, 5], [5]]
/-- The child modes that a parent's mode permits (R100). -/
def permitTable : List (List Nat) := [[0, 2], [0, 1, 2, 3, 4, 5], [0, 2], [0, 1, 2, 3, 4], [0, 1, 2, 3, 4, 5], [0, 5]]
/-- The upgrades that LKUPG makes (R107): S to X, IX to SIX, IX to X. -/
def upgrades : List (Nat × Nat) := [(2, 4), (1, 3), (1, 4)]
/-- XOR of the sixteen 3-bit groups of a number (R93). -/
def groupXor (k : Nat) : Nat := ((List.range 16).map (fun i => k / 2 ^ (3 * i) % 8)).foldl Nat.xor 0
/-- The default matrix (R97), held mode by requested mode. -/
def defaultMatrix : List (List Nat) :=
  [[1, 1, 1, 1, 0, 1], [1, 1, 0, 0, 0, 1], [1, 0, 1, 0, 0, 0], [1, 0, 0, 0, 0, 0], [0, 0, 0, 0, 0, 0], [1, 1, 0, 0, 0, 1]]
/-- A lock entry's held mode. -/
def Holds (e : Lock) (m : Nat) : Prop := e.st = .held m ∨ ∃ m', e.st = .upg m m'
/-- The mode that a lock entry waits for. -/
def Wants (e : Lock) (m : Nat) : Prop := e.st = .wait m ∨ ∃ m', e.st = .upg m' m

end Sys2Proof.Machine.Claims
end

