-- ==== Sys2Proof/Safety/Fabric.lean ====
section
/-! DEFINITION. The terms for peers, counters and packets (R398-R412). -/
open Sys2Proof Sys2Proof.Machine
namespace Sys2Proof.Machine.Claims

/-- A peer-window address, a local one (R14). -/
def IsPeer (a : Nat) : Prop := 3 * 2 ^ 54 ≤ a ∧ a < 2 ^ 56
/-- A receive counter is allocated to the issuer's address space: CNTCFG's V and ASID (R406). -/
def Allocated (s : State) (t : ThreadRef) (c : Nat) : Prop :=
  c < 4096 ∧ (s.greg (.cntcfg c)).toNat % 2 = 1 ∧ (s.greg (.cntcfg c)).toNat / 2 % 2 ^ 12 = (s.task t.task).asid
/-- An entry of the armed table (R409, R411). -/
def armedBy (s : State) (t : ThreadRef) (th : Thread) (c : Nat) (thresh : DWord) (k : ArmedKind) (bar : Option Nat) : Armed :=
  let z := s.task t.task
  { counter := c, thresh := thresh, kind := k, bar := bar, task := t.task, tid := t.tid, pc := th.pc, lseq := z.lseq, num := z.num,
    asid := z.asid, func := z.func, core := z.phys, launch := z.launch }
/-- No armed entry of a counter is due. -/
def NoneDue (s : State) (c : Nat) : Prop := ∀ a ∈ s.armed, a.counter = c → ((s.counters.find? c).getD 0).toNat < a.thresh.toNat
/-- The record of a failed operation: its word, its thread and task, and the region of the next word (R341, R403). -/
def operationRecord (o : EngineOp) (code sub : Nat) (va : DWord) (peer : Nat) : FaultRec :=
  { code := code, sub := sub, precise := false, exited := false, recoverable := false, killed := false, tid := o.tid, va := va, pc := o.pc,
    regionPc := o.pc + 4, task := o.num, peer := peer, lseq := o.lseq, asid := o.asid, token := 0 }
/-- An operation is no longer its thread's; an RFENCE, or a release RATOM, that waited for it as the last one goes on (R139, R140). -/
def notRemote (s : State) (o : EngineOp) (id : Nat) : State :=
  let t : ThreadRef := ⟨o.task, o.tid⟩
  let s := s.modThread t (fun th => { th with remote := th.remote.filter (fun n => n ≠ id) })
  if (s.thread t).remote = [] ∧ ((s.thread t).status = .parked .rfence ∨ (s.thread t).status = .parked (.retry .remote)) then s.wake t else s
/-- An operation between devices fails: a record, ERROR on its object, which loses the bytes that remain, and it is over (R302,
R341, R403). -/
def remoteFailed (s : State) (id : Nat) (o : EngineOp) (r : FaultRec) : State :=
  let s := s.pushFault o.func r
  let s := { s with engines := s.engines.erase id }
  notRemote (match o.bar with
    | some b => s.countOff o.task b o.remain true
    | none => s) o id
/-- An operation between devices, with its local side, its peer-window address, its length and what its packets are: RGET, RPUT, or an
armed send whose task has not ended (R402, R412). -/
def RemoteOp (s : State) (o : EngineOp) (a : Nat) (spm : Bool) (p : DWord) (n : Nat) (how : PacketKind) : Prop :=
  (how = .get ∧ o.kind = .rget a spm p n) ∨ (how = .put ∧ ∃ cntv inc dcnt, o.kind = .rput a spm p n cntv inc dcnt) ∨
  (how = .send ∧ spm = false ∧ (∃ cntv inc dcnt, o.kind = .tsend a p n cntv inc dcnt) ∧
    ∃ z, s.tasks.find? o.task = some z ∧ z.status ≠ .ended)
/-- The peer of a window address (R35). -/
def peerAt (p : DWord) : Nat := p.toNat / 2 ^ 44 % 2 ^ 10
/-- First byte and length of a piece: the access is split at the 4 KiB boundaries of its target address (R403). -/
def piece (target n i : Nat) : Nat × Nat :=
  let lo := i * 4096 - target % 4096
  (lo, min n ((i + 1) * 4096 - target % 4096) - lo)
/-- A thread with one more outstanding remote operation (R140). -/
def withRemote (th : Thread) (id : Nat) : Thread := { th with remote := th.remote ++ [id] }
/-- RATOM's words (R404). -/
noncomputable def ratomWords : List ((FmtA → Instr) × AtOp) :=
  [(.ratomAddB64, .add), (.ratomMinS64, .minS), (.ratomMinN64, .minN), (.ratomMaxS64, .maxS), (.ratomMaxN64, .maxN),
   (.ratomAndB64, .and), (.ratomOrB64, .or), (.ratomXorB64, .xor), (.ratomExchB64, .exch), (.ratomCasB64, .cas)]
/-- A peer-table entry is valid: V is set and its reserved fields are zero (R36). -/
def GoodPeer (d : List DWord) : Prop :=
  let w := fun (i : Nat) => (d.getD i 0).toNat
  w 0 % 2 = 1 ∧ ¬anyBit (w 0) 15 3 ∧ ¬anyBit (w 0) 31 26 ∧ ¬anyBit (w 1) 7 0 ∧ ¬anyBit (w 1) 63 52
/-- A window-table entry is valid (R37). -/
def GoodWindow (d : List DWord) : Prop :=
  let w := fun (i : Nat) => (d.getD i 0).toNat
  w 2 % 2 = 1 ∧ ¬anyBit (w 0) 63 48 ∧ ¬anyBit (w 1) 63 34 ∧ ¬anyBit (w 2) 63 4 ∧ ¬anyBit (w 3) 63 32

end Sys2Proof.Machine.Claims
end

