-- ==== Sys2Proof/Safety/Sepals.lean ====
section
/-! DEFINITION. The terms for the words of a sepal (R431-R442). -/
open Sys2Proof Sys2Proof.Machine
namespace Sys2Proof.Machine.Claims

/-- A context of a sepal has its turn (R431). -/
def Turn (s : State) (k : Nat) (c : Ctx) : Prop := s.actor = .sepal k ∧ s.ctxts.find? k = some c
/-- The scalar words on two registers, or a register and an immediate (R434). -/
noncomputable def sepalOps : List ((BitVec 4 → BitVec 4 → BitVec 4 → Instr) × (BitVec 4 → BitVec 4 → BitVec 17 → Instr) × (Word → Word → Word)) :=
  [(.sepalAdd, .sepalAddImm, fun a b => wrap 32 (u a + u b)), (.sepalSub, .sepalSubImm, fun a b => wrap 32 (u a - u b)),
   (.sepalAnd, .sepalAndImm, fun a b => a &&& b), (.sepalOr, .sepalOrImm, fun a b => a ||| b),
   (.sepalXor, .sepalXorImm, fun a b => a ^^^ b), (.sepalShl, .sepalShlImm, fun a b => shl a b.toNat),
   (.sepalShr, .sepalShrImm, fun a b => shr a b.toNat), (.sepalMin, .sepalMinImm, fun a b => if a.toInt ≤ b.toInt then a else b),
   (.sepalMax, .sepalMaxImm, fun a b => if b.toInt ≤ a.toInt then a else b)]
/-- A context that has been charged its cycles. -/
def charged (c : Ctx) (n : Nat) : Ctx := { c with cycles := c.cycles + n }
/-- The context goes on to its next word, the first of a loop body that has passes left (R435). -/
def goesOn (s : State) (k : Nat) (c : Ctx) : Answer := .next { s with ctxts := s.ctxts.put k c.next }
/-- One byte of a CRC-32C update, as R438 writes it. -/
def crcStep (crc b : Nat) : Nat :=
  (List.range 8).foldl (fun c _ => if c % 2 = 1 then Nat.xor (c / 2) 0x82F63B78 else c / 2) (Nat.xor crc b)
/-- Scalar register and vector lane of a context. -/
def yOf (c : Ctx) (r : BitVec 4) : Word := Tbl.get 0 c.y r.toNat
/-- Lane i of a vector register. -/
def wOf (c : Ctx) (r : BitVec 3) (i : Nat) : Word := Tbl.get 0 c.w (16 * r.toNat + i)
/-- A context with a scalar register written. -/
def withY (c : Ctx) (r : BitVec 4) (v : Word) : Ctx := { c with y := c.y.set 0 r.toNat v }
/-- ya + off (R436). -/
def sepalAddr (c : Ctx) (a : BitVec 4) (off : BitVec 14) : Nat := ((yOf c a).toNat + off.toNat) % 2 ^ 32
/-- The address of a VST: ya + off, or ya + yb + off where the device adds what YB names (R434, R436; log 18). -/
def vstAddr (c : Ctx) (a b : BitVec 4) (off : BitVec 14) : Nat :=
  ((yOf c a).toNat + (if Config.vstIndexed then (yOf c b).toNat else 0) + off.toNat) % 2 ^ 32
/-- Payload bytes: those at or beyond LEN read as zero (R436). -/
def payload (p : Packet) (a n : Nat) : List Byte := (List.range n).map (fun i => if a + i < p.len then p.payload.getD (a + i) 0 else 0)
/-- A payload into which bytes have been written: those at or beyond LEN are discarded. -/
def payloadWith (p : Packet) (a : Nat) (b : List Byte) : List Byte :=
  (List.range p.payload.length).map (fun i => if a ≤ i ∧ i < a + b.length ∧ i < p.len then b.getD (i - a) 0 else p.payload.getD i 0)
/-- The four bytes of a word. -/
def wordBytes (v : Word) : List Byte := (List.range 4).map (fun i => BitVec.ofNat 8 (v.toNat / 2 ^ (8 * i)))
/-- The vector words of one lane by their type: i32, f32, two BF16 halves (R437). -/
def laneOp (ty : BitVec 2) (i : Word → Word → Word) (f : Fp.Fmt → Nat → Nat → Nat) (a b : Word) : Word :=
  if ty = 0 then i a b
  else if ty = 1 then BitVec.ofNat 32 (f Fp.f32 a.toNat b.toNat)
  else BitVec.ofNat 32 (f Fp.bf (a.toNat % 2 ^ 16) (b.toNat % 2 ^ 16) + 2 ^ 16 * f Fp.bf (a.toNat / 2 ^ 16) (b.toNat / 2 ^ 16))

end Sys2Proof.Machine.Claims
end

