-- ==== Sys2Proof/Safety/Devices.lean ====
section
/-! DEFINITION. The home agent’s table, page placement and device registers, written out from R48-R80 and R445-R453. -/
open Sys2Proof Sys2Proof.Machine
namespace Sys2Proof.Machine.Claims

/-- A line's metadata when nobody holds it. -/
def idle (m : Meta) : Meta := { poison := m.poison, hint := m.hint }
/-- A line that one die holds alone (R70). -/
def solely (m : Meta) (st : MSt) (d : Nat) : Meta := { idle m with st := st, sharers := 1#4 <<< d, owner := BitVec.ofNat 2 d }
/-- R73's table: a request of die `d`, and the metadata it leaves, from the metadata it finds, whether the owner's copy is dirty, and
whether the die holds the line; none for a request that the table does not list. -/
noncomputable def homeTable (d line : Nat) : List (Instr × (Meta → Bool → Bool → Option Meta)) :=
  let bit : BitVec 4 := 1#4 <<< d
  let rest := fun (m : Meta) => m.sharers &&& ~~~bit
  [(.rds d line, fun m dirty _ => match m.st with
      | .i | .u => some (solely m .e d)
      | .s | .o => some { m with sharers := m.sharers ||| bit }
      | .e | .m => if m.owner.toNat = d then none
        else if m.st = .m ∨ dirty = true then some { m with st := .o, sharers := (1#4 <<< m.owner.toNat) ||| bit }
        else some { m with st := .s, sharers := (1#4 <<< m.owner.toNat) ||| bit, owner := 0 }),
   (.rdx d line, fun m dirty _ => match m.st with
      | .i | .u | .s => some (solely m .e d)
      | .e => if m.owner.toNat = d then none else some (solely m (if dirty then .m else .e) d)
      | .m => if m.owner.toNat = d then none else some (solely m .m d)
      | .o => some (solely m .m d)),
   (.wb d line, fun m _ held => match m.st with
      | .e | .m => if m.owner.toNat = d ∧ held = true then some (idle m) else none
      | .o => if m.owner.toNat = d ∧ held = true then
          some (if rest m = 0 then idle m else { m with st := .s, sharers := rest m, owner := 0 }) else none
      | _ => none),
   (.evc d line, fun m _ _ => if m.sharers.getLsbD d = false then none else match m.st with
      | .s => some (if rest m = 0 then { m with st := .i, sharers := 0 } else { m with sharers := rest m })
      | .e => some (idle m)
      | .o => if m.owner.toNat = d then none
        else some { m with st := if rest m = 1#4 <<< m.owner.toNat then .m else .o, sharers := rest m }
      | _ => none)] ++
  [0, 1, 2, 3, 4].map (fun u => (.redu d line (redOfUop u), fun m _ _ => match m.st with
    | .e | .m | .o => none
    | _ => some { idle m with
        st := .u
        uop := BitVec.ofNat 3 u
        sharers := if m.st = .u ∧ m.uop.toNat = u then m.sharers ||| bit else bit }))
/-- A die's slice holds a line, or has a way free for it among the 16 of its set (R55, R64). -/
def SliceFits (s : State) (d line : Nat) : Prop := (s.slice? d line).isSome = true ∨ (s.setLines d line).length < 16
/-- The slice of a die that takes a line is fenced (R453): an L2 slice on the line's home die, an RDC slice elsewhere (R64). -/
def Fenced (s : State) (d line : Nat) : Prop := (d != homeDie line, d, sliceNo line) ∈ s.fencedSlices
/-- A line of which nobody holds a copy and whose metadata word says so. -/
def Unheld (s : State) (line : Nat) : Prop :=
  metaValid (Tbl.get 0 s.metas line) = true ∧ (s.lineMeta line).st = .i ∧ ∀ d, d < 4 → s.slice? d line = none
/-- A die that MIGRATE may choose (R48, row 2). -/
def migTarget (s : State) (c : RegionCount) (home d : Nat) : Prop :=
  let t := (s.greg .plcthr).toNat
  let n := fun (i : Nat) => c.rd.getD i 0 + c.wr.getD i 0
  d < 4 ∧ d ≠ home / 2 ∧ t / 2 ^ 8 % 2 ^ 16 ≤ n d ∧ 4 * ((List.range 4).map (fun i => if i = d then 0 else n i)).sum ≤ n d ∧
  t / 2 ^ 40 % 2 ^ 16 ≤ s.freeFrames (2 * d) + s.freeFrames (2 * d + 1)
/-- A die that REPLICATE may choose (R48, row 3). -/
def repTarget (s : State) (c : RegionCount) (home d : Nat) : Prop :=
  let t := (s.greg .plcthr).toNat
  d < 4 ∧ d ≠ home / 2 ∧ t / 2 ^ 24 % 2 ^ 16 ≤ c.rd.getD d 0 ∧ t / 2 ^ 40 % 2 ^ 16 ≤ s.freeFrames (2 * d) + s.freeFrames (2 * d + 1)
/-- The entries of a region once it has moved to frames from `f` on: MIG clear, every other bit but FRAME kept (R49). -/
def movedTo (es : List DWord) (f : Nat) : List DWord :=
  (List.range 16).map (fun i => (es.getD i 0 &&& ~~~(0x000FFFFFFFFFF200 : DWord)) ||| BitVec.ofNat 64 ((f + i) * 4096))
/-- Bits of a value outside a field are zero. -/
def only (v : DWord) (mask : DWord) : Prop := v &&& ~~~mask = 0
/-- The writes of registers of the global block that have a row of their own: the register, the value it takes, and R445's
condition on it. -/
noncomputable def registerWrites (s : State) (v : DWord) (w : Word) (n : Nat) : List (Instr × GReg × DWord × Prop) :=
  let idle := s.greg (.qtail n) = s.greg (.qhead n)
  let frame := (s.greg (.frameidx n)).toNat
  let back := (s.greg (.retidx n)).toNat
  let ringOf := fun (size : Nat) => only v 0x000FFFFFFFFFF00F ∧ (v.toNat % 16 = 0 ∨
    (4 ≤ v.toNat % 16 ∧ v.toNat % 16 ≤ 12 ∧ (v.toNat / 4096 % 2 ^ 40 * 4096) % (size * 2 ^ (v.toNat % 16)) = 0))
  let area := fun (r : GReg) => only v 0x000FFFFFFFFFFFFF ∧ ((s.greg r).toNat % 2 ^ 16 = 0 ∨
    (v.toNat / 2 ^ 16 % 2 ^ 36 = (s.greg r).toNat / 2 ^ 16 % 2 ^ 36 ∧ (s.greg r).toNat % 2 ^ 16 ≤ v.toNat % 2 ^ 16))
  [(.qcfgWrite n v, .qcfg n, v, n < 8192 ∧ only v 0x0FFFF1FF ∧ v.toNat / 4 % 128 ≤ 96 ∧
      (v.getLsbD 0 = true → 4 ≤ v.toNat / 2 ^ 24 % 16 ∧ v.toNat / 2 ^ 24 % 16 ≤ 12) ∧ idle),
   (.qbaseWrite n v, .qbase n, v, n < 8192 ∧ only v 0x000FFFFFFFFFFF00 ∧ idle),
   (.ctxbaseWrite v, .ctxbase, v, only v 0x000FFFFFFFFC0000 ∧ ∀ e ∈ s.gregs, ∀ q, e.1 = .qcfg q → e.2.getLsbD 0 = false),
   (.fweightWrite n v, .fweight n, v, n ≤ 96 ∧ 1 ≤ v.toNat ∧ v.toNat ≤ 255),
   (.c0resWrite v, .c0res, v, v.toNat ≤ 64),
   (.timerWrite n v, .timer n, v, n ≤ 2 ∧ (if n = 2 then 1000 ≤ v.toNat ∧ v.toNat ≤ 60000000 else 1 ≤ v.toNat ∧ v.toNat ≤ 1000000)),
   (.frameidxWrite n w, .frameidx n, BitVec.ofNat 64 (frame / 2 ^ 32 * 2 ^ 32 + w.toNat), n < 8),
   (.retidxWrite n w, .retidx n, BitVec.ofNat 64 (w.toNat * 2 ^ 32 + back % 2 ^ 32), n < 8),
   (.ringRegisterWrite (.framepool n) v, .framepool n, v,
      n < 8 ∧ ringOf 8 ∧ (frame % 2 ^ 32 = frame / 2 ^ 32 ∨ v = s.greg (.framepool n))),
   (.ringRegisterWrite (.frameret n) v, .frameret n, v,
      n < 8 ∧ ringOf 8 ∧ (back % 2 ^ 32 = back / 2 ^ 32 ∨ v = s.greg (.frameret n))),
   (.areaRegisterWrite (.spill n) v, .spill n, v, n < 8 ∧ area (.spill n)), (.areaRegisterWrite (.lkovf n) v, .lkovf n, v, n < 8 ∧ area (.lkovf n)),
   (.areaRegisterWrite .savepool v, .savepool, v, area .savepool), (.areaRegisterWrite .collpool v, .collpool, v, area .collpool),
   (.registerWrite .global 0x08 v, .peerid, v, v.toNat < 1024), (.registerWrite .global 0x10 v, .expbase, v, only v 0x000FFFFFFFFFFFE0),
   (.registerWrite .global 0x18 v, .expcount, v, v.toNat ≤ 4096), (.registerWrite .global 0x40 v, .rtimeout, v, 10 ≤ v.toNat ∧ v.toNat ≤ 10000),
   (.registerWrite .global 0x48 v, .plcthr, v, only v 0x00FFFFFFFFFFFFFF), (.registerWrite .global 0x50 v, .regwerr, v, v = 0),
   (.registerWrite .global 0x58 v, .lkcfgerr, v, v = 0), (.registerWrite .global 0x3010 v, .collcnt, v, only v 0x00FFFFFF)]
/-- The writes of ring registers of a function page, with their counters and their entries' bytes (R446, R447). -/
noncomputable def pageRings (f : Nat) (v : DWord) : List (Instr × FReg × FReg × FReg × Nat) :=
  [(.ringRegisterWrite (.invq f) v, .invq, .invtail, .invhead, 32), (.ringRegisterWrite (.fq f) v, .fq, .fqtail, .fqhead, 64),
   (.ringRegisterWrite (.pfq f) v, .pfq, .pfqtail, .pfqhead, 64)]
/-- Every device register as R445 resets it, memory empty, and the keeper waiting; what the outside and the model's counters hold
stays. -/
def ColdState (s u : State) : Prop :=
  u = { State.reset with hostMem := s.hostMem, tick := s.tick, fresh := s.fresh, agenda := s.agenda, linksDown := s.linksDown }

end Sys2Proof.Machine.Claims
end

