-- ==== Sys2Proof/Certificates/Slice0/Obligations.lean ====
section
/-! DEFINITION. The statements for the provers. Each docstring names the rules of spec/ it formalises. -/

open Sys2Proof Sys2Proof.Machine Sys2Proof.Machine.Claims

/-- R254: every .b32 word of major 0x01 writes its row's res, modulo 2^32, to D of each lane of the issue, in any chaining; it marks
the last uses its LA and LB name (R234) and changes nothing else. -/
def Obligations.IntegerArithmetic32 : Prop :=
  ∀ e ∈ arith32, ∀ (f : FmtR) (s : State) (ls : List ThreadRef), Gang s ls → Does (e.word f) s ls (e.effect f s)

/-- R254: every .b64 word of major 0x02 writes its row's res, modulo 2^64, to the pair D, and changes nothing else. -/
def Obligations.IntegerArithmetic64 : Prop :=
  ∀ e ∈ arith64, ∀ (f : FmtR) (s : State) (ls : List ThreadRef), Gang s ls → Does (e.word f) s ls (e.effect f s)

/-- R256: the bitwise words and the shifts by a register, at both widths; the amount is the low register of B. R257: the shifts by an
immediate, at the width WD names, by the rows of R256 with the same n. R258 and R259: counts, bit reversal, bit fields and the
byte permute. -/
def Obligations.LogicShiftsAndBits : Prop :=
  ((∀ e ∈ logic32, ∀ (f : FmtR) (s : State) (ls : List ThreadRef), Gang s ls → Does (e.word f) s ls (e.effect f s)) ∧
  (∀ e ∈ logic64, ∀ (f : FmtR) (s : State) (ls : List ThreadRef), Gang s ls → Does (e.word f) s ls (e.effect f s))) ∧
  (∀ e ∈ shifts, ∀ (f : FmtSh) (s : State) (ls : List ThreadRef), Gang s ls → Does (e.word f) s ls (e.effect f s)) ∧
  ((∀ e ∈ bits32, ∀ (f : FmtR) (s : State) (ls : List ThreadRef), Gang s ls → Does (e.word f) s ls (e.effect f s)) ∧
  (∀ e ∈ bits64, ∀ (f : FmtR) (s : State) (ls : List ThreadRef), Gang s ls → Does (e.word f) s ls (e.effect f s)) ∧
  (∀ e ∈ counts64, ∀ (f : FmtR) (s : State) (ls : List ThreadRef), Gang s ls → Does (e.word f) s ls (e.effect f s)))

/-- R260, R265 and R266: the moves, SEL, the I-format immediates and the L-format constants. -/
def Obligations.MovesAndImmediates : Prop :=
  (∀ (f : FmtR) (s : State) (ls : List ThreadRef), Gang s ls →
    Does (.movB32 f) s ls (fun t th => (th.useRuns (lastUses f 1 false)).setG f.d.toNat (s.readG t f.a.toNat))) ∧
  (∀ (f : FmtR) (s : State) (ls : List ThreadRef), Gang s ls →
    Does (.movB64 f) s ls (fun t th =>
      (th.useRuns (lastUses f 2 false)).setRun f.d.toNat (wordsOf (s.readPair t f.a.toNat)))) ∧
  (∀ (f : FmtR) (n : BitVec 3) (s : State) (ls : List ThreadRef), Gang s ls →
    Does (.selB32 f n) s ls (fun t th => (th.useRuns (lastUses f 1 true)).setG f.d.toNat
      (if s.readF t n.toNat then s.readG t f.a.toNat else s.readG t f.b.toNat))) ∧
  (∀ e ∈ immediates, ∀ (f : FmtI) (s : State) (ls : List ThreadRef), Gang s ls →
    Does (e.1 f) s ls (fun t th =>
      (th.useRuns (mark f.la [(f.a.toNat, 1)])).setG f.d.toNat (e.2 (s.readG t f.a.toNat) f.imm))) ∧
  (∀ (f : FmtI) (s : State) (ls : List ThreadRef), Gang s ls →
    Does (.addiB64 f) s ls (fun t th => (th.useRuns (mark f.la [(f.a.toNat, 2)])).setRun f.d.toNat
      (wordsOf (wrap 64 (u (s.readPair t f.a.toNat) + f.imm.toInt))))) ∧
  (∀ e ∈ constants, ∀ (f : FmtL) (s : State) (ls : List ThreadRef), Gang s ls →
    Does (e.1 f) s ls (fun t th => th.setG f.d.toNat (e.2 (s.readG t f.d.toNat) f.imm)))

/-- R262, R263 and R264: CMP and CMPI write 1 to fd exactly where their condition holds, and the words of major 0x08 compute on flags;
a write to f7 is discarded. -/
def Obligations.ComparesAndFlags : Prop :=
  (∀ (f : FmtF) (s : State) (ls : List ThreadRef), f.cc.toNat < 6 → f.ty.toNat < 4 → Gang s ls →
    let n := if 2 ≤ f.ty.toNat then 2 else 1
    Does (.cmp f) s ls (fun t th =>
      withFlag (th.useRuns (mark f.la [(f.a.toNat, n)] ++ mark f.lb [(f.b.toNat, n)])) f.fd.toNat
        (holds f.cc.toNat (operand s t f.ty.toNat f.a.toNat) (operand s t f.ty.toNat f.b.toNat)))) ∧
  (∀ (f : FmtI) (s : State) (ls : List ThreadRef), Gang s ls →
    Does (.cmpi f) s ls (fun t th =>
      let a := s.readG t f.a.toNat
      let cc := f.d.toNat % 8
      withFlag (th.useRuns (mark f.la [(f.a.toNat, 1)])) (f.d.toNat / 8)
        (if cc = 6 then holds 2 (u a) (u (wrap 32 f.imm.toInt))
         else if cc = 7 then holds 5 (u a) (u (wrap 32 f.imm.toInt))
         else holds cc a.toInt f.imm.toInt))) ∧
  (∀ e ∈ flagWords, ∀ (f : FmtR) (s : State) (ls : List ThreadRef), Gang s ls →
    Does (e.1 f) s ls (fun t th =>
      withFlag th (f.d.toNat % 8) (e.2 (s.readF t (f.a.toNat % 8)) (s.readF t (f.b.toNat % 8))))) ∧
  (∀ (f : FmtR) (s : State) (ls : List ThreadRef), Gang s ls →
    Does (.fSet f) s ls (fun t th =>
      withFlag (th.useRuns (lastUses f 1 false)) (f.d.toNat % 8) (decide (s.readG t f.a.toNat ≠ 0)))) ∧
  (∀ (f : FmtR) (s : State) (ls : List ThreadRef), Gang s ls →
    Does (.fGet f) s ls (fun t th => th.setG f.d.toNat (if s.readF t (f.a.toNat % 8) then 1 else 0)))

/-- R182, R188 to R191, R194, R313 to R319: each floating-point word writes the result of its operation, sets the flags of that
result in FCR and no other bit of FCR; the modes come from FCR.RM, or from the mnemonic. The results of add, subtract, multiply,
fused multiply-add, divide, reciprocal and square root are the exact value rounded once, nearest with ties to the even significand
or in the mode's direction, or R194's row where it overflows after rounding; NX says whether rounding changed it, UF whether it is
tiny after rounding as well; a division of a number by zero gives an infinity and DZ, infinities what R191 and their entries say;
FRSQ is rounded to nearest; FRND gives the integral value of its mode, FMIN and FMAX the smaller and the larger operand. DOT4 adds
its products exactly and rounds once, as a matrix step does. For FEXP2, FLOG2, FSIN and FCOS it says only that they give what the
model's fixed-point series give: their last place is the model's choice (log 19). A variable-latency result is queued with its
thread (log 5). -/
def Obligations.FloatWords : Prop :=
  ((∀ e ∈ floats32, ∀ (f : FmtR) (s : State) (ls : List ThreadRef), Gang s ls → Does (e.word f) s ls (e.effect32 f s)) ∧
  (∀ e ∈ floats64, ∀ (f : FmtR) (s : State) (ls : List ThreadRef), Gang s ls → Does (e.word f) s ls (e.effect64 f s))) ∧
  (∀ F ∈ [Fp.f32, Fp.f64, Fp.h16, Fp.bf], ∀ (m : Fp.Mode) (a b : Nat),
    (F.val a).isNan = true ∨ (F.val b).isNan = true →
    ∀ op ∈ [fpAdd F, fpSub F, fpMul F, fpDiv F],
      op m 0 a b = { bits := F.cnan, flags := if (F.val a).isSnan || (F.val b).isSnan then Fp.NV else 0 }) ∧
  (∀ F ∈ [Fp.f32, Fp.f64, Fp.h16, Fp.bf], ∀ (m : Fp.Mode) (a b d : Nat), IsNumber F a → IsNumber F b → IsNumber F d →
    Exactly F m (real F a + real F b) (fpAdd F m d a b) ∧ Exactly F m (real F a - real F b) (fpSub F m d a b) ∧
    Exactly F m (real F a * real F b) (fpMul F m d a b) ∧ Exactly F m (real F a * real F b + real F d) (fpFma F m d a b) ∧
    (real F b ≠ 0 → Exactly F m (real F a / real F b) (fpDiv F m d a b)) ∧
    (real F a ≠ 0 → Exactly F m (1 / real F a) (fpRcp F m d a b)) ∧
    (0 ≤ real F a → Exactly F m (Real.sqrt (real F a)) (fpSqrt F m d a b)) ∧
    (0 < real F a → Exactly F .rn (1 / Real.sqrt (real F a)) (Fp.rsqrt F (F.val a))) ∧
    (∃ n : ℤ, RoundsInt m (real F a) n ∧ IsNumber F (fpRnd F m m d a b).bits ∧ real F (fpRnd F m m d a b).bits = n ∧
      ((fpRnd F m m d a b).flags.getLsbD 0 = true ↔ (n : ℝ) ≠ real F a)) ∧
    (let x := (fpMin F m d a b).bits
     let y := (fpMax F m d a b).bits
     (x = a ∨ x = b) ∧ (y = a ∨ y = b) ∧ real F x = min (real F a) (real F b) ∧ real F y = max (real F a) (real F b))) ∧
  (∀ F ∈ [Fp.f32, Fp.f64, Fp.h16, Fp.bf], ∀ (m : Fp.Mode) (a b d : Nat), IsNumber F a → IsNumber F b →
    let sign := signBit F a != signBit F b
    (real F b = 0 → fpDiv F m d a b = if real F a = 0 then invalid F else { infinity F sign with flags := 0b01000 }) ∧
    (real F a = 0 → fpRcp F m d a b = { infinity F (signBit F a) with flags := 0b01000 } ∧
      fpSqrt F m d a b = zeroOf F (signBit F a) ∧ Fp.rsqrt F (F.val a) = infinity F (signBit F a) ∧
      (F = Fp.f32 → Fp.log2 (F.val a) = { infinity F true with flags := 0b01000 })) ∧
    (real F a < 0 → fpSqrt F m d a b = invalid F ∧ Fp.rsqrt F (F.val a) = invalid F)) ∧
  (∀ F ∈ [Fp.f32, Fp.f64, Fp.h16, Fp.bf], ∀ (m : Fp.Mode) (a b d : Nat), IsInf F a →
    let s := signBit F a
    let sign := s != signBit F b
    (IsNumber F b → fpAdd F m d a b = infinity F s ∧ fpAdd F m d b a = infinity F s ∧ fpSub F m d a b = infinity F s ∧
      fpSub F m d b a = infinity F (!s) ∧ fpDiv F m d a b = infinity F sign ∧ fpDiv F m d b a = zeroOf F sign ∧
      (real F b = 0 → fpMul F m d a b = invalid F ∧ fpMul F m d b a = invalid F ∧ (IsNumber F d ∨ IsInf F d → fpFma F m d a b = invalid F)) ∧
      (real F b ≠ 0 → fpMul F m d a b = infinity F sign ∧ fpMul F m d b a = infinity F sign ∧
        (IsNumber F d → fpFma F m d a b = infinity F sign ∧ fpFma F m d b a = infinity F sign) ∧
        (IsInf F d → fpFma F m d a b = if signBit F d = sign then infinity F sign else invalid F)) ∧
      ∀ c, IsNumber F c → fpFma F m a b c = infinity F s) ∧
    (IsInf F b → fpMul F m d a b = infinity F sign ∧ fpDiv F m d a b = invalid F ∧
      fpAdd F m d a b = (if sign then invalid F else infinity F s) ∧ fpSub F m d a b = (if sign then infinity F s else invalid F)) ∧
    fpRcp F m d a b = zeroOf F s ∧ fpSqrt F m d a b = (if s then invalid F else infinity F false) ∧
    Fp.rsqrt F (F.val a) = (if s then invalid F else zeroOf F false))

/-- R320 to R323, R192, R194: FCLASS, FCMP and CVT. FCLASS writes the bit that the fields of its operand name, and sets no flag. FCMP
compares the values of its operands, infinities among them; with a NaN the pair is unordered; it sets no flag but NV. CVT rounds the
exact value under its RM field, saturates an integer with NV, and gives R194's row on an overflow or an infinity, but for an infinity
in a wider format, which is exact. -/
def Obligations.ClassifyCompareConvert : Prop :=
  (∀ (f : FmtR) (s : State) (ls : List ThreadRef), Gang s ls →
    Does (.fclassF32 f) s ls (fun t th => withResult (th.useRuns (lastUses f 1 false)) true f.d.toNat
      [BitVec.ofNat 32 (Fp.classify Fp.f32 (s.readG t f.a.toNat).toNat)])) ∧
  (∀ (f : FmtR) (s : State) (ls : List ThreadRef), Gang s ls →
    Does (.fclassF64 f) s ls (fun t th => withResult (th.useRuns (lastUses f 2 false)) true f.d.toNat
      [BitVec.ofNat 32 (Fp.classify Fp.f64 (s.readPair t f.a.toNat).toNat)])) ∧
  (∀ (f : FmtF) (s : State) (ls : List ThreadRef), Gang s ls →
    let n := if f.ty = 5 then 2 else 1
    let F := fcmpFmt f.ty.toNat
    Does (.fcmp f) s ls (fun t th =>
      let v := fcmpHolds F f.cc.toNat (cellValue s t n f.a.toNat % 2 ^ F.width) (cellValue s t n f.b.toNat % 2 ^ F.width)
      withFlag (withFlags (th.useRuns (mark f.la [(f.a.toNat, n)] ++ mark f.lb [(f.b.toNat, n)]))
        (if v.2 then Fp.NV else 0)) f.fd.toNat v.1)) ∧
  (∀ (f : FmtC) (s : State) (ls : List ThreadRef), Gang s ls →
    Does (.cvt f) s ls (fun t th =>
      let src := tyOf f.from_
      let r := Fp.convert (tyOf f.to_) src (Fp.Mode.ofCode f.rm.toNat)
        (cellValue s t (if src.width = 64 then 2 else 1) f.a.toNat % 2 ^ src.width)
      (withFlags (th.useRuns (mark f.la [(f.a.toNat, tyRegs f.from_)])) r.flags).setRun f.d.toNat (cvtWords (tyOf f.to_) r.bits))) ∧
  (∀ F ∈ [Fp.f32, Fp.f64], ∀ x < 2 ^ F.width, Fp.classify F x = 2 ^ classBit F x) ∧
  (∀ F ∈ [Fp.f32, Fp.f64, Fp.h16, Fp.bf], ∀ a b : Nat,
    let nan := fun (x : Nat) => ¬IsNumber F x ∧ ¬IsInf F x
    let signalling := fun (x : Nat) => nan x ∧ fracField F x / 2 ^ (F.fb - 1) = 0
    a < 2 ^ F.width → b < 2 ^ F.width → ∀ cc < 8,
      let r := fcmpHolds F cc a b
      (¬nan a → ¬nan b → r.2 = false ∧ (r.1 = true ↔
        [extended F a = extended F b, extended F a ≠ extended F b, extended F a < extended F b, extended F a ≤ extended F b,
          extended F b < extended F a, extended F b ≤ extended F a, False, True].getD cc False)) ∧
      (nan a ∨ nan b → (r.1 = true ↔ cc = 1 ∨ cc = 6) ∧ (r.2 = true ↔ (2 ≤ cc ∧ cc ≤ 5) ∨ signalling a ∨ signalling b))) ∧
  (∀ F ∈ formats, ∀ G ∈ formats, ∀ (m : Fp.Mode) (x : Nat),
    let r := Fp.convert (.flt F) (.flt G) m x
    (IsNumber G x → F ≠ G → Exactly F m (real G x) r) ∧ (IsNumber G x → F = G → r = { bits := x }) ∧
    (IsInf G x → F ≠ G → r.bits = overflows F (if G.width < F.width then .rn else m) (signBit G x)) ∧
    (x < 2 ^ G.width → ¬IsNumber G x → ¬IsInf G x → r.bits = F.cnan ∧ (r.flags = 0 ∨ r.flags = 0b10000))) ∧
  (∀ F ∈ formats, ∀ I ∈ intTypes, ∀ (m : Fp.Mode) (x : Nat),
    (x < 2 ^ I.w → Exactly F m (intOf I x) (Fp.convert (.flt F) (.int I) m x)) ∧
    (IsNumber F x → ∃ n : ℤ, RoundsInt m (real F x) n ∧ ∃ b : Bool, (b = true ↔ (n : ℝ) ≠ real F x) ∧
      Fp.convert (.int I) (.flt F) m x = saturated I n b) ∧
    (IsInf F x → Fp.convert (.int I) (.flt F) m x =
      saturated I (if signBit F x then -(2 ^ 64) else 2 ^ 64) false) ∧
    (x < 2 ^ F.width → ¬IsNumber F x → ¬IsInf F x → Fp.convert (.int I) (.flt F) m x = { bits := 0, flags := 0b10000 })) ∧
  (∀ I ∈ intTypes, ∀ J ∈ intTypes, ∀ (m : Fp.Mode) (x : Nat), x < 2 ^ J.w →
    Fp.convert (.int I) (.int J) m x = saturated I (intOf J x) false)

/-- R324: a block word computes every element from the registers as they stood and writes them all; the flags are their union. -/
def Obligations.BlockWords : Prop :=
  ∀ e ∈ blocks, ∀ (f : FmtX) (s : State) (ls : List ThreadRef), Gang s ls → Does (e.word f) s ls (e.effect f s)

/-- R273: BRA goes to the target its packet and OFF give where its flag, inverted by N, is 1, else to the next word; CALL links the
next packet in g60:g61, opens a region at the target and goes there. R274: JMPR, CALLR and RET to an address that is a multiple of
12, read before the link is written. R274: the same words with a target that is no packet start trap ALIGN with VA the target, and
no link is written. -/
def Obligations.Branches : Prop :=
  (∀ (f : FmtJ) (s : State) (ls : List ThreadRef), Gang s ls →
    let target := fun (t : ThreadRef) => packetOf (s.thread t).pc + 12 * f.off.signExtend 64
    Makes (.bra f) s ls (fun t th =>
      if (s.readF t f.f.toNat ^^ f.n) = true then { th with pc := target t, jumped := true } else { th with pc := th.pc + 4 }) ∧
    Makes (.call f) s ls (fun t th =>
      { (th.setRun 60 (wordsOf (packetOf (s.thread t).pc + 12))).open_ (target t) with pc := target t, jumped := true })) ∧
  (∀ (f : FmtS) (s : State) (ls : List ThreadRef), Gang s ls → (∀ t ∈ ls, (s.readPair t f.a.toNat).toNat % 12 = 0) →
    let target := fun (t : ThreadRef) => s.readPair t f.a.toNat
    Makes (.jmpr f) s ls (fun t th => { th with pc := target t, jumped := true }) ∧
    Makes (.callr f) s ls (fun t th =>
      { (th.setRun f.d.toNat (wordsOf (packetOf (s.thread t).pc + 12))).open_ (target t) with pc := target t, jumped := true }) ∧
    Makes (.ret f) s ls (fun t th => { th.open_ (target t) with pc := target t, jumped := true })) ∧
  (∀ (f : FmtS) (s : State) (t : ThreadRef) (th : Thread), Lone s t th → s.collect = none →
    (s.readPair t f.a.toNat).toNat % 12 ≠ 0 →
    ∀ i ∈ [Instr.jmpr f, .callr f, .ret f],
      exec i s = .next (s.takeTrap t { code := 2, sub := 0, va := s.readPair t f.a.toNat }))

/-- R275, R277, R388 and NOP: REGION opens a region at the next word; YIELD withdraws the thread, and its place in the picker's order
is then that of a thread that has just become ready; NOP goes on. YIELD_EXPIRE ends the withdrawal; a CTL word of the same group may
have left the thread in a wait of its own, which then follows (log 27). -/
def Obligations.RegionsAndYield : Prop :=
  (∀ (f : FmtN) (s : State) (ls : List ThreadRef), Gang s ls → Does (.nop f) s ls (fun _ th => th)) ∧
  (∀ (f : FmtS) (s : State) (ls : List ThreadRef), Gang s ls →
    Does (.region f) s ls (fun _ th => { th with
      regionPc := th.pc + 4, liveIn := ~~~th.dead, regionRm := th.fcr.truncate 2, boundary := true })) ∧
  (∀ (f : FmtS) (s : State) (ls : List ThreadRef), Gang s ls →
    Does (.yield f) s ls (fun _ th => { th with status := .yielded, since := s.tick })) ∧
  (∀ (s : State) (t : ThreadRef) (th : Thread), s.threads.find? (tkey t) = some th → th.status = .yielded →
    ∃ v, exec (.yieldExpire t) s = .next v ∧
      v.threads.find? (tkey t) = some { th with status := th.second.getD .ready, since := s.tick, second := none } ∧
      (∀ k, k ≠ tkey t → v.threads.find? k = s.threads.find? k) ∧
      v = { s with threads := v.threads, gates := s.gates.erase (s.petalOf t) })

/-- R279: SRD writes the register its number names to D; a number above 0x17 traps ILLEGAL SREG. R280: SWR writes FCR, or a half
of the task's TRAPBASE; another number, a reserved bit of FCR (RM 4 or more is one), or a bit [31:24] of TRAPBASEHI traps ILLEGAL
SREG and changes no register. The count of CLOCKLO and CLOCKHI is a free value of the model's (log 3). -/
def Obligations.SpecialRegisters : Prop :=
  ((∀ e ∈ specials, ∀ (f : FmtS) (s : State) (ls : List ThreadRef), f.arg.toNat = e.1 → Gang s ls →
    Does (.srd f) s ls (fun t th => th.setG f.d.toNat (e.2 s t))) ∧
  (∀ (f : FmtS) (s : State) (t : ThreadRef) (th : Thread), 0x17 < f.arg.toNat → Lone s t th → s.collect = none →
    exec (.srd f) s = .next (s.takeTrap t { code := 1, sub := 14, va := th.pc }))) ∧
  ((∀ (f : FmtS) (s : State) (ls : List ThreadRef), f.arg = 0x10 → Gang s ls →
    (∀ t ∈ ls, s.readG t f.a.toNat &&& 0xFFFFE0FC = 0) →
    Does (.swr f) s ls (fun t th => { th with fcr := s.readG t f.a.toNat })) ∧
  (∀ (f : FmtS) (s : State) (t : ThreadRef) (th : Thread), Lone s t th →
    let v := s.readG t f.a.toNat
    let stops := exec (.swr f) s = .next (s.takeTrap t { code := 1, sub := 14, va := th.pc })
    (f.arg = 0x11 → exec (.swr f) s = .next ((s.modTask t.task (fun k => { k with trapLo := v })).advance t)) ∧
    (f.arg = 0x12 → v.toNat < 2 ^ 24 →
      exec (.swr f) s = .next ((s.modTask t.task (fun k => { k with trapHi := v })).advance t)) ∧
    (f.arg = 0x12 → 2 ^ 24 ≤ v.toNat → s.collect = none → stops) ∧
    (f.arg = 0x10 → v &&& 0xFFFFE0FC ≠ 0 → s.collect = none → stops) ∧
    (f.arg ≠ 0x10 → f.arg ≠ 0x11 → f.arg ≠ 0x12 → s.collect = none → stops)))

/-- R278, R385, R376, R377: TRAP and BKPT raise SOFT, with SUB n and 256 + n, and their thread enters its handler: it alone changes,
but for the caches that the check of the handler's fetch has filled and its petal's gate. R376, R377: a trap of a lane that runs
outside its handler makes it enter the handler at once, or, for CORRUPT, DEADREG and PENDING, park until the rest of its task is
at rest. A handler that cannot be entered, or a trap inside the handler, ends the task: the thread does not run on (R377 to R379). -/
def Obligations.TrapsEnterHandlers : Prop :=
  (∀ e ∈ ([(Instr.trap, 0), (Instr.bkpt, 256)] : List ((FmtS → Instr) × Nat)),
  ∀ (f : FmtS) (s s1 : State) (t : ThreadRef) (th : Thread), Lone s t th → s.collect = none → th.handler = false →
    (s.task t.task).trapBase ≠ 0 → (s.task t.task).trapBase % 12 = 0 → s.fetchable t (s.task t.task).trapBase = (true, s1) →
    exec (e.1 f) s = .next { s1 with
      threads := s.threads.modify (tkey t)
        (handled s t (recordAt s t { code := 14, sub := e.2 + f.arg.toNat }) s.tick)
      gates := s.gates.erase (s.petalOf t) } ∧ s1.still = s.still) ∧
  (∀ (i : TrapInfo) (s s1 : State) (t : ThreadRef) (th : Thread), s.threads.find? (tkey t) = some th → th.status = .ready →
    let base := (s.task t.task).trapBase
    (th.handler = false → i.code ∈ [8, 15, 16] →
      s.takeTrap t i = s.modThread t (fun th => { th with status := .parked (.deferred i) })) ∧
    (th.handler = false → i.code ∉ [8, 15, 16] → base ≠ 0 → base % 12 = 0 → s.fetchable t base = (true, s1) →
      s.takeTrap t i = { s1 with
        threads := s.threads.modify (tkey t) (handled s t (recordAt s t i) s.tick)
        gates := s.gates.erase (s.petalOf t) }) ∧
    (th.ref = t → s.locks = [] → (th.handler = true ∨ (i.code ∉ [8, 15, 16] ∧ (base = 0 ∨ base % 12 ≠ 0))) →
      ((s.takeTrap t i).thread t).status = .ended))

/-- R382, R383: RTE leaves handler mode and opens a region at the address it goes to: REGIONPC of the trap record for RTE.restart;
for RTE.next the record's PC after a STORE or WOUND, else the first word after the issue group that holds it. R384: FLTRD writes
the field its number names of the thread's trap record, zero before its first trap. That RTE.next goes past the whole issue group
is the model's reading (log 28). -/
def Obligations.HandlerReturn : Prop :=
  (∀ (f : FmtSA) (s : State) (t : ThreadRef) (th : Thread), Lone s t th → th.handler = true →
    let goes := fun (a : DWord) => Host.Outcome.next (s.modThread t (fun th =>
      { th with handler := false, pc := a, regionPc := a, liveIn := ~~~th.dead, regionRm := th.fcr.truncate 2, boundary := true,
                jumped := true }))
    exec (.rteRestart f) s = goes th.trapRec.regionPc ∧
    (th.trapRec.code ∈ [9, 10] → exec (.rteNext f) s = goes th.trapRec.pc) ∧
    (∀ (ws : List Word) (s1 : State), th.trapRec.code ∉ [9, 10] → s.fetchPacket t (packetOf th.trapRec.pc) = .ok ws s1 →
      exec (.rteNext f) s = goes (groupEnd th.trapRec.pc (groupAt th.trapRec.pc ws)))) ∧
  (∀ (f : FmtS) (s : State) (ls : List ThreadRef), f.arg.toNat < 12 → Gang s ls →
    Does (.fltrd f) s ls (fun t th =>
      let r := (s.thread t).trapRec
      let w := fun (n : Nat) => BitVec.ofNat 32 n
      let high := fun (a : DWord) => w (a.toNat % 2 ^ 56 / 2 ^ 32)
      th.setG f.d.toNat ([w r.code, w (r.sub % 65536), r.va.truncate 32, high r.va, r.pc.truncate 32, r.regionPc.truncate 32,
        w r.tid, w r.task, w r.peer,
        w ((if r.precise then 1 else 0) + (if r.exited then 2 else 0) + (if r.recoverable then 4 else 0) + (if r.killed then 8 else 0)),
        high r.pc, high r.regionPc].getD f.arg.toNat 0)))

/-- R383: RTE outside handler mode raises ILLEGAL, subcode 15. -/
def Obligations.ReturnOutsideHandler : Prop :=
  ∀ (f : FmtSA) (s : State) (t : ThreadRef) (th : Thread), Lone s t th → s.collect = none → th.handler = false →
    ∀ i ∈ [Instr.rteRestart f, .rteNext f], exec i s = .next (s.takeTrap t { code := 1, sub := 15, va := th.pc })

/-- R267, R208: a mask word writes kd for the lanes that hold threads and releases the WAITKs of a mask that is then 0; MGETG reads
one; MALL's value has the bit of every thread of the posy that has not ended. R207: a write to a mask whose phase is open traps
ILLEGAL MASK, and the mask is unchanged by it. R178, R268: in an issue of several lanes each lane writes or traps in its turn, with
the source masks as they stood before the issue, so that MSELF joins every issuer's bit and MSETG keeps the last lane's register;
the mask is tested once, at the end, for each lane's posy. -/
def Obligations.MaskRegisters : Prop :=
  ((∀ e ∈ maskWords, ∀ (f : FmtK) (s : State) (t : ThreadRef) (th : Thread) (k : Task), Lone s t th →
    s.tasks.find? t.task = some k → (s.phase t f.kd.toNat).arrived = 0 →
    let v := e.2 f s t &&& posyLanes k.threads (t.tid / 32)
    let u := (s.modTask t.task (fun k => { k with masks := k.masks.set 0 (12 * (t.tid / 32) + f.kd.toNat) v })).advance t
    u.readK t f.kd.toNat = v ∧
    exec (e.1 f) s = .next (if v = 0 then u.releaseWaitk t f.kd.toNat else u)) ∧
  (∀ (s : State) (t : ThreadRef) (i : Nat), i < 32 →
    ((s.liveLanes t).getLsbD i = true ↔ ∃ th ∈ s.liveOf t.task, posyOf th.ref = posyOf t ∧ th.tid % 32 = i)) ∧
  (∀ (f : FmtK) (s : State) (ls : List ThreadRef), Gang s ls →
    Does (.mgetg f) s ls (fun t th => th.setG f.g.toNat (s.readK t f.ka.toNat)))) ∧
  (∀ e ∈ maskWords, ∀ (f : FmtK) (s : State) (t : ThreadRef) (th : Thread), Lone s t th → s.collect = none →
    (s.phase t f.kd.toNat).arrived ≠ 0 →
    exec (e.1 f) s = .next ((s.takeTrap t { code := 1, sub := 11, va := th.pc }).testPhase t f.kd.toNat)) ∧
  (∀ e ∈ maskWords, ∀ (f : FmtK) (s : State) (ls : List ThreadRef), s.actor = .lanes ls →
    let own := e.1 f = .mself f ∨ e.1 f = .msetg f
    exec (e.1 f) s = .next (ls.foldl (fun u t => u.testPhase t f.kd.toNat) (inTurn ls (fun u t =>
      if (u.phase t f.kd.toNat).arrived ≠ 0 then laneTrap u t { code := 1, sub := 11, va := (u.thread t).pc }
      else (u.writeK t f.kd.toNat (e.2 f (if own then u else s) t)).advance t) s)))

/-- R206, R209: a member arrives: its ARRIVED bit, the KIND and its operand stand in the phase, its region ends, and it parks at the
next word; then completion is tested. Nothing but the memory hierarchy changes beside. R207: an arrival by a thread that is no
member, or of another KIND than the open phase has, traps ILLEGAL MASK. R206, R208, R209: LEAVE clears the issuer's bit and does
not park; WAITK goes on where the mask is 0, else parks. R178, R206, R268: in an issue of several lanes each lane arrives, or traps, in
its turn, on what the lanes before it have left, and the phase of each lane's posy is tested once, at the end. -/
def Obligations.Meetings : Prop :=
  (∀ (f : FmtK) (r : FmtR) (a : FmtAK) (k : BitVec 4) (s : State) (t : ThreadRef) (th : Thread), Lone s t th →
    ∀ e ∈ meetings f r a k s t,
      let p := s.phase t e.2.1
      s.member t e.2.1 = true → (p.arrived = 0 ∨ p.kind = e.2.2.1) →
      ∃ u : State, exec e.1 s = .next (u.testPhase t e.2.1) ∧
        u.still = ((s.setPhase t e.2.1
          { arrived := p.arrived ||| 1#32 <<< (t.tid % 32), kind := e.2.2.1,
            ops := p.ops.set {} (t.tid % 32) { e.2.2.2.1 with pc := th.pc } }).modThread t (fun th =>
          { ({ th with regionPc := th.pc + 4, liveIn := ~~~th.dead, regionRm := th.fcr.truncate 2, boundary := true,
                       status := .parked (.phase e.2.1) }.useRuns e.2.2.2.2) with pc := th.pc + 4 })).still) ∧
  (∀ (f : FmtK) (r : FmtR) (a : FmtAK) (k : BitVec 4) (s : State) (t : ThreadRef) (th : Thread), Lone s t th → s.collect = none →
    let traps := s.takeTrap t { code := 1, sub := 11, va := th.pc }
    (∀ e ∈ meetings f r a k s t,
      (s.member t e.2.1 = false ∨ ((s.phase t e.2.1).arrived ≠ 0 ∧ (s.phase t e.2.1).kind ≠ e.2.2.1)) →
      exec e.1 s = .next (traps.testPhase t e.2.1)) ∧
    (s.member t f.ka.toNat = false → exec (.leave f) s = .next (traps.testPhase t f.ka.toNat)) ∧
    (s.member t f.ka.toNat = true → exec (.waitk f) s = .next traps)) ∧
  (∀ (f : FmtK) (s : State) (t : ThreadRef) (th : Thread), Lone s t th →
    let k := f.ka.toNat
    (s.member t k = true → ∃ u : State, exec (.leave f) s = .next (u.testPhase t k) ∧
      u.still = ((s.writeK t k (s.readK t k &&& ~~~(1#32 <<< (t.tid % 32)))).modThread t (fun th =>
        { th with regionPc := th.pc + 4, liveIn := ~~~th.dead, regionRm := th.fcr.truncate 2, boundary := true,
                  pc := th.pc + 4 })).still) ∧
    (s.member t k = false → s.readK t k = 0 → exec (.waitk f) s = .next (s.advance t)) ∧
    (s.member t k = false → s.readK t k ≠ 0 → exec (.waitk f) s = .next (s.modThread t (fun th =>
      { th with status := .parked (.waitk k), pc := th.pc + 4 })))) ∧
  (∀ (f : FmtK) (r : FmtR) (a : FmtAK) (k : BitVec 4) (s : State) (ls : List ThreadRef), s.actor = .lanes ls →
    let trap := fun (u : State) (t : ThreadRef) => laneTrap u t { code := 1, sub := 11, va := (u.thread t).pc }
    let clear := fun (u : State) (t : ThreadRef) (k : Nat) => u.readK t k &&& ~~~(1#32 <<< (t.tid % 32))
    let test := fun (k : Nat) (u : State) => ls.foldl (fun u t => u.testPhase t k) u
    (∀ n < (meetings f r a k s ⟨0, 0⟩).length, ∀ i m kind, (∀ t, ∃ o la, (meetings f r a k s t)[n]? = some (i, m, kind, o, la)) →
      exec i s = .next (test m (inTurn ls (fun u t =>
        match (meetings f r a k u t)[n]? with
        | some (_, _, _, o, la) =>
          let p := u.phase t m
          if u.member t m = true ∧ (p.arrived = 0 ∨ p.kind = kind) then
            let here : LaneOperand := { o with pc := (u.thread t).pc }
            let q : Phase := { arrived := p.arrived ||| 1#32 <<< (t.tid % 32), kind := kind, ops := p.ops.set {} (t.tid % 32) here }
            ((((u.drain (u.coreOf t)).setPhase t m q).modThread t (fun th => th.open_ (th.pc + 4))).stand t (.parked (.phase m))).modThread t
              (fun th => past (th.useRuns la))
          else trap u t
        | none => u) s))) ∧
    exec (.leave f) s = .next (test f.ka.toNat (inTurn ls (fun u t =>
      if u.member t f.ka.toNat = true then
        ((u.drain (u.coreOf t)).writeK t f.ka.toNat (clear u t f.ka.toNat)).modThread t (fun th => committed th)
      else trap u t) s)) ∧
    exec (.waitk f) s = .next (inTurn ls (fun u t =>
      if u.member t f.ka.toNat = true then trap u t
      else if u.readK t f.ka.toNat = 0 then u.advance t else (u.stand t (.parked (.waitk f.ka.toNat))).advance t) s))

/-- R206, R208: the test of a mask. While a member is missing nothing completes; when every member has arrived at a JOIN or a lane
collective, each arrived thread becomes ready with its result (or goes on to the wait of its group's CTL word, log 27), ARRIVED
and KIND are cleared, and the mask is unchanged; a complete STCMP or LDEXP starts its stream at rank 0; and a mask that is 0
releases its WAITKs, whose threads are then ready. R270 to R272: what each arrived member receives. MRGRK's results are a
permutation of 0 to |A| - 1 that respects (key, run, lane). R295, R296: a stream deals its elements to the selected members in
ascending lane order, element e at 4e past the base that the lowest arrived lane supplied; it ends with B = e on every member; an
element whose access traps ends it at its rank, and that member takes the trap at its word; an element that has to wait suspends
it at its rank; an element that faults PAGE suspends it there under the fault's token, with a record for a new token (R389). -/
def Obligations.PhaseCompletion : Prop :=
  (∀ (s : State) (t : ThreadRef) (k : Nat),
    let p := s.phase t k
    let missing := s.readK t k &&& ~~~p.arrived ≠ 0
    (missing → s.readK t k ≠ 0 → s.testPhase t k = s) ∧
    (s.readK t k ≠ 0 → ¬missing → p.arrived ≠ 0 → p.susp = none → p.kind ∉ [64 * 0x2D, 64 * 0x2D + 1] →
      let v := s.testPhase t k
      v.phase t k = {} ∧ v.readK t k = s.readK t k ∧
      (∀ i th, p.arrived.getLsbD i = true → s.threads.find? (tkey (onLane t i)) = some th →
        v.threads.find? (tkey (onLane t i)) = some
          (let r := if p.kind = 64 * 0x19 + 3 then th else th.setG (p.op i).dst (p.result i)
           if th.second = some (.parked (.phase k)) then { r with second := some .ready }
           else { r with status := th.second.getD .ready, since := s.tick, second := none })) ∧
      (∀ key, (∀ i, p.arrived.getLsbD i = true → key ≠ tkey (onLane t i)) → v.threads.find? key = s.threads.find? key)) ∧
    (s.readK t k ≠ 0 → ¬missing → p.arrived ≠ 0 → p.susp = none → p.kind ∈ [64 * 0x2D, 64 * 0x2D + 1] →
      let v := s.stream t k p p.selected 0
      s.testPhase t k = if v.readK t k = 0 then v.releaseWaitk t k else v) ∧
    (s.readK t k = 0 → p.arrived = 0 →
      let v := s.releaseWaitk t k
      s.testPhase t k = v ∧
      (∀ key th, s.threads.find? key = some th → key = tkey th.ref → th.status ≠ .ended → th.task = t.task →
        th.tid / 32 = t.tid / 32 →
        (th.status = .parked (.waitk k) → th.second = none →
          v.threads.find? key = some { th with status := .ready, since := s.tick }) ∧
        (th.second = some (.parked (.waitk k)) → th.status ≠ .parked (.waitk k) →
          (v.thread th.ref).waitsFor (.waitk k) = false)) ∧
      (∀ key, (∀ e ∈ s.threads, tkey e.2.ref = key → e.2.waitsFor (.waitk k) = false) → v.threads.find? key = s.threads.find? key))) ∧
  (∀ (p : Phase) (i : Nat), i < 32 →
    let A := fun (j : Nat) => p.arrived.getLsbD j
    let count := fun (c : Nat → Bool) => BitVec.ofNat 32 ((List.range 32).filter (fun j => A j && c j)).length
    let sum := fun (c : Nat → Bool) => BitVec.ofNat 32 ((((List.range 32).filter (fun j => A j && c j)).map (fun j => (p.op j).a.toNat)).sum)
    let from_ := fun (j : Nat) => if A j then (p.op j).a else (p.op i).a
    (p.kind = 64 * 0x19 → ∀ j < 32, (p.result i).getLsbD j = (A j && (p.op j).flag)) ∧
    (p.kind = 64 * 0x19 + 1 → p.result i = count (fun j => (p.op j).flag)) ∧
    (p.kind = 64 * 0x19 + 2 → p.result i = count (fun j => decide (j < i) && (p.op j).flag)) ∧
    (p.kind = 64 * 0x1A → p.result i = from_ ((p.op i).b.toNat % 32)) ∧
    (p.kind = 64 * 0x1B → p.result i = from_ (i ^^^ ((p.op i).b.toNat % 32))) ∧
    (p.kind = 64 * 0x1C → p.result i = sum (fun _ => true)) ∧
    (p.kind = 64 * 0x1D → p.result i = sum (fun j => decide (j ≤ i))) ∧
    (p.kind = 64 * 0x1E →
      let ls := (List.range 32).filter A
      let signed := (p.op (ls.headD 0)).b.getLsbD 1
      let key := fun (j : Nat) => if signed then (p.op j).key.toInt else ((p.op j).key.toNat : Int)
      let run := fun (j : Nat) => (p.op j).b.toNat % 2
      (ls.map (fun j => (p.result j).toNat)).Perm (List.range ls.length) ∧
      ∀ j ∈ ls, ∀ m ∈ ls, (key j < key m ∨ key j = key m ∧ (run j < run m ∨ run j = run m ∧ j < m)) →
        (p.result j).toNat < (p.result m).toNat)) ∧
  (∀ (s s1 : State) (t : ThreadRef) (k e i : Nat) (p : Phase) (rest : List Nat),
    let va := (p.op (p.lanes.headD 0)).key + BitVec.ofNat 64 (4 * e)
    let m : ThreadRef := ⟨t.task, t.tid / 32 * 32 + i⟩
    p.selected = (List.range 32).filter (fun i => p.arrived.getLsbD i && (p.op i).b.getLsbD 0) ∧
    s.stream t k p [] e = s.endStream t k p e ∧
    (∀ ms : List Nat, p.lanes = ms → s.endStream t k p e = State.releasePhase
      (ms.foldl (fun s i => s.modThread ⟨t.task, 32 * (t.tid / 32) + i⟩ (fun th => th.setG (p.op i).dst2 (BitVec.ofNat 32 e))) s) t k p) ∧
    let writes := fun (r : Res Unit) => p.kind = 64 * 0x2D ∧ s.memWriteBy m (p.op i).pc va (bytesOfWord (p.op i).a) false = r
    let reads := fun (r : Res (List Byte)) => p.kind = 64 * 0x2D + 1 ∧ s.memRead m va 4 false = r
    let z := s1.task t.task
    let rec_ := fun (sub tok : Nat) => { recordAtAddress s1 m 3 sub va with
      precise := false, recoverable := true, token := tok, pc := (p.op i).pc }
    let suspended := fun (u : State) (sub tok : Nat) => u.setPhase t k { p with rank := e, susp := some (tok, { code := 3, sub := sub, va := va }) }
    (writes (.ok () s1) → s.stream t k p (i :: rest) e = s1.stream t k p rest (e + 1)) ∧
    (∀ b, reads (.ok b s1) →
      s.stream t k p (i :: rest) e = (s1.modThread m (fun th => th.setG (p.op i).dst (wordOfBytes b))).stream t k p rest (e + 1)) ∧
    (∀ x, writes (.stop (.trap x) s1) ∨ reads (.stop (.trap x) s1) →
      s.stream t k p (i :: rest) e = (s1.endStream t k p e).takeTraps [(m, (p.op i).pc, x)]) ∧
    (∀ x, writes (.stop (.retry x) s1) ∨ reads (.stop (.retry x) s1) →
      s.stream t k p (i :: rest) e = (s1.setPhase t k { p with rank := e, susp := some (0, { code := 0, sub := 0 }) }).takeStop m (.retry x)) ∧
    (∀ a sub kd, writes (.stop (.page a sub kd) s1) ∨ reads (.stop (.page a sub kd) s1) → a = va →
      let fault : Token := ⟨z.func, z.asid, va.toNat / 4096, kd⟩
      (∀ tok x, List.find? (fun (x : Nat × Token) => x.2 == fault) s1.tokens = some (tok, x) → s.stream t k p (i :: rest) e = suspended s1 sub tok) ∧
      (List.find? (fun (x : Nat × Token) => x.2 == fault) s1.tokens = none →
        let tok := s1.nextToken
        let u : State := { s1 with tokens := s1.tokens.put tok fault, nextToken := if tok + 1 = 2 ^ 32 then 1 else tok + 1 }
        s.stream t k p (i :: rest) e = suspended ((u.drain (s1.coreOf m)).pushPage z.func (rec_ sub tok)) sub tok)))

/-- R14, R24: the order of the checks of an access: non-canonical address, alignment, space, then the walk with its permissions.
An access of a lane is one through its core's TLB; the model notes its write where a REMAP pass runs (R135). R27, R24, R25, R33: a
cached leaf serves without a walk; a leaf under a move makes the access wait, one that denies it traps PROT with its kind's subcode;
a host page is the ATC's, or HOSTDENY, HOSTMISS, or a wait for ATS. R17 to R22, R80: a walk of a valid context goes through the levels;
an entry with V = 0 ends it NOTPRESENT, a malformed entry, leaf or run BADPTE, a poisoned line CORRUPT; a valid run is one leaf of
64 KiB. That bit 11 of a table pointer and of a run's entries must be zero is log 107. -/
def Obligations.AccessChecks : Prop :=
  (∀ (s : State) (v : Via) (asid : Nat) (va : DWord) (size : Nat) (k : Access),
    let a := va.toNat
    let local_ := a < 2 ^ 48
    let peer := 3 * 2 ^ 54 ≤ a ∧ a < 2 ^ 56
    let r := s.locateVia v asid va size k
    let x := s.translate v asid a k
    (¬local_ → ¬peer → r = .stop (.trap { code := 4, sub := 1, va := va }) s) ∧
    (local_ ∨ peer → a % size ≠ 0 → r = .stop (.trap { code := 2, sub := 0, va := va }) s) ∧
    (peer → a % size = 0 → r = .stop (.trap { code := 4, sub := 6, va := va }) s) ∧
    (local_ → a % size = 0 →
      (∀ pa h, x.1 = .ok pa h → r = .ok ⟨pa, h⟩ x.2) ∧
      (∀ sub, x.1 = .page sub → r = .stop (.page va sub k) x.2) ∧
      (∀ sub, x.1 = .prot sub → r = .stop (.trap { code := 4, sub := sub, va := va }) x.2) ∧
      (x.1 = .corrupt → r = .stop (.trap { code := 15, sub := 0, va := va }) x.2) ∧
      (∀ w, x.1 = .wait w → r = .stop (.retry w) x.2)) ∧
    x.2.still = s.still) ∧
  (∀ (s : State) (t : ThreadRef) (va : DWord) (size : Nat) (k : Access),
    let r := s.locateVia (.core (s.task t.task).phys) (s.task t.task).asid va size k
    (∀ y u, r = .stop y u → s.locate t va size k = .stop y u) ∧
    (∀ l u, r = .ok l u → ∃ v : State, s.locate t va size k = .ok l v ∧ v = { u with layouts := v.layouts } ∧ v.still = u.still)) ∧
  (∀ (s : State) (v : Via) (asid a : Nat) (k : Access),
    let x := s.translate v asid a k
    let w := s.walk v.die asid a
    (∀ t, tlbFind (s.tlbOf v) asid a = some t → x = s.useLeaf asid a t k) ∧
    (tlbFind (s.tlbOf v) asid a = none →
      (∀ sub, w.1 = .bad sub → x = (.page sub, w.2)) ∧ (w.1 = .corrupt → x = (.corrupt, w.2)) ∧
      (∀ n frame e, w.1 = .leaf n frame e →
        (e.testBit 9 = true → x = (.wait (.mig asid (a / 4096)), w.2)) ∧
        (e.testBit 9 = false → ∃ u : State, u.still = w.2.still ∧
          x = u.useLeaf asid a (cachedLeaf n (w.2.replicaFrame v.die asid a n frame e) e) k ∧ (e.testBit 10 = false →
          w.2.replicaFrame v.die asid a n frame e = frame)))) ∧
    (∀ t : Tlb,
      let y := s.useLeaf asid a t k
      let bus := t.frame * 4096 + a % 2 ^ t.log2
      let c := s.ctx asid
      let page := (ctxPasid c.1, bus / 4096)
      ((permission t k).1 = false → y = (.prot (permission t k).2, s)) ∧
      ((permission t k).1 = true → t.host = false → y = (.ok bus false, s)) ∧
      ((permission t k).1 = true → t.host = true →
        (∀ f, assoc c.2.atc (asid, page) = some f → y = (.ok (f * 4096 + bus % 4096) true, c.2)) ∧
        (assoc c.2.atc (asid, page) = none →
          (page ∈ c.2.priDenied → y = (.prot 10, { c.2 with priDenied := c.2.priDenied.erase page })) ∧
          (page ∉ c.2.priDenied → page ∈ c.2.priPending → y = (.page 3, c.2)) ∧
          (page ∉ c.2.priDenied → page ∉ c.2.priPending → ∃ u : State, u.still = c.2.still ∧ y = (.wait (.ats asid page.1 page.2), u)))))) ∧
  (∀ (s : State) (die asid va : Nat),
    let c := s.ctx asid
    (GoodContext c.1 → s.walk die asid va = c.2.walkFrom die va [39, 30, 21, 12] (tableFrame (c.1.getD 1 0).toNat * 4096)) ∧
    (¬GoodContext c.1 → s.walk die asid va = (.bad 1, c.2))) ∧
  (∀ (s s1 : State) (die va sh base : Nat) (rest : List Nat) (e : DWord), sh ∈ [39, 30, 21, 12] →
    let ea := base + 8 * (va / 2 ^ sh % 512)
    let w := s.walkFrom die va (sh :: rest) base
    let n := e.toNat
    (2 ^ 39 ≤ base → w = (.bad 2, s)) ∧ (base < 2 ^ 39 → s.poisoned ea = true → w = (.corrupt, s)) ∧
    (base < 2 ^ 39 → s.poisoned ea = false → s.readDwordAt die ea = (e, s1) →
      (n % 2 = 0 → w = (.bad 1, s1)) ∧
      (n % 4 = 1 → rest = [] ∨ n / 4 % 2 ^ 10 ≠ 0 ∨ anyBit n 63 52 → w = (.bad 2, s1)) ∧
      (n % 4 = 1 → rest ≠ [] → n / 4 % 2 ^ 10 = 0 → ¬anyBit n 63 52 → w = s1.walkFrom die va rest (tableFrame n * 4096)) ∧
      (n % 4 = 3 → BadLeaf sh n → w = (.bad 2, s1)) ∧
      (n % 4 = 3 → ¬BadLeaf sh n → n.testBit 6 = false → w = (.leaf sh (tableFrame n) n, s1)) ∧
      (∀ es s2, n % 4 = 3 → ¬BadLeaf sh n → n.testBit 6 = true → s1.readDwordsAt die (ea / 128 * 128) 16 = (es, s2) →
        (GoodRun es → w = (.leaf 16 (tableFrame (es.getD 0 0).toNat) n, s2)) ∧ (¬GoodRun es → w = (.bad 2, s2)))) ∧
    (s.readDwordAt die ea).2.still = s.still ∧
    (Quiet s → base % 4096 = 0 → base < 2 ^ 39 → s.readDwordAt die ea = (BitVec.ofNat 64 (natOfBytes (Memory.bytes s.mem ea 8)), (s.readDwordAt die ea).2)))

/-- R282, R283, R59, R57: LD and LDS. A load that passes its checks sends the bytes at its address, by SZ, to D as a
variable-latency result and changes nothing else outside the memory hierarchy. A load that hits gives the bytes of its core's L1,
and leaves caches and memory as they are, an acquire once the core's stores to a part of a word have been accepted (log 108);
where no cache holds anything the bytes are memory's; a host page's are the host's. R285: PREF completes whatever its address, and
touches nothing that a program can see. R178, R281: in an issue of several lanes each lane reads, or takes its own stop, on what
the lanes before it have left. The results wait with the thread, oldest first (log 5); a byte of host memory that nothing has
written reads as 0 (log 13): both are the model's choice. -/
def Obligations.Loads : Prop :=
  (∀ (f : FmtM) (s : State) (t : ThreadRef) (th : Thread), Lone s t th →
    let n := sizeBytes f.sz
    let core := s.coreOf t
    let done := fun (words : Nat) (v : List Byte) => (s.modThread t (fun th =>
      past (withLate (th.useRuns (mark f.la [(f.a.toNat, words)])) f.d.toNat (loaded f.sz (natOfBytes v))))).still
    (∀ (l : Loc) (s1 : State), s.locate t (ea f (s.readPair t f.a.toNat)) n .read = .ok l s1 →
      (l.host = false → s1.poisoned l.pa = false) →
      ∃ (b : List Byte) (v : State), exec (.ld f) s = .next v ∧ v.still = done 2 b ∧ b.length = n ∧
        (let u := if f.ord = 1 then s1.acceptThrough core Reg.narrow else s1
         l.host = false → (∀ i < n, Hits u core ((l.pa + i) / 4) (hitStates (decide (f.ord = 1)))) →
          (∀ i < n, b.getD i 0 = cachedByte u core (l.pa + i)) ∧ v.slices = u.slices ∧ v.mem = u.mem ∧ v.regq = u.regq) ∧
        (l.host = false → Quiet s1 → b = Memory.bytes s1.mem l.pa n ∧ v.mem = s1.mem) ∧
        (l.host = true → NoHostWrites s core → (f.ord = 1 → NoNarrow s1 core) → s1.l1 = [] → b = Memory.bytes s.hostMem l.pa n) ∧
        (NoHostWrites s core → v.hostMem = s.hostMem)) ∧
    (let off := spmOff f (s.readG t f.a.toNat)
     off % n = 0 → off + n ≤ (s.task t.task).spmSize →
      ∃ v : State, exec (.lds f) s = .next v ∧ v.still = done 1 (Memory.bytes (s.task t.task).spm off n) ∧
        (f.ord ≠ 1 → v.l1 = s.l1) ∧ (f.ord ≠ 1 ∨ NoNarrow s (s.coreOf t) → v.mem = s.mem))) ∧
  (∀ (f : FmtM) (s : State) (t : ThreadRef) (th : Thread), Lone s t th →
    ∃ v : State, exec (.pref f) s = .next v ∧ (NoHostWrites s (s.coreOf t) → v.hostMem = s.hostMem) ∧
      v.still = (s.modThread t (fun th => past (th.useRuns (mark f.la [(f.a.toNat, 2)])))).still) ∧
  (∀ (f : FmtM) (s : State) (ls : List ThreadRef), s.actor = .lanes ls →
    let n := sizeBytes f.sz
    let acq := decide (f.ord = 1)
    let done := fun (t : ThreadRef) (words : Nat) (b : List Byte) (u : State) => u.modThread t (fun th =>
      past (withLate (th.useRuns (mark f.la [(f.a.toNat, words)])) f.d.toNat (loaded f.sz (natOfBytes b))))
    exec (.ld f) s = .next (inTurn ls (fun u t => lanePart t (u.memRead t (ea f (u.readPair t f.a.toNat)) n acq) (done t 2)) s) ∧
    exec (.lds f) s = .next (inTurn ls (fun u t => lanePart t (u.spmRead t (spmOff f (u.readG t f.a.toNat)) n acq) (done t 1)) s))

/-- R282, R283, R58, R63: ST and STS. A store to scratchpad writes its bytes there and takes a barrier object's fields that it
touches (R299, as the model reads it: log 29); a plain store to device memory leaves its bytes in the core's L1, registered or to
be registered, and, where its line has room there and its words are new to it, no other word of an L1, slice or memory changes
(rooms and replacement: log 84; the registrations of one store of 8 aligned bytes: log 89); a store to a host page goes on its way
to the host, in order after the core's earlier ones, and a release store has been issued to the host (log 95). How a narrow store
takes the rest of its word is log 37. R178, R281: in an issue of several lanes each lane stores, or takes its own stop, in its turn. -/
def Obligations.Stores : Prop :=
  (∀ (f : FmtM) (s : State) (t : ThreadRef) (th : Thread), Lone s t th → f.sz ≠ 7 →
    let n := sizeBytes f.sz
    let b := storedBytes f.sz (s.readRun t f.d.toNat (sizeRegs f.sz))
    let core := s.coreOf t
    let va := ea f (s.readPair t f.a.toNat)
    let done := fun (words : Nat) (s : State) => s.modThread t (fun th => past (th.useRuns (mark f.la [(f.a.toNat, words)])))
    (∀ (l : Loc) (s1 : State), s.locate t va n .write = .ok l s1 →
      ∃ v : State, exec (.st f) s = .next v ∧ v.still = (done 2 s).still ∧
        (l.host = true → f.ord ≠ 2 → v.hostMem = s.hostMem ∧ v.mem = s1.mem ∧
          ∃ e : TrackEntry, e.task = t.task ∧ e.tid = t.tid ∧ e.pc = th.pc ∧ e.va = va ∧ v.hostq = s1.hostq ++ [⟨core, l.pa, b, e⟩]) ∧
        (l.host = true → f.ord = 2 → s1.hostq = [] → s1.regq = [] → v.hostMem = Memory.write s.hostMem l.pa b ∧ v.hostq = []) ∧
        (l.host = false → NoHostWrites s core → v.hostMem = s.hostMem) ∧
        (l.host = false → f.ord ≠ 2 → s.fencedSlices = [] →
          (∀ i < n, (s1.l1? core ((l.pa + i) / 4)).map L1Word.st ≠ some .par) →
          (n ≤ 4 ∨ (∀ i < n, (s1.l1? core ((l.pa + i) / 4)).map L1Word.st ∈ [none, some .shr]) ∨
            (s1.regs core = [] ∧ ∀ i < n, (s1.l1? core ((l.pa + i) / 4)).map L1Word.st = some .own)) →
          (∀ i < n, ∃ x, v.l1? core ((l.pa + i) / 4) = some x ∧ x.st ∈ [.pnd, .own] ∧
            x.val.extractLsb' (8 * ((l.pa + i) % 4)) 8 = b.getD i 0) ∧
          (4 ≤ n → l.pa % n = 0 → L1Fits s1 core l.pa →
            n = 4 ∨ (∀ i < n, (s1.l1? core ((l.pa + i) / 4)).map L1Word.st ∈ [none, some .shr]) →
            v.mem = s1.mem ∧ v.slices = s1.slices ∧ v.metas = s1.metas ∧
            ∀ key, (∀ i < n, key ≠ l1Key core ((l.pa + i) / 4)) → v.l1.find? key = s1.l1.find? key))) ∧
    (let off := spmOff f (s.readG t f.a.toNat)
     off % n = 0 → off + n ≤ (s.task t.task).spmSize →
      ∃ v : State, exec (.sts f) s = .next v ∧
        v.still = (done 1 (s.modTask t.task (fun k => { k with
          spm := Memory.write k.spm off b
          bars := k.bars.filter (fun o => ¬(o < off + n ∧ off < o + 32)) }))).still ∧
        (f.ord ≠ 2 → v.mem = s.mem ∧ v.l1 = s.l1))) ∧
  (∀ (f : FmtM) (s : State) (ls : List ThreadRef), s.actor = .lanes ls → f.sz ≠ 7 →
    let rel := decide (f.ord = 2)
    let bytes := fun (u : State) (t : ThreadRef) => storedBytes f.sz (u.readRun t f.d.toNat (sizeRegs f.sz))
    let done := fun (t : ThreadRef) (words : Nat) (_ : Unit) (u : State) => u.modThread t (fun th =>
      past (th.useRuns (mark f.la [(f.a.toNat, words)])))
    exec (.st f) s = .next (inTurn ls (fun u t =>
      lanePart t (u.memWrite t (ea f (u.readPair t f.a.toNat)) (bytes u t) rel) (done t 2)) s) ∧
    exec (.sts f) s = .next (inTurn ls (fun u t =>
      lanePart t (u.spmWrite t (spmOff f (u.readG t f.a.toNat)) (bytes u t) rel) (done t 1)) s))

/-- R24, R43, R283, R80: where a load or store traps. A misaligned SPM offset traps ALIGN, one past SPMSIZE PROT SPMRANGE, a load
of a poisoned line CORRUPT; a failed check of a global address is the stop of AccessChecks. R288, R289, R34, R80: where an atomic
traps: a failed check is the stop of AccessChecks, alignment where R24 puts it (log 40); after them HOSTATOM for the operators
that PCIe does not carry (log 93), and CORRUPT on a poisoned line. R71: a line whose metadata word is invalid is poisoned by the
read that finds it. R389, R50: what a stop does: a PAGE fault parks its thread under the fault's token, with one RECOVERABLE
record for a new token, after the core's stores (a release), and none for a known one; a wait parks it; neither moves its pc or
another thread. -/
def Obligations.AccessTraps : Prop :=
  (∀ (f : FmtM) (s : State) (t : ThreadRef) (th : Thread), Lone s t th → f.sz ≠ 7 → s.collect = none →
    let n := sizeBytes f.sz
    let va := ea f (s.readPair t f.a.toNat)
    let off := spmOff f (s.readG t f.a.toNat)
    let trap := fun (u : State) (c sub : Nat) (a : DWord) => Host.Outcome.next (u.takeTrap t { code := c, sub := sub, va := a })
    (∀ i ∈ [Instr.lds f, .sts f],
      (off % n ≠ 0 → exec i s = trap s 2 0 (BitVec.ofNat 64 off)) ∧
      (off % n = 0 → (s.task t.task).spmSize < off + n → exec i s = trap s 4 7 (BitVec.ofNat 64 off))) ∧
    (∀ r s1, s.locate t va n .read = .stop r s1 → exec (.ld f) s = .next (s1.takeStop t r)) ∧
    (∀ l s1, s.locate t va n .read = .ok l s1 → l.host = false → s1.poisoned l.pa = true →
      exec (.ld f) s = trap (metaRead s1 (l.pa / 256)) 15 0 va) ∧
    (∀ r s1, s.locate t va n .write = .stop r s1 → exec (.st f) s = .next (s1.takeStop t r)) ∧
    (∀ i ∈ [Instr.ld f, .st f], ¬ va.toNat < 2 ^ 48 → ¬ IsPeer va.toNat → exec i s = trap s 4 1 va) ∧
    (∀ i ∈ [Instr.ld f, .st f], va.toNat < 2 ^ 48 ∨ IsPeer va.toNat → va.toNat % n ≠ 0 → exec i s = trap s 2 0 va)) ∧
  (∀ e ∈ atomWords, ∀ (f : FmtA) (s s1 : State) (t : ThreadRef) (th : Thread), Lone s t th → s.collect = none →
    let va := s.readPair t f.a.toNat
    let n := e.2.2 / 8
    let trap := fun (u : State) (c sub : Nat) => Host.Outcome.next (u.takeTrap t { code := c, sub := sub, va := va })
    (¬ va.toNat < 2 ^ 48 → ¬ IsPeer va.toNat → exec (e.1 f) s = trap s 4 1) ∧
    (va.toNat < 2 ^ 48 ∨ IsPeer va.toNat → va.toNat % n ≠ 0 → exec (e.1 f) s = trap s 2 0) ∧
    (∀ r, s.locate t va n .atomic = .stop r s1 → exec (e.1 f) s = .next (s1.takeStop t r)) ∧
    (∀ l, s.locate t va n .atomic = .ok l s1 → l.host = true → e.2.1 ∉ [.add, .exch, .cas] → exec (e.1 f) s = trap s1 4 9) ∧
    (∀ l, s.locate t va n .atomic = .ok l s1 → l.host = false → s1.poisoned l.pa = true →
      exec (e.1 f) s = trap (metaRead s1 (l.pa / 256)) 15 0)) ∧
  (∀ (s : State) (t : ThreadRef) (th : Thread), s.threads.find? (tkey t) = some th → th.status ≠ .ended →
    let z := s.task t.task
    let parked := fun (u : State) (w : Wait) => u.modThread t (fun th => { th with status := .parked w })
    (∀ (va : DWord) (sub : Nat) (k : Access),
      let fault : Token := ⟨z.func, z.asid, va.toNat / 4096, k⟩
      let waits := fun (u : State) (tok : Nat) => parked u (.page tok { code := 3, sub := sub, va := va })
      (∀ tok x, List.find? (fun (x : Nat × Token) => x.2 == fault) s.tokens = some (tok, x) →
        s.takeStop t (.page va sub k) = waits s tok) ∧
      (List.find? (fun (x : Nat × Token) => x.2 == fault) s.tokens = none →
        let tok := s.nextToken
        let u : State := { s with tokens := s.tokens.put tok fault, nextToken := if tok + 1 = 2 ^ 32 then 1 else tok + 1 }
        s.takeStop t (.page va sub k) = waits ((u.drain (s.coreOf t)).pushPage z.func
          { recordAtAddress s t 3 sub va with precise := false, recoverable := true, token := tok }) tok)) ∧
    (∀ r : Retry, ∃ u : State, s.takeStop t (.retry r) = parked u (.retry r) ∧ u = { s with atsPending := u.atsPending } ∧
      (∀ a p g, r = .ats a p g → (a, p, g) ∈ u.atsPending) ∧ (∀ x ∈ s.atsPending, x ∈ u.atsPending)) ∧
    (∀ i, s.takeStop t (.trap i) = s.takeTrap t i))

/-- R288, R289, R61, R34: ATOM. With its checks passed it returns the word's old value to D, writes the new value of its row (into
the core's L1, which then owns the word; to a host page as a PCIe AtomicOp for ADD, EXCH and CAS), and ends its region; nothing
else changes outside the memory hierarchy. A word that the core owns has the old value of its L1, and nothing else of the
hierarchy changes; one that no cache holds has memory's. R290, R292, R299: ATOMS and REDS read and write one word of the task's
scratchpad; ATOMS returns the old value; both end the region, and a barrier object that the word touches loses its fields. A CAS
that fails writes nothing. R178, R281, R289: in an issue of several lanes each lane has its atomic performed, or takes its own
stop, in its turn, on the word that the lanes before it have left. That a request to the home is one whole transaction (log 8) and
what becomes of a barrier object that is written (log 29) are the model's choice. -/
def Obligations.Atomics : Prop :=
  (∀ e ∈ atomWords, ∀ (f : FmtA) (s s1 : State) (t : ThreadRef) (th : Thread) (l : Loc), Lone s t th →
    let w := e.2.2
    let b := wideOperand s t w f.b.toNat
    let c := secondOperand s t w f.b.toNat
    let core := s.coreOf t
    s.locate t (s.readPair t f.a.toNat) (w / 8) .atomic = .ok l s1 →
    (l.host = false → s1.poisoned l.pa = false →
      ∃ (old : Nat) (v : State), old < 2 ^ w ∧ exec (e.1 f) s = .next v ∧
        v.still = (s.modThread t (atomized f.d.toNat (valueRegs w old))).still ∧
        (s.fencedSlices = [] → ∀ n, newWord w e.2.1 old b c = some n → ownedNumber v core (l.pa / 4) w = some n) ∧
        (∀ n, s.fencedSlices = [] → f.ord.getLsbD 1 = false → (f.ord.getLsbD 0 = true → NoNarrow s1 core) → ownedNumber s1 core (l.pa / 4) w = some n →
          old = n ∧ v.slices = s1.slices ∧ v.mem = s1.mem) ∧
        (Quiet s1 → old = natOfBytes (Memory.bytes s1.mem l.pa (w / 8)) ∧ v.mem = s1.mem)) ∧
    (l.host = true → e.2.1 ∈ [.add, .exch, .cas] → NoHostWrites s core →
      let old := natOfBytes (Memory.bytes s.hostMem l.pa (w / 8))
      ∃ v : State, exec (e.1 f) s = .next v ∧ v.still = (s.modThread t (atomized f.d.toNat (valueRegs w old))).still ∧
        v.hostMem = (match newWord w e.2.1 old b c with
          | some n => Memory.write s.hostMem l.pa (bytesOfNat (w / 8) n)
          | none => s.hostMem))) ∧
  (∀ (f : FmtA) (s : State) (t : ThreadRef) (th : Thread), Lone s t th →
    let off := (s.readG t f.a.toNat).toNat
    let old := natOfBytes (Memory.bytes (s.task t.task).spm off 4)
    let b := wideOperand s t 32 f.b.toNat
    let put := fun (n : Nat) => s.modTask t.task (fun k => { k with
      spm := Memory.write k.spm off (bytesOfNat 4 n)
      bars := k.bars.filter (fun o => ¬(o < off + 4 ∧ off < o + 32)) })
    off % 4 = 0 → off + 4 ≤ (s.task t.task).spmSize →
    (∀ e ∈ atomsWords, ∃ v : State, exec (e.1 f) s = .next v ∧
      v.still = (((newWord 32 e.2 old b (secondOperand s t 32 f.b.toNat)).map put).getD s |>.modThread t
        (atomized f.d.toNat (valueRegs 32 old))).still) ∧
    (∀ e ∈ redsWords, ∃ v : State, exec (e.1 f) s = .next v ∧
      v.still = ((put ((newWord 32 e.2 old b b).getD old)).modThread t committed).still)) ∧
  (∀ (f : FmtA) (s : State) (ls : List ThreadRef), s.actor = .lanes ls →
    let number := fun (n : Nat) => BitVec.ofNat 64 n
    (∀ e ∈ atomWords, exec (e.1 f) s = .next (inTurn ls (fun u t =>
      let va := u.readPair t f.a.toNat
      let b := number (wideOperand u t e.2.2 f.b.toNat)
      let swap := if e.2.1 = .cas then number (secondOperand u t e.2.2 f.b.toNat) else 0
      let core := u.coreOf t
      lanePart t (u.locate t va (e.2.2 / 8) .atomic) (fun l u =>
        if l.host = true ∧ e.2.1 ∉ [.add, .exch, .cas] then laneTrap u t { code := 4, sub := 9, va := va }
        else if l.host = false ∧ u.poisoned l.pa = true then laneTrap (metaRead u (l.pa / 256)) t { code := 15, sub := 0, va := va }
        else
          let u := u.order core f.ord
          let r := if l.host then u.hostAtom core l.pa e.2.1 (e.2.2 == 64) b swap else u.atomAt core l.pa e.2.1 (e.2.2 == 64) b swap
          r.2.modThread t (atomized f.d.toNat (valueRegs e.2.2 r.1.toNat)))) s)) ∧
    (∀ e ∈ atomsWords, exec (e.1 f) s = .next (inTurn ls (fun u t =>
      let off := (u.readG t f.a.toNat).toNat
      lanePart t (u.spmLocate t off 4) (fun _ v =>
        let v := v.order (v.coreOf t) f.ord
        let old := natOfBytes (v.spmBytes t.task off 4)
        (match newWord 32 e.2 old (wideOperand u t 32 f.b.toNat) (secondOperand u t 32 f.b.toNat) with
          | some n => v.spmPut t.task off (bytesOfNat 4 n)
          | none => v).modThread t (atomized f.d.toNat (valueRegs 32 old)))) s)) ∧
    (∀ e ∈ redsWords, exec (e.1 f) s = .next (inTurn ls (fun u t =>
      let off := (u.readG t f.a.toNat).toNat
      let b := wideOperand u t 32 f.b.toNat
      lanePart t (u.spmLocate t off 4) (fun _ v =>
        let v := v.order (v.coreOf t) f.ord
        let old := natOfBytes (v.spmBytes t.task off 4)
        (v.spmPut t.task off (bytesOfNat 4 ((newWord 32 e.2 old b b).getD old))).modThread t committed)) s)))

/-- R291, R74, R78: RED, a word of major 0x29, writes no register and ends its region. On a line that no cache holds, MIN, MAX, AND,
OR and XOR are applied to memory at once; the others become the core's partial of the word, and memory is unchanged. Where the core
holds a partial of the word under the same operator, the operand is combined into it. On a poisoned line nothing is applied and
STORE MEMERR becomes pending; in host memory RED traps HOSTATOM. R178, R281: in an issue of several lanes each lane reduces, or takes
its own stop, in its turn. -/
def Obligations.Reductions : Prop :=
  (∀ e ∈ redWords, ∀ (f : FmtA) (s s1 : State) (t : ThreadRef) (th : Thread) (l : Loc), Lone s t th →
    let w := if f.d = 32 then 64 else 32
    let va := s.readPair t f.a.toNat
    let b := wideOperand s t w f.b.toNat
    s.locate t va (w / 8) .atomic = .ok l s1 →
    (l.host = false → s1.poisoned l.pa = false →
      ∃ v : State, exec (e.1 f) s = .next v ∧ v.still = (s.modThread t committed).still ∧
        (NoHostWrites s (s.coreOf t) → v.hostMem = s.hostMem) ∧
        (Quiet s1 → l.pa % (w / 8) = 0 →
          (e.2 ∈ [.minS, .minN, .maxS, .maxN, .and, .or, .xor] →
            v.mem = Memory.write s1.mem l.pa (bytesOfNat (w / 8)
              ((newWord w e.2 (natOfBytes (Memory.bytes s1.mem l.pa (w / 8))) b b).getD 0)))) ∧
        (Quiet s1 → s.fencedSlices = [] → l.pa % (w / 8) = 0 → (e.2 = .add ∨ (w = 64 ↔ e.2 = .faddF64) ∧ e.2 ∈ [.faddF32, .faddF64, .faddBf2]) →
          v.mem = s1.mem ∧ v.partial? (l.pa / 256) (dieOf (s.coreOf t)) (s.coreOf t % 128) (l.pa / 4 % 64) (w == 64) =
            some (BitVec.ofNat 64 b)) ∧
        (∀ (u : Nat) (x : SliceLine) (p : DWord), l.pa < 2 ^ 39 → l.pa % (w / 8) = 0 → s1.regq = [] → s1.hostq = [] → s1.spills = [] →
          s1.fencedSlices = [] → (s1.lineMeta (l.pa / 256)).hint = false → (s1.lineMeta (l.pa / 256)).uop.toNat = u →
          (e.2, w, u) ∈ [(.add, 32, 0), (.add, 64, 1), (.faddF32, 32, 2), (.faddF64, 64, 3), (.faddBf2, 32, 4)] →
          s1.slice? (dieOf (s.coreOf t)) (l.pa / 256) = some x → x.st = .u →
          s1.partial? (l.pa / 256) (dieOf (s.coreOf t)) (s.coreOf t % 128) (l.pa / 4 % 64) (w == 64) = some p →
          v.mem = s1.mem ∧ v.partial? (l.pa / 256) (dieOf (s.coreOf t)) (s.coreOf t % 128) (l.pa / 4 % 64) (w == 64) =
            some (BitVec.ofNat 64 ((newWord w e.2 p.toNat b b).getD 0)))) ∧
    (l.host = false → s1.poisoned l.pa = true →
      ∃ v : State, exec (e.1 f) s = .next v ∧ v.still = (s.modThread t (fun th => committed { th with
        stores := th.stores ++ [recordAtAddress s t 10 1 va] })).still) ∧
    (l.host = true → s.collect = none → exec (e.1 f) s = .next (s1.takeTrap t { code := 4, sub := 9, va := va }))) ∧
  (∀ e ∈ redWords, ∀ (f : FmtA) (s : State) (ls : List ThreadRef), s.actor = .lanes ls →
    let w := if f.d = 32 then 64 else 32
    exec (e.1 f) s = .next (inTurn ls (fun u t =>
      let va := u.readPair t f.a.toNat
      lanePart t (u.locate t va (w / 8) .atomic) (fun l v =>
        if l.host = true then laneTrap v t { code := 4, sub := 9, va := va }
        else
          let v := v.order (v.coreOf t) f.ord
          if v.poisoned l.pa = true then
            let m := metaRead v (l.pa / 256)
            m.modThread t (fun th => committed { th with stores := th.stores ++ [recordAtAddress m t 10 1 va] })
          else (v.redAt (v.coreOf t) l.pa ⟨e.2, w == 64⟩ (BitVec.ofNat 64 (wideOperand u t w f.b.toNat))).modThread t committed)) s))

/-- R217, R286: LDQ and STQ on a declared channel of the thread's side. With an entry, or room, the pop or push and a commit point
happen in one step; else the thread parks at the next word; in this clause no thread waits on a channel. R217, R286: what a
channel does for a thread that waits on it: an entry goes to the first LDQ that waits, whose registers it fills, room to the first
STQ, whose entry it takes, an LDQ before an STQ; each ends with its commit point and its thread is ready. R178, R286: in an issue
of several lanes each lane pops, pushes, parks or traps in its turn, and a waiter that its push or pop lets go on is served before
the next lane. Which waiter is first is log 85. R46, R217, R287, R225: a channel number that is not the launch's, or that is
another stage's side, traps PROT CHANNEL; WPRD returns the write pointer of a copy channel, 0 before its first binding, an
acquire; a push past the 32 hardware entries of a channel that overflows changes beside the channel only what memory holds, the
overflow area's bytes being free values (log 46); CHANNEL_OVERFLOW lets a full channel of a PORUF launch overflow. That LDQ writes
its result in the step of its commit point is log 90. -/
def Obligations.Channels : Prop :=
  (∀ (f : FmtQ) (s : State) (t : ThreadRef) (th : Thread) (L : Launch), Lone s t th →
    let k := (s.task t.task).launch
    let i := f.ch.toNat - 16
    let n := f.n.toNat + 1
    let c := L.chan i
    s.launches.find? k = some L → 16 ≤ f.ch.toNat → i < L.rcd.nchan →
    (∀ th' ∈ s.threads.map Prod.snd, ∀ ch m d ws n, th'.status ≠ .parked (.ldq ch m d n) ∧ th'.status ≠ .parked (.stq ch ws n)) →
    ((L.rcd.chmap[i]?).map Prod.snd = some (s.task t.task).stage →
      (∀ e r, c.entries = e :: r →
        exec (.ldq f) s = .next ((s.setChan k i { c with entries := r, overflowing := c.overflowing && decide (32 < r.length) }).modThread t
          (fun th => committed (th.setRun f.d.toNat ((List.range n).map (fun j => e.getD j 0)))))) ∧
      (c.entries = [] → exec (.ldq f) s = .next (s.modThread t (fun th =>
        past { th with status := .parked (.ldq f.ch.toNat n f.d.toNat s.tick) })))) ∧
    ((L.rcd.chmap[i]?).map Prod.fst = some (s.task t.task).stage →
      let ws := s.readRun t f.d.toNat n
      let room := if c.overflowing then 32 + 1024 else 32
      let pushed := s.setChan k i { c with entries := c.entries ++ [ws] }
      (c.entries.length < 32 → exec (.stq f) s = .next (pushed.modThread t committed)) ∧
      (32 ≤ c.entries.length → c.entries.length < room → ∃ u : State, exec (.stq f) s = .next (u.modThread t committed) ∧
        u.still = ({ pushed with fresh := u.fresh } : State).still) ∧
      (room ≤ c.entries.length → exec (.stq f) s = .next (s.modThread t (fun th =>
        past { th with status := .parked (.stq f.ch.toNat ws s.tick) }))))) ∧
  (∀ (s : State) (n k ch : Nat) (L : Launch) (w : Thread), s.launches.find? k = some L →
    let c := L.chan (ch - 16)
    (∀ m d n' e r, c.entries = e :: r → s.chanWaiter k ch false = some w → w.status = .parked (.ldq ch m d n') →
      State.serveChan (n + 1) s k ch = State.serveChan n
        (((s.setChan k (ch - 16) { c with entries := r, overflowing := c.overflowing && decide (32 < r.length) }).modThread w.ref (fun th =>
          ((th.setRun d ((List.range m).map (fun j => e.getD j 0))).open_ th.pc))).wake w.ref) k ch) ∧
    let room := if c.overflowing then 32 + 1024 else 32
    let unread := c.entries = [] ∨ s.chanWaiter k ch false = none
    (∀ ws n', unread → c.entries.length < room → s.chanWaiter k ch true = some w → w.status = .parked (.stq ch ws n') →
      let pushed := s.setChan k (ch - 16) { c with entries := c.entries ++ [ws] }
      let served := fun (u : State) => State.serveChan n ((u.modThread w.ref (fun th => th.open_ th.pc)).wake w.ref) k ch
      (c.entries.length < 32 → State.serveChan (n + 1) s k ch = served pushed) ∧
      (32 ≤ c.entries.length → ∃ u : State, State.serveChan (n + 1) s k ch = served u ∧
        u.still = ({ pushed with fresh := u.fresh } : State).still)) ∧
    (unread → room ≤ c.entries.length ∨ s.chanWaiter k ch true = none → State.serveChan (n + 1) s k ch = s)) ∧
  (∀ (f : FmtQ) (s : State) (ls : List ThreadRef), s.actor = .lanes ls →
    let ch := f.ch.toNat
    let n := f.n.toNat + 1
    let stops := fun (u : State) (t : ThreadRef) => laneTrap u t { code := 4, sub := 8 }
    exec (.ldq f) s = .next (inTurn ls (fun u t =>
      let k := (u.task t.task).launch
      let c := (u.launchOf t.task).chan (ch - 16)
      if u.chanOk t ch false = false then stops u t
      else match c.entries with
        | [] => (u.park t (.ldq ch n f.d.toNat u.tick)).modThread t past
        | e :: r => (((u.setChan k (ch - 16) { c with entries := r, overflowing := c.overflowing && decide (32 < r.length) }).modThread t
            (fun th => (th.setRun f.d.toNat ((List.range n).map (fun j => e.getD j 0))).open_ (th.pc + 4))).serve k ch).modThread t past) s) ∧
    exec (.stq f) s = .next (inTurn ls (fun u t =>
      let k := (u.task t.task).launch
      let c := (u.launchOf t.task).chan (ch - 16)
      let ws := u.readRun t f.d.toNat n
      if u.chanOk t ch true = false then stops u t
      else if (if c.overflowing then 32 + 1024 else 32) ≤ c.entries.length then (u.park t (.stq ch ws u.tick)).modThread t past
      else (((u.pushChan k (ch - 16) c ws).modThread t (fun th => th.open_ (th.pc + 4))).serve k ch).modThread t past) s)) ∧
  ((∀ (f : FmtQ) (s : State) (t : ThreadRef) (th : Thread), Lone s t th → s.collect = none →
    let trap := Host.Outcome.next (s.takeTrap t { code := 4, sub := 8 })
    let declared := 16 ≤ f.ch.toNat ∧ f.ch.toNat - 16 < (s.launchOf t.task).rcd.nchan
    let side := (s.launchOf t.task).rcd.chmap[f.ch.toNat - 16]?
    (¬declared ∨ side.map Prod.snd ≠ some (s.task t.task).stage → exec (.ldq f) s = trap) ∧
    (¬declared ∨ side.map Prod.fst ≠ some (s.task t.task).stage → exec (.stq f) s = trap) ∧
    (15 < f.ch.toNat → exec (.wprd f) s = trap) ∧
    (f.ch.toNat ≤ 15 → exec (.wprd f) s = .next ((s.acquire (s.coreOf t)).modThread t (fun th =>
      past (withLate th f.d.toNat [BitVec.ofNat 32 (((s.task t.task).wps.find? f.ch.toNat).getD 0)]))))) ∧
  (∀ (s : State) (k ch : Nat) (L : Launch), s.launches.find? k = some L → 16 ≤ ch → ch - 16 < L.rcd.nchan → L.rcd.poruf = true →
    32 ≤ (L.chan (ch - 16)).entries.length → (L.chan (ch - 16)).overflowing = false →
    exec (.channelOverflow k ch) s = .next ((s.setChan k (ch - 16) { L.chan (ch - 16) with overflowing := true }).serve k ch)))

/-- R293, R294, R386: the monitor waits. With its condition met MWAIT sends the value it has read to D, SIGW writes it; else the
thread parks at the next word, its region ended. A recheck writes D and wakes the thread once the condition holds (a wait that a
restore has to end, at its first read), and leaves it parked before; the reads are acquires. A recheck that has to wait leaves the
thread parked; one that traps is taken at the word, and one that faults PAGE at the word, from which the thread goes on (log 114).
R293, R386, R34: what a monitor wait's read checks and returns: R24 with W and A for MWAIT and R alone for SIGW, HOSTATOM for
MWAIT in host memory, CORRUPT; a word that the core's L1 holds other than as a clean copy has the value there, and one that no
cache holds has memory's. R178, R281: in an issue of several lanes each lane reads, and ends, waits or stops, in its turn. That a
recheck is an event with a turn of its own is the model's choice (log 1). -/
def Obligations.Monitors : Prop :=
  (∀ (s : State) (t : ThreadRef) (th : Thread),
    (∀ (f : FmtA) (eq : Bool) (v : DWord) (s1 : State), Lone s t th → s.mwaitRead t (s.readPair t f.a.toNat) = .ok v s1 →
      let i := if eq then Instr.mwaitEq f else .mwaitNe f
      let b := s.readPair t f.b.toNat
      s1.still = s.still ∧
      ((if eq then v ≠ b else v = b) → exec i s = .next (s1.modThread t (fun th => past (withLate th f.d.toNat (wordsOf v))))) ∧
      (¬(if eq then v ≠ b else v = b) → exec i s = .next (s1.modThread t (fun th =>
        { committed th with status := .parked (.mwait th.pc (s.readPair t f.a.toNat) eq b f.d.toNat false) })))) ∧
    (∀ (f : FmtS) (v : DWord) (s1 : State), Lone s t th → s.sigwRead t (s.readPair t f.a.toNat) = .ok v s1 →
      let limit := s.readPair t f.d.toNat
      let met := v.getLsbD 63 = true ∨ v.toNat % 2 ^ 63 ≤ limit.toNat
      s1.still = s.still ∧
      (met → exec (.sigw f) s = .next (s1.modThread t (fun th => past (th.setRun f.d.toNat (wordsOf v))))) ∧
      (¬met → exec (.sigw f) s = .next (s1.modThread t (fun th =>
        { committed th with status := .parked (.sigw th.pc (s.readPair t f.a.toNat) limit f.d.toNat) })))) ∧
    (∀ (pc va b v : DWord) (eq any : Bool) (d : Nat) (s1 : State), s.threads.find? (tkey t) = some th →
      th.status = .parked (.mwait pc va eq b d any) → (s.task t.task).status = .resident → s.mwaitRead t va = .ok v s1 →
      exec (.mwaitRecheck t) s =
        .next (if any = true ∨ (if eq then v ≠ b else v = b) then (s1.writePair t d v).wake t else s1)) ∧
    (∀ (pc va limit v : DWord) (d : Nat) (s1 : State), s.threads.find? (tkey t) = some th →
      th.status = .parked (.sigw pc va limit d) → (s.task t.task).status = .resident → s.sigwRead t va = .ok v s1 →
      exec (.sigwRecheck t) s =
        .next (if v.getLsbD 63 = true ∨ v.toNat % 2 ^ 63 ≤ limit.toNat then (s1.writePair t d v).wake t else s1)) ∧
    (∀ (pc va b : DWord) (x : Stop) (s1 : State) (i : Instr), s.threads.find? (tkey t) = some th → (s.task t.task).status = .resident →
      ((∃ eq d any, i = .mwaitRecheck t ∧ th.status = .parked (.mwait pc va eq b d any) ∧ s.mwaitRead t va = .stop x s1) ∨
        (∃ d, i = .sigwRecheck t ∧ th.status = .parked (.sigw pc va b d) ∧ s.sigwRead t va = .stop x s1)) →
      let back := fun (region : Bool) => s1.modThread t (fun th => if region then { th with pc := pc, regionPc := pc } else { th with pc := pc })
      exec i s = .next (match x with
        | .retry _ => s1
        | .page a sub k => (back true).takeStop t (.page a sub k)
        | .trap y => (back false).takeStop t (.trap y)))) ∧
  (∀ (s s1 : State) (t : ThreadRef) (va : DWord) (l : Loc),
    let trap := fun (u : State) (c sub : Nat) => Res.stop (α := DWord) (.trap { code := c, sub := sub, va := va }) u
    let memory := fun (m : Memory) (r : Res DWord) => ∃ u : State, r = .ok (BitVec.ofNat 64 (natOfBytes (Memory.bytes m l.pa 8))) u ∧ u.still = s.still
    let core := s.coreOf t
    let held := fun (r : Res DWord) => ∃ u : State, r = .ok (BitVec.ofNat 64 (natOfBytes ((List.range 8).map (fun i => cachedByte s1 core (l.pa + i))))) u ∧
      u.still = s.still
    (¬ va.toNat < 2 ^ 48 → ¬ IsPeer va.toNat → s.mwaitRead t va = trap s 4 1 ∧ s.sigwRead t va = trap s 4 1) ∧
    (va.toNat < 2 ^ 48 ∨ IsPeer va.toNat → va.toNat % 8 ≠ 0 → s.mwaitRead t va = trap s 2 0 ∧ s.sigwRead t va = trap s 2 0) ∧
    (s.locateVia (.core core) (s.asidOf t) va 8 .atomic = .ok l s1 →
      (l.host = true → s.mwaitRead t va = trap s1 4 9) ∧
      (l.host = false → s1.poisoned l.pa = true → s.mwaitRead t va = trap (metaRead s1 (l.pa / 256)) 15 0) ∧
      (l.host = false → s1.poisoned l.pa = false → NoNarrow s1 core → (∀ i < 8, Hits s1 core ((l.pa + i) / 4) (hitStates true)) →
        held (s.mwaitRead t va)) ∧
      (l.host = false → Quiet s1 → memory s1.mem (s.mwaitRead t va))) ∧
    (s.locate t va 8 .read = .ok l s1 →
      (l.host = false → s1.poisoned l.pa = true → s.sigwRead t va = trap (metaRead s1 (l.pa / 256)) 15 0) ∧
      (l.host = false → s1.poisoned l.pa = false → NoNarrow s1 core → (∀ i < 8, Hits s1 core ((l.pa + i) / 4) (hitStates true)) →
        held (s.sigwRead t va)) ∧
      (l.host = false → Quiet s1 → memory s1.mem (s.sigwRead t va)) ∧
      (l.host = true → NoHostWrites s core → NoNarrow s1 core → s1.l1 = [] → memory s.hostMem (s.sigwRead t va)))) ∧
  (∀ (f : FmtA) (g : FmtS) (eq : Bool) (s : State) (ls : List ThreadRef), s.actor = .lanes ls →
    exec (if eq then Instr.mwaitEq f else .mwaitNe f) s = .next (inTurn ls (fun u t =>
      let va := u.readPair t f.a.toNat
      let b := u.readPair t f.b.toNat
      lanePart t (u.mwaitRead t va) (fun v u =>
        if (if eq then v ≠ b else v = b) then u.modThread t (fun th => past (withLate th f.d.toNat (wordsOf v)))
        else ((u.modThread t (fun th => th.open_ (th.pc + 4))).park t (.mwait (u.thread t).pc va eq b f.d.toNat false)).modThread t past)) s) ∧
    exec (.sigw g) s = .next (inTurn ls (fun u t =>
      let va := u.readPair t g.a.toNat
      let limit := u.readPair t g.d.toNat
      lanePart t (u.sigwRead t va) (fun v u =>
        if v.getLsbD 63 = true ∨ v.toNat % 2 ^ 63 ≤ limit.toNat then u.modThread t (fun th => past (th.setRun g.d.toNat (wordsOf v)))
        else ((u.modThread t (fun th => th.open_ (th.pc + 4))).stand t (.parked (.sigw (u.thread t).pc va limit g.d.toNat))).modThread t past)) s))

/-- R150, R158, R162, R261: XLOC sends M·x to D, and XIDX the index whose location is the operand, where the matrix has an
inverse; both are variable-latency results and mark the last uses their word names. R45, R135, R261, R298: where the words that
name a tensor stop: HANDLE 1 above 63, HANDLE 2 where the handle is empty, a wait while a REMAP pass is in flight, EXTENT 2 and
LAYOUT 6 for an index or location beyond n bits; LDT and STT, in this order: that wait, LAYOUT 3 for q4, LAYOUT 4 for another
element size, LAYOUT 5 for a broken layout, EXTENT 2, EXTENT 1 for a phantom element under STRICT, then at the slot LAYOUT 1 where
no task holds its unit, a wait for a saved task, ALIGN and SPMRANGE, LAYOUT 2 where another member holds it, and the stop of the
access. That the wait comes before every other stop is the model's choice (log 57). -/
def Obligations.TensorRecords : Prop :=
  (∀ (f : FmtR) (s : State) (t : ThreadRef) (th : Thread) (k : Nat) (l : Layout), Lone s t th →
    Names s t (s.readG t f.b.toNat).toNat k l → l.inflight = false → l.rcd.n ≤ 48 → (∀ j < l.rcd.n, (l.cur.getD j 0).toNat < 2 ^ l.rcd.n) →
    let x := (s.readPair t f.a.toNat).toNat
    let gives := fun (v : Nat) => Host.Outcome.next (s.modThread t (fun th => past (withLate
      (th.useRuns (mark f.la [(f.a.toNat, 2)] ++ mark f.lb [(f.b.toNat, 1)])) f.d.toNat (wordsOf (BitVec.ofNat 64 v)))))
    (x < 2 ^ l.rcd.n → exec (.xloc f) s = gives (applied l.cur l.rcd.n x)) ∧
    (∀ y < 2 ^ l.rcd.n, x = applied l.cur l.rcd.n y → (invert l.cur l.rcd.n).isSome = true → exec (.xidx f) s = gives y)) ∧
  (∀ (f : FmtR) (g : FmtT) (s : State) (t : ThreadRef) (th : Thread), Lone s t th → s.collect = none →
    let trap := fun (c sub : Nat) => Host.Outcome.next (s.takeTrap t { code := c, sub := sub })
    let r := [Instr.xloc f, .xidx f]
    let q := [Instr.ldtB16 g, .ldtB32 g, .ldtB64 g, .sttB16 g, .sttB32 g, .sttB64 g, .trel g, .tstat g]
    (63 < (s.readG t f.b.toNat).toNat → ∀ i ∈ r, exec i s = trap 17 1) ∧
    (63 < (s.readG t g.bo.toNat).toNat → ∀ i ∈ q, exec i s = trap 17 1) ∧
    ((s.readG t f.b.toNat).toNat ≤ 63 → (s.task t.task).handles.find? (s.readG t f.b.toNat).toNat = none →
      ∀ i ∈ r, exec i s = trap 17 2) ∧
    ((s.readG t g.bo.toNat).toNat ≤ 63 → (s.task t.task).handles.find? (s.readG t g.bo.toNat).toNat = none →
      ∀ i ∈ q, exec i s = trap 17 2) ∧
    (∀ k l, Names s t (s.readG t f.b.toNat).toNat k l →
      (l.inflight = true → ∀ i ∈ r, exec i s = .next (s.park t (.retry (.remap k)))) ∧
      (l.inflight = false → 2 ^ l.rcd.n ≤ (s.readPair t f.a.toNat).toNat →
        exec (.xloc f) s = trap 7 2 ∧ exec (.xidx f) s = trap 6 6))) ∧
  (∀ e ∈ ([(Instr.ldtB16, Instr.sttB16, 2), (.ldtB32, .sttB32, 4), (.ldtB64, .sttB64, 8)] : List ((FmtT → Instr) × (FmtT → Instr) × Nat)),
  ∀ (f : FmtT) (s : State) (t : ThreadRef) (th : Thread) (k : Nat) (l : Layout), Lone s t th → s.collect = none →
    Names s t (s.readG t f.bo.toNat).toNat k l →
    let both := fun (o : Host.Outcome State Fault Refusal) => exec (e.1 f) s = o ∧ exec (e.2.1 f) s = o
    let trap := fun (c sub : Nat) => both (.next (s.takeTrap t { code := c, sub := sub }))
    let trapAt := fun (c sub off : Nat) => both (.next (s.takeTrap t { code := c, sub := sub, va := BitVec.ofNat 64 off }))
    let size := e.2.2
    let x := (s.readPair t f.a.toNat).toNat
    let at_ := applied l.cur l.rcd.n x
    let slots := 2 ^ (if l.rcd.spm then l.rcd.n - l.rcd.coreb else l.rcd.n - l.rcd.peerb)
    let unit := at_ / slots
    let addr := l.rcd.base + at_ % slots * size
    (l.inflight = true → both (.next (s.park t (.retry (.remap k))))) ∧
    (l.inflight = false →
      (l.rcd.etype = 14 → trap 6 3) ∧
      (l.rcd.etype ≠ 14 → l.rcd.esize ≠ size → trap 6 4) ∧
      (l.rcd.etype ≠ 14 → l.rcd.esize = size → l.broken = true → trap 6 5) ∧
      (l.rcd.etype ≠ 14 → l.rcd.esize = size → l.broken = false →
        (2 ^ l.rcd.n ≤ x → trap 7 2) ∧
        (x < 2 ^ l.rcd.n →
          (l.rcd.phantom x = true → l.rcd.strict = true → trap 7 1) ∧
          (l.rcd.phantom x = false →
            (l.rcd.spm = true → s.unitTask l unit = none → trap 6 1) ∧
            (l.rcd.spm = true → ∀ z : Task, s.unitTask l unit = some z →
              (z.status = .saved → both (.next (s.park t (.retry (.task z.age))))) ∧
              (z.status ≠ .saved → addr % size ≠ 0 → trapAt 2 0 addr) ∧
              (z.status ≠ .saved → addr % size = 0 → (s.task z.age).spmSize < addr + size → trapAt 4 7 addr)) ∧
            (l.rcd.spm = false → unit ≠ s.memberOf l → trap 6 2) ∧
            (l.rcd.spm = false → unit = s.memberOf l → ∀ r s1,
              (s.locate t (BitVec.ofNat 64 addr) size .read = .stop r s1 → exec (e.1 f) s = .next (s1.takeStop t r)) ∧
              (s.locate t (BitVec.ofNat 64 addr) size .write = .stop r s1 → exec (e.2.1 f) s = .next (s1.takeStop t r))))))))

/-- R151, R152, R159, R298: LDT and STT of an element of the right type in a tensor that is whole. A slot in memory is read or
written at BASE + slot × esize as a plain access of the thread, a slot in scratchpad in the task that holds its unit; a phantom
element reads FILLVAL under FILL and 0 under TRIM, and a store to it does nothing. R155, R157, R297, R343, R344: TDEF of a record
that passes its checks attaches a fresh handle to a new layout state with the record's matrix and answers OK, and a record whose
header is malformed answers SHAPE and attaches nothing; TREL empties a handle with no operation in flight, and ends a layout state
with its last handle; TSTAT reports the state word, the operations in flight and the progress. What a store does to a barrier
object in its way is the model's choice (log 29). -/
def Obligations.TensorAccess : Prop :=
  (∀ e ∈ ([(Instr.ldtB16, Instr.sttB16, 2), (.ldtB32, .sttB32, 4), (.ldtB64, .sttB64, 8)] : List ((FmtT → Instr) × (FmtT → Instr) × Nat)),
  ∀ (f : FmtT) (s : State) (t : ThreadRef) (th : Thread) (k : Nat) (l : Layout), Lone s t th →
    Names s t (s.readG t f.bo.toNat).toNat k l → l.inflight = false → l.broken = false → l.rcd.etype ≠ 14 → l.rcd.esize = e.2.2 →
    let size := e.2.2
    let x := (s.readPair t f.a.toNat).toNat
    x < 2 ^ l.rcd.n →
    let at_ := applied l.cur l.rcd.n x
    let slots := 2 ^ (if l.rcd.spm then l.rcd.n - l.rcd.coreb else l.rcd.n - l.rcd.peerb)
    let unit := at_ / slots
    let addr := l.rcd.base + at_ % slots * size
    let got := fun (u : State) (n : Nat) => Host.Outcome.next (u.modThread t (fun th => past (withLate th f.h.toNat
      ((List.range (if size = 8 then 2 else 1)).map (fun i => BitVec.ofNat 32 (n / 2 ^ (32 * i)))))))
    let bytes := (List.range size).map (fun i => BitVec.ofNat 8 ((s.readG t (f.h.toNat + i / 4)).toNat / 2 ^ (8 * (i % 4))))
    (l.rcd.phantom x = true → l.rcd.strict = false →
      exec (e.2.1 f) s = .next (s.modThread t past) ∧
      (l.rcd.fill = true → exec (e.1 f) s = got s (l.rcd.fillval.toNat % 2 ^ (8 * size))) ∧
      (l.rcd.fill = false → l.rcd.trim = true → exec (e.1 f) s = got s 0)) ∧
    (l.rcd.phantom x = false → l.rcd.spm = false → unit = s.memberOf l →
      (∀ b s1, s.memRead t (BitVec.ofNat 64 addr) size false = .ok b s1 → b.length = size → exec (e.1 f) s = got s1 (natOfBytes b) ∧ s1.still = s.still) ∧
      (∀ s1, s.memWrite t (BitVec.ofNat 64 addr) bytes false = .ok () s1 →
        exec (e.2.1 f) s = .next (s1.modThread t past) ∧ s1.still = s.still)) ∧
    (l.rcd.phantom x = false → l.rcd.spm = true → ∀ z : Task, s.unitTask l unit = some z → z.status ≠ .saved → addr % size = 0 →
      addr + size ≤ (s.task z.age).spmSize →
      exec (e.1 f) s = got s (natOfBytes (Memory.bytes (s.task z.age).spm addr size)) ∧
      ∃ v : State, exec (e.2.1 f) s = .next v ∧ v.mem = s.mem ∧ v.l1 = s.l1 ∧
        v.still = ((s.modTask z.age (fun k => { k with
          spm := Memory.write k.spm addr bytes
          bars := k.bars.filter (fun o => ¬(o < addr + size ∧ addr < o + 32)) })).modThread t past).still)) ∧
  (∀ (f : FmtT) (s : State) (t : ThreadRef) (th : Thread), Lone s t th →
    let h := (s.readG t f.bo.toNat).toNat
    let va := s.readPair t f.a.toNat
    let key := (s.task t.task).launch * 2 ^ 56 + va.toNat
    let z := s.task t.task
    (∀ b s1 r m, h ≤ 63 → va.toNat % 64 = 0 → s.memReadRun t va 16 32 = .ok b s1 → z.handles.find? h = none → s.layouts.find? key = none →
      s1.tdefCheck t.task h va.toNat b = (0, some (r, m)) → r.coreb = 0 →
      exec (.tdef f) s = .next ({ s1 with
          layouts := s1.layouts.put key { lseq := z.launch, va := va.toNat, asid := z.asid, stage := z.stage, rcd := r, mat := m }
          tasks := s1.tasks.modify t.task (fun k => { k with handles := k.handles.put h key }) }.modThread t
        (fun th => committed (withLate th f.h.toNat [0])))) ∧
    (∀ b s1, h ≤ 63 → va.toNat % 64 = 0 → s.memReadRun t va 16 32 = .ok b s1 → z.handles.find? h = none → s.layouts.find? key = none →
      TRec.parse b = none →
      exec (.tdef f) s = .next (s1.modThread t (fun th => committed (withLate th f.h.toNat [2])))) ∧
    (∀ k l, Names s t (s.readG t f.bo.toNat).toNat k l → s.opsOn k = 0 →
      exec (.trel f) s = .next ((s.dropHandle t.task h).modThread t (fun th => committed (withLate th f.h.toNat [0]))) ∧
      (s.dropHandle t.task h).handle? t.task h = none ∧
      ((∀ y ∈ (s.dropHandle t.task h).tasks, ∀ e ∈ y.2.handles, e.2 ≠ k) → (s.dropHandle t.task h).layouts.find? k = none)) ∧
    (∀ k l, Names s t (s.readG t f.bo.toNat).toNat k l →
      ∃ v : State, exec (.tstat f) s = .next v ∧
        v.still = (s.modThread t (fun th => past (withLate th f.h.toNat
          [BitVec.ofNat 32 l.word, BitVec.ofNat 32 (s.opsOn k), l.prog0, l.prog1]))).still ∧ (NoNarrow s (s.coreOf t) → v.mem = s.mem)))

/-- R338, R340: an engine word first finds its record: a misaligned offset traps ALIGN, one past SPMSIZE PROT SPMRANGE; a record
with another CMD, or with a nonzero byte past offset 0x38, answers RECORD, starts nothing, and is a commit point. R302, R345, R85:
TCOPY between two tensors that fit starts the copy at its first chunk, adds the bytes it will write to PENDB of its object, sets
the destination's progress and answers OK; a copy of a tensor to itself moves nothing. R353, R354, R302: TMERGE of two runs, and
each transform of TXF, starts its operation where its tensors fit, counts the bytes it will write and answers OK. The model's
choices: a copy of a tensor to itself does not bind its channel (log 65); each range of TXF must lie in its tensor (log 26). -/
def Obligations.EngineStarts : Prop :=
  (∀ e ∈ engineWords, ∀ (f : FmtT) (s : State) (t : ThreadRef) (th : Thread), Lone s t th → s.collect = none →
    let off := (s.readG t f.h.toNat).toNat
    (off % 64 ≠ 0 → exec (e.1 f) s = .next (s.takeTrap t { code := 2, sub := 0, va := BitVec.ofNat 64 off }).settleBarriers) ∧
    (off % 64 = 0 → (s.task t.task).spmSize < off + 64 →
      exec (e.1 f) s = .next (s.takeTrap t { code := 4, sub := 7, va := BitVec.ofNat 64 off }).settleBarriers) ∧
    (InSpm s t off 64 → (cmd s t f).getD 0 0 % 256 ≠ e.2 ∨ (cmd s t f).getD 7 0 ≠ 0 →
      ∃ v : State, exec (e.1 f) s = .next (answered v t f.a.toNat 6) ∧ v.engines = s.engines ∧ v.tasks = s.tasks ∧ v.mem = s.mem)) ∧
  (∀ (f : FmtT) (s : State) (t : ThreadRef) (th : Thread) (bar src dst chan red mask foloff first : Nat) (ovl mcast follow chv : Bool)
    (ka kd : Nat) (a d : Layout),
    Commanded s t th f [2 + 2 ^ 8 * b2n ovl + 2 ^ 9 * b2n mcast + 2 ^ 10 * b2n follow + 2 ^ 11 * b2n chv + 2 ^ 32 * bar,
      src + 2 ^ 8 * dst + 2 ^ 16 * chan + 2 ^ 24 * red, mask, foloff, first, 0, 0, 0] bar →
    chan < 16 → red < 8 → mask < 2 ^ 8 → foloff < 2 ^ 32 → first < 2 ^ 32 → bar < 2 ^ 32 →
    Names s t src ka a → Names s t dst kd d → Whole a → Whole d → Measured d.rcd → CopyFits a.rcd d.rcd ovl mcast chv red first →
    let e := 4096 / d.rcd.esize
    let z := s.task t.task
    let s1 := if mcast then s.modLaunch z.launch (fun l => { l with pinned := true }) else s
    (ka ≠ kd → Apart a d ∨ ovl = true →
      (chv = true → ∀ x ∈ s.engines, ∀ a d o m fo r k fl, x.2.kind ≠ .tcopy a d o m fo true chan r k fl ∨ x.2.core ≠ z.phys) →
      ∃ n p : Nat, ((p = 1 ∧ ¬Apart a d) ∨ (p = 0 ∧ Apart a d)) ∧ n = elementBytes d.rcd (first * e) (2 ^ d.rcd.n) ∧
      let u := started s1 { opBy s t th (.tcopy ka kd ovl mcast follow chv chan red mask foloff) bar n first ((2 ^ d.rcd.n + e - 1) / e)
        with prog2 := p }
      let w := progressed u kd s.nextEngine (if p = 1 then 0 else first) 0
      let y := if chv then
          w.modTask t.task (fun k => { k with wps := k.wps.put chan (min (d.rcd.base + first * 4096) (d.rcd.base + d.rcd.size)) })
        else w
      exec (.tcopy f) s = .next (answered ((y.modLayout ka (fun l => { l with last := 0 })).modLayout kd (fun l => { l with last := 0 }))
        t f.a.toNat 0)) ∧
    (ka = kd → red = 0 → follow = false →
      let w := progressed s1 kd s.nextEngine ((2 ^ d.rcd.n + e - 1) / e) 0
      exec (.tcopy f) s = .next (answered ((w.modLayout ka (fun l => { l with last := 0 })).modLayout kd (fun l => { l with last := 0 }))
        t f.a.toNat 0))) ∧
  (∀ (f : FmtT) (s : State) (t : ThreadRef) (th : Thread) (bar hd hs hi kd ks ki : Nat) (d x i : Layout), bar < 2 ^ 32 →
    Names s t hd kd d → Whole d → Measured d.rcd → d.rcd.peerb = 0 → d.rcd.etype ≠ 14 →
    let es := d.rcd.esize
    let one := fun (l : Layout) => l.rcd.rank = 1
    let source := fun (h k : Nat) (l : Layout) =>
      Names s t h k l ∧ Whole l ∧ l.rcd.peerb = 0 ∧ l.rcd.etype ≠ 14 ∧ Unshared l d ∧ h < 64
    let begins := fun (s : State) (k : EngKind) (bytes prog stop p2 p3 a b : Nat) => Host.Outcome.next (answered
      (progressed (started s { opBy s t th k bar bytes prog stop with prog2 := p2, prog3 := p3 }) kd s.nextEngine a b) t f.a.toNat 0)
    (∀ (signed : Bool) (na nb ca cb : Nat), Commanded s t th f [4 + 2 ^ 8 * b2n signed + 2 ^ 32 * bar, hs + 2 ^ 8 * hi + 2 ^ 16 * hd,
        na + 2 ^ 32 * nb, ca + 2 ^ 32 * cb, 0, 0, 0, 0] bar → source hs ks x → source hi ki i → hd < 64 → kd ≠ ks → kd ≠ ki →
      one d → one x → one i → 16 ≤ x.rcd.etype → i.rcd.etype = x.rcd.etype → d.rcd.etype = x.rcd.etype →
      na < 2 ^ 32 → nb < 2 ^ 32 → ca ≤ na → cb ≤ nb → na ≤ x.rcd.ext.getD 0 0 → nb ≤ i.rcd.ext.getD 0 0 → na + nb ≤ d.rcd.ext.getD 0 0 →
      let s1 := progressed s kd s.nextEngine ca cb
      (ca + cb = na + nb → exec (.tmerge f) s = .next (answered s1 t f.a.toNat 0)) ∧
      (ca + cb < na + nb → exec (.tmerge f) s = .next (answered (started s1
        { opBy s t th (.tmerge ks ki kd signed na nb) bar ((na + nb - ca - cb) * es) ca 0 with prog2 := cb }) t f.a.toNat 0))) ∧
    (∀ (value start count p st : Nat), value < 2 ^ 64 → start < 2 ^ 32 → count < 2 ^ 32 →
      let fin := fun (n : Nat) => if count = 0 then 2 ^ n else start + count
      let within := fun (l : Layout) (n : Nat) => start < 2 ^ l.rcd.n ∧ fin n ≤ 2 ^ l.rcd.n
      let rec_ := fun (op : Nat) => [5 + 2 ^ 32 * bar, op + 2 ^ 8 * hd + (if op = 1 then 0 else 2 ^ 16 * hs) +
        (if op = 2 ∨ op = 3 then 2 ^ 24 * hi else 0), value, start + 2 ^ 32 * count, p + 2 ^ 32 * st, 0, 0, 0]
      let s0 := s.drain (s.task t.task).phys
      p < 2 ^ 32 → st < 512 → hd < 64 →
      (Commanded s t th f (rec_ 1) bar → within d d.rcd.n → exec (.txf f) s = begins s0 (.fill kd (BitVec.ofNat 64 value))
        (elementBytes d.rcd start (fin d.rcd.n)) start (fin d.rcd.n) 0 0 start 0) ∧
      (Commanded s t th f (rec_ 2) bar → source hs ks x → source hi ki i → x.rcd.etype = d.rcd.etype → i.rcd.etype < 4 → one d → one i →
        within d d.rcd.n → within i d.rcd.n → exec (.txf f) s = begins s0 (.gather kd ks ki)
        (elementBytes d.rcd start (fin d.rcd.n)) start (fin d.rcd.n) 0 0 start 0) ∧
      (Commanded s t th f (rec_ 3) bar → source hs ks x → source hi ki i → x.rcd.etype = d.rcd.etype → i.rcd.etype < 4 → one x → one i →
        within x x.rcd.n → within i x.rcd.n → ∃ (s1 : State) (n : Nat), s1.still = s.still ∧
          exec (.txf f) s = begins s1 (.scatter kd ks ki) (es * n) start (fin x.rcd.n) 0 0 start 0) ∧
      (Commanded s t th f (rec_ 4) bar → source hs ks x → x.rcd.etype = 11 → x.table ≠ [] → d.rcd.etype ∈ [0, 1, 2, 3, 10, 11, 12, 13] →
        one d → one x → count ≠ 0 → within d d.rcd.n → exec (.txf f) s = begins s0 (.decode kd ks start)
        (count * es) p (start + count) st start p st) ∧
      (Commanded s t th f (rec_ 5) bar → source hs ks x → x.rcd.etype ∈ [0, 1, 2, 3, 10, 11, 12, 13] → d.rcd.etype < 4 → one d → one x →
        within d d.rcd.n → within x d.rcd.n → exec (.txf f) s = begins s0 (.undelta kd ks (BitVec.ofNat 64 value))
        (elementBytes d.rcd start (fin d.rcd.n)) start (fin d.rcd.n) value 0 start 0)))

/-- R163, R164, R165, R169, R351: REMAP and REMAP.step of a settled tensor. Rows that are whole and invertible become the target
matrix; M1 is built, and the passes that M0, M1 and M2 ask for are started (REMAP.step: one of them), or none where none moves an
element; a tensor between two steps goes on with its next pass without new rows. R302, R307, R308, R334, R335, R355: MXGO of
records that fit starts a product from step START, clears the report and counts the bytes of the tiles it will finish; RROT issues
the launch's next rotation on its core; TLDTAB of well-formed entries whose last one is none's continuation loads the table. That
BUSY and SHAPE are tested before the rows are read is the model's choice (log 54). -/
def Obligations.RemapAndMatrixStarts : Prop :=
  ((∀ (f : FmtT) (s : State) (t : ThreadRef) (th : Thread) (bar h w k : Nat) (l : Layout) (step : Bool),
    Commanded s t th f [3 + 2 ^ 32 * bar, h, w, 0, 0, 0, 0, 0] bar → bar < 2 ^ 32 → Names s t h k l → Whole l → l.rcd.etype ≠ 14 →
    w < 2 ^ 56 ∨ (2 ^ 63 ≤ w ∧ w < 2 ^ 63 + 2 ^ 32) →
    (∀ e ∈ s.engines, k ∉ e.2.kind.lays) →
    let i := if step then Instr.remapStep f else .remap f
    let pass := fun (s : State) (n : Nat) => started (s.modLayout k (fun l => { l with inflight := true, hits := [] }))
      (opBy s t th (.remap k (!step)) bar (l.rcd.sizeAll * n) 0 0)
    let ok := fun (s : State) => Host.Outcome.next (answered (s.modLayout k (fun l => { l with last := 0 })) t f.a.toNat 0)
    let n := l.rcd.n
    (l.stepping = true → exec i s = ok (pass s 1)) ∧
    (l.stepping = false → ∀ b s1, Table_ s t w 64 16 24 b s1 → (∀ j < 48, dword b j < if j < n then 2 ^ n else 1) →
      let m2 := (List.range n).map (fun j => BitVec.ofNat 48 (dword b j))
      l.rcd.trimOk m2 = true → (invert m2 n).isSome = true →
      let m1 := buildM1 l.cur m2 n l.rcd.o
      let passes := (if m1 = l.cur then 0 else 1) + (if m1 = m2 then 0 else 1)
      (passes = 0 ∨ l.rcd.sv = true) → n ≤ 48 →
      let s2 := s1.modLayout k (fun l => { l with mat := l.cur, m1 := m1, m2 := m2, matno := if passes = 0 then 2 else 0, passes := passes })
      exec i s = ok (if passes = 0 then s2 else pass s2 (if step then 1 else passes)))) ∧
  (∀ (m0 m2 : List (BitVec 48)) (n o j : Nat), o ≤ j → j < n → n ≤ m2.length → (buildM1 m0 m2 n o).getD j 0 = m2.getD j 0)) ∧
  ((∀ (f : FmtT) (s : State) (t : ThreadRef) (th : Thread) (bar ha hb hc ka kb kc start tile : Nat) (accum : Bool) (a b c : Layout),
    Commanded s t th f [6 + 2 ^ 8 * b2n accum + 2 ^ 9 * tile + 2 ^ 32 * bar, ha + 2 ^ 8 * hb + 2 ^ 16 * hc, start, 0, 0, 0, 0, 0] bar →
    bar < 2 ^ 32 → tile < 2 → start < 2 ^ 32 → Names s t ha ka a → Names s t hb kb b → Names s t hc kc c →
    Whole a → Whole b → Whole c →
    let core := (s.task t.task).phys
    let m := a.rcd.ext.getD 0 0
    let n := b.rcd.ext.getD 1 0
    let kk := a.rcd.ext.getD 1 0
    let mt := (m + 255) / 256
    let nt := (n + 127) / 128
    let steps := (kk + 127) / 128
    MayLease s core t.task → (∀ e ∈ s.engines, EngKind.isMxgo e.2.kind = true → e.2.core ≠ core) →
    a.rcd.rank = 2 → b.rcd.rank = 2 → c.rcd.rank = 2 → 6 ≤ a.rcd.etype → a.rcd.etype ≤ 11 → b.rcd.etype = a.rcd.etype →
    c.rcd.etype = (if 10 ≤ a.rcd.etype then 0 else 4) → b.rcd.ext.getD 0 0 = kk → c.rcd.ext.getD 0 0 = m → c.rcd.ext.getD 1 0 = n →
    a.rcd.peerb = 0 → b.rcd.peerb = 0 → c.rcd.peerb = 0 → start < mt * nt * steps →
    kc ≠ ka → kc ≠ kb → Apart a c → Apart b c →
    let bytes := 4 * ((List.range (mt * nt - start / steps)).map (fun i => tileSize m n (start / steps + i))).sum
    exec (.mxgo f) s = .next (answered
      { started s (opBy s t th (.mxgo ka kb kc accum tile) bar bytes start (mt * nt * steps)) with
        tmems := s.tmems.put core { leased s core t.task with p := BitVec.ofNat 32 start, done := false, error := false, status := 0 } }
      t f.a.toNat 0)) ∧
  (∀ (f : FmtT) (s : State) (t : ThreadRef) (th : Thread) (l : Launch), Lone s t th → s.collect = none →
    let z := s.task t.task
    let src := (s.readG t f.a.toNat).toNat
    let dst := (s.readG t (f.a.toNat + 1)).toNat
    let n := (s.readG t f.bo.toNat).toNat
    let bar := (s.readG t f.h.toNat).toNat
    src % 64 = 0 → dst % 64 = 0 → n % 64 = 0 → 64 ≤ n → n ≤ 262144 → src + n ≤ z.spmSize → dst + n ≤ z.spmSize → InSpm s t bar 32 →
    s.launches.find? z.launch = some l →
    let i := (l.rrots.find? z.phys).getD 0
    exec (.rrot f) s = .next ((started { s with launches := s.launches.put z.launch { l with rrots := l.rrots.put z.phys (i + 1), pinned := true } }
      (opBy s t th (.rrot src dst n i none false) bar n 0 0)).modThread t committed).settleBarriers) ∧
  (∀ (f : FmtT) (s : State) (t : ThreadRef) (th : Thread) (h k w n : Nat) (l : Layout) (b : List Byte) (s1 : State), Lone s t th →
    s.collect = none → InSpm s t (s.readG t f.h.toNat).toNat 64 → cmd s t f = [7, h, w, n, 0, 0, 0, 0] →
    Names s t h k l → Whole l → (∀ e ∈ s.engines, k ∉ e.2.kind.lays) → 1 ≤ n → n ≤ 512 → Table_ s t w 8 8 n b s1 →
    (∀ i < n, let e := dword b i
      e % 16 ≤ 12 ∧ e / 2 ^ 4 % 2 ^ 12 < 2 ^ (e % 16) ∧ e / 2 ^ 16 % 16 ≤ 12 ∧ e / 2 ^ 20 % 8 ≤ 4 ∧ e / 2 ^ 24 % 2 ^ 9 < n ∧ e / 2 ^ 33 % 2 ^ 7 = 0) →
    dword b (n - 1) / 2 ^ 23 % 2 = 0 →
    exec (.tldtab f) s = .next (answered
      (s1.modLayout k (fun l => { l with table := (List.range n).map (fun i => BitVec.ofNat 64 (dword b i)) })) t f.a.toNat 0)))

/-- R173, R302, R353, R354, R356, R389: an action of an engine operation. One that is suspended or unknown does nothing. Each acts
after its walk-ahead, which touches translations only (R30; depth: log 99). FILL writes VALUE's low bytes to its next element;
GATHER the element that its index names, or FILLVAL or zero where the index is out of range; SCATTER its next source element at
the index, or nothing; UNDELTA the sum of the element before and its source element; each counts what it wrote and completes after
its last element. TMERGE writes the record of A whose key is not greater than B's, else B's; when one run is used up, the other's
records in their order. DECODE follows the entry that matches at its bit: it emits SYM or the bits that follow, converted, skips
or ends, or fails where none matches or the stream ends first. TCOPY writes the elements of its next chunk, each converted (R346)
or FILLVAL for a phantom one, in the order of the chunk and after all have been read; the spill writes them to the staging area,
from which the chunks are then taken; a PAGE fault suspends it with nothing of the chunk written; a multicast (R349) also writes
its elements to each task of the launch on the cores of MASK, and counts them there, or sets ERROR where a core has none that
covers the range; FOLLOW fires after the last chunk. R39, R40, R403: an action of RGET or RPUT reads the window tables, which may
fail it, or sends its next piece, split at the 4 KiB boundaries of the target address; a piece that cannot leave, or whose local
side traps, ends it with a record and ERROR, and a PAGE fault suspends it; an armed send of a task that has not ended does the
same (R412). R195, R196, R332, R335, R336: a step of MXGO multiplies its block of A by its block of B onto the tile (onto zeros at
a tile's first step, without ACCUM) and moves P and STEP on; the last step of a tile also writes its elements to C and counts
them, and that of the product ends it, with DONE set and both planes left open; on a core without a product nothing happens. That
each element is a WrN of its own is the model's choice (log 98). -/
def Obligations.EngineProgress : Prop :=
  ((∀ (s : State) (op : Nat), s.engines.find? op = none → exec (.engineChunk op) s = .next s) ∧
  (∀ (s : State) (op : Nat) (o : EngineOp), s.engines.find? op = some o → o.susp ≠ none →
    exec (.engineChunk op) s = .next s.settleBarriers) ∧
  (∀ (s : State) (o : EngineOp), (s.engineAhead o).still = s.still) ∧
  (∀ (s : State) (op : Nat) (o : EngineOp) (k : Nat) (value : DWord) (l : Layout), s.engines.find? op = some o → Runs s o →
    o.kind = .fill k value → s.layouts.find? k = some l →
    Writes s (s.engineAhead o) op o k l o.prog ((List.range l.rcd.esize).map (fun i => BitVec.ofNat 8 (value.toNat / 2 ^ (8 * i)))) 0) ∧
  (∀ (s s1 : State) (op : Nat) (o : EngineOp) (kd kx ki : Nat) (d x i : Layout) (b : List Byte), s.engines.find? op = some o → Runs s o →
    s.layouts.find? kd = some d → s.layouts.find? kx = some x → s.layouts.find? ki = some i → i.rcd.etype < 4 →
    (s.engineAhead o).elementLoad o i i.cur o.prog = .ok b s1 → b.length = i.rcd.esize → s1.engines = s.engines →
    let v := integer i.rcd.etype i.rcd.esize (natOfBytes b)
    (o.kind = .gather kd kx ki →
      (v < 0 ∨ 2 ^ x.rcd.n ≤ v → Writes s s1 op o kd d o.prog
        ((List.range x.rcd.esize).map (fun i => if x.rcd.fill then BitVec.ofNat 8 (x.rcd.fillval.toNat / 2 ^ (8 * i)) else 0)) 0) ∧
      (0 ≤ v → v < 2 ^ x.rcd.n → ∀ y s2, s1.elementLoad o x x.cur v.toNat = .ok y s2 → Writes s s2 op o kd d o.prog y 0)) ∧
    (o.kind = .scatter kd kx ki →
      (v < 0 ∨ 2 ^ d.rcd.n ≤ v → exec (.engineChunk op) s =
        movesOn s1 op { o with prog := o.prog + 1, prog2 := 0 } kd (o.prog + 1) 0 (o.stop ≤ o.prog + 1)) ∧
      (0 ≤ v → v < 2 ^ d.rcd.n → ∀ y s2, s1.elementLoad o x x.cur o.prog = .ok y s2 → Writes s s2 op o kd d v.toNat y 0))) ∧
  (∀ (s s1 : State) (op : Nat) (o : EngineOp) (kd kx : Nat) (base : DWord) (d x : Layout) (b : List Byte), s.engines.find? op = some o →
    Runs s o → o.kind = .undelta kd kx base → s.layouts.find? kd = some d → s.layouts.find? kx = some x →
    x.rcd.etype ∈ [0, 1, 2, 3, 10, 11, 12, 13] → (s.engineAhead o).elementLoad o x x.cur o.prog = .ok b s1 → b.length = x.rcd.esize →
    let v := ((o.prog2 + integer x.rcd.etype x.rcd.esize (natOfBytes b)) % 2 ^ (8 * d.rcd.esize)).toNat
    Writes s s1 op o kd d o.prog ((List.range d.rcd.esize).map (fun i => BitVec.ofNat 8 (v / 2 ^ (8 * i)))) v) ∧
  (∀ (s s1 s2 s3 : State) (op : Nat) (o : EngineOp) (ka kb kd na nb : Nat) (signed : Bool) (a b d : Layout) (x y : List Byte) (p : Place),
    s.engines.find? op = some o → Runs s o → o.kind = .tmerge ka kb kd signed na nb →
    s.layouts.find? ka = some a → s.layouts.find? kb = some b → s.layouts.find? kd = some d → o.prog < na → o.prog2 < nb →
    (s.engineAhead o).elementLoad o a a.cur o.prog = .ok x s1 → s1.elementLoad o b b.cur o.prog2 = .ok y s2 →
    s2.elementDest o d d.cur (o.prog + o.prog2) = .ok p s3 → s3.engines = s.engines →
    let key := fun (v : List Byte) =>
      if signed then (BitVec.ofNat 64 (natOfBytes (v.take 8))).toInt else ((natOfBytes (v.take 8) : Nat) : Int)
    let first := key x ≤ key y
    let ca := if first then o.prog + 1 else o.prog
    let cb := if first then o.prog2 else o.prog2 + 1
    exec (.engineChunk op) s = movesOn (counted (s3.placePut o p (if first then x else y)) op o d.rcd.esize) op
      { o with remain := o.remain - min d.rcd.esize o.remain, prog := ca, prog2 := cb } kd ca cb False) ∧
  (∀ (s s1 s2 : State) (op : Nat) (o : EngineOp) (ka kb kd na nb : Nat) (signed : Bool) (a b d : Layout) (v : List Byte) (p : Place),
    s.engines.find? op = some o → Runs s o → o.kind = .tmerge ka kb kd signed na nb →
    s.layouts.find? ka = some a → s.layouts.find? kb = some b → s.layouts.find? kd = some d →
    let first := o.prog < na
    (first ↔ nb ≤ o.prog2) →
    (s.engineAhead o).elementLoad o (if first then a else b) (if first then a else b).cur (if first then o.prog else o.prog2) = .ok v s1 →
    s1.elementDest o d d.cur (o.prog + o.prog2) = .ok p s2 → s2.engines = s.engines →
    let ca := if first then o.prog + 1 else o.prog
    let cb := if first then o.prog2 else o.prog2 + 1
    exec (.engineChunk op) s = movesOn (counted (s2.placePut o p v) op o d.rcd.esize) op
      { o with remain := o.remain - min d.rcd.esize o.remain, prog := ca, prog2 := cb } kd ca cb (na ≤ ca ∧ nb ≤ cb))) ∧
  ((∀ (s : State) (op : Nat) (o : EngineOp) (kd kx start : Nat) (d x : Layout), s.engines.find? op = some o → Runs s o →
    o.kind = .decode kd kx start → s.layouts.find? kd = some d → s.layouts.find? kx = some x → d.rcd.etype ∈ [0, 1, 2, 3, 10, 11, 12, 13] →
    let len := 8 * x.rcd.ext.getD 0 0
    let s0 := s.engineAhead o
    let ends := fun (u : State) (o : EngineOp) => exec (.engineChunk op) s = .next (finished u op o).settleBarriers
    let fails := fun (u : State) => ∀ b, o.bar = some b →
      exec (.engineChunk op) s = .next (({ u with engines := u.engines.erase op }.countOff o.task b o.remain true).settleBarriers)
    (o.stop ≤ o.prog3 ∨ o.prog = len → ends s0 o) ∧
    (o.prog3 < o.stop → o.prog ≠ len →
      (∀ s1, s0.matchEntry o x o.prog (x.table.drop o.prog2) = .ok none s1 → fails s1) ∧
      (∀ e s1, s0.matchEntry o x o.prog (x.table.drop o.prog2) = .ok (some e) s1 → s1.engines = s.engines →
        let q := o.prog + entry e 19 16
        let act := entry e 22 20
        let n := entry e 44 40 + 1
        let goes := fun (u : State) (p n z st : Nat) => exec (.engineChunk op) s =
          movesOn u op { o with remain := o.remain - z, prog := p, prog2 := st, prog3 := o.prog3 + n } kd p (st + 512 * (o.prog3 + n - start))
            (o.stop ≤ o.prog3 + n)
        let emits := fun (u : State) (p : Nat) (v : Int) =>
          let y := (List.range d.rcd.esize).map (fun i => BitVec.ofNat 8 (clamped d.rcd.etype d.rcd.esize v / 2 ^ (8 * i)))
          (d.rcd.trim = true → d.rcd.phantom o.prog3 = true → goes (counted u op o d.rcd.esize) p 1 (min d.rcd.esize o.remain) (entry e 32 24)) ∧
          (d.rcd.trim = false ∨ d.rcd.phantom o.prog3 = false → ∀ pl w, u.elementDest o d d.cur o.prog3 = .ok pl w → w.engines = s.engines →
            goes (counted (w.placePut o pl y) op o d.rcd.esize) p 1 (min d.rcd.esize o.remain) (entry e 32 24))
        (len < q → fails s1) ∧
        (q ≤ len → (act = 2 → goes s1 q 0 0 (entry e 32 24)) ∧ (act = 0 → emits s1 q (entry e 63 40)) ∧
          (act = 3 → ends (progressed s1 kd op q (o.prog2 + 512 * (o.prog3 - start))) { o with prog := q }) ∧
          (act = 1 ∨ act = 4 → len < q + n → fails s1) ∧
          (act = 1 ∨ act = 4 → q + n ≤ len → ∀ v s2, s1.peekBits o x q n = .ok v s2 → v < 2 ^ n → s2.engines = s.engines →
            emits s2 (q + n) (if act = 4 then (BitVec.ofNat n v).toInt else v)))))) ∧
  (∀ (s : State) (o : EngineOp) (x : Layout) (p : Nat), s.matchEntry o x p [] = .ok none s ∧ s.peekBits o x p 0 = .ok 0 s ∧
    (∀ e r v s1, s.peekBits o x p (entry e.toNat 3 0) = .ok v s1 → s.matchEntry o x p (e :: r) =
      if v = entry e.toNat 15 4 then .ok (some e.toNat) s1 else if e.toNat.testBit 23 then s1.matchEntry o x p r else .ok none s1) ∧
    (∀ k v s1, (8 * x.rcd.ext.getD 0 0 ≤ p + k → s.peekBits o x p k = .ok v s1 → s.peekBits o x p (k + 1) = .ok v s1) ∧
      (p + k < 8 * x.rcd.ext.getD 0 0 → ∀ b s0, s.elementLoad o x x.cur ((p + k) / 8) = .ok b s0 → s0.peekBits o x p k = .ok v s1 →
        s.peekBits o x p (k + 1) = .ok (v + 2 ^ k * (natOfBytes b / 2 ^ ((p + k) % 8) % 2)) s1)))) ∧
  ((∀ (s : State) (op : Nat) (o : EngineOp) (ka kd chan red mask foloff : Nat) (ovl mcast follow chv : Bool) (a d : Layout),
    s.engines.find? op = some o →
    Runs s o → o.kind = .tcopy ka kd ovl mcast follow chv chan red mask foloff → s.layouts.find? ka = some a → s.layouts.find? kd = some d →
    let spill := o.prog2 = 1
    let one := fun (s : State) (x : Nat) => (s.copyValue o a d mcast (o.prog2 == 2) x).andThen (fun v s => match v with
      | none => Res.ok none s
      | some b => (s.copyDest o d mcast (if spill then d.rcd.stage else d.rcd.base) x).andThen (fun q s => .ok (some (q, b)) s))
    let r := eachOf one (if spill then List.range (2 ^ d.rcd.n) else chunk d chv o.prog) (s.engineAhead o)
    (∀ ws s1, r = .ok ws s1 → s1.engines = s.engines →
      (spill → exec (.engineChunk op) s =
        movesOn (ws.foldl (fun s w => s.placePut o w.1 w.2) s1) op { o with prog2 := 2 } kd o.prog 0 False) ∧
      (¬spill →
        let put := ws.foldl (fun s w => s.copyPut o red w.1 w.2) s1
        let sent := ws.filterMap (fun w => match w.1 with
          | .spm _ off => some (off, w.2)
          | .mem _ => none)
        let u := counted (if mcast then put.mcastPut o d.rcd mask red sent else put) op o (d.rcd.esize * ws.length)
        let o' := { o with remain := o.remain - min (d.rcd.esize * ws.length) o.remain, prog := o.prog + 1 }
        let w := progressed { u with engines := u.engines.put op o' } kd op (o.prog + 1) 0
        let wp := min (d.rcd.base + (o.prog + 1) * 4096) (d.rcd.base + d.rcd.size)
        let y := if chv then w.modTask o.task (fun k => { k with wps := k.wps.put chan wp }) else w
        exec (.engineChunk op) s = .next (if o.prog + 1 < o.stop then y
          else if follow then (finished y op o').followOn o foloff else finished y op o').settleBarriers)) ∧
    (∀ va sub k s1, r = .stop (.page va sub k) s1 → exec (.engineChunk op) s = .next (s1.suspendOp op o va sub k).settleBarriers)) ∧
  (∀ (s : State) (o : EngineOp) (d : TRec) (i b red : Nat) (ws : List (Nat × List Byte)), i < 8 → o.bar = some b →
    let reaches := fun (s : State) => s.mcastPut o d (2 ^ i) red ws
    let core := o.core / 8 * 8 + i
    (i = o.core % 8 → reaches s = s) ∧
    (i ≠ o.core % 8 → s.launchOn o core = [] → reaches s = s.countOff o.task b 0 true) ∧
    (∀ k : Task, i ≠ o.core % 8 → s.launchOn o core = [k] → (k.spmSize < d.base + d.size → reaches s = s.countOff o.task b 0 true) ∧
      (d.base + d.size ≤ k.spmSize → b % 32 = 0 → b + 32 ≤ k.spmSize → s.tasks.find? k.age = some k → k.status = .resident →
        reaches s = (ws.foldl (fun s w => s.bankPut k.age w.1 red w.2) s).countOff k.age b ((ws.map (fun w => w.2.length)).sum) false))) ∧
  (∀ (s : State) (o : EngineOp) (a d : Layout) (x : Nat) (staged : Bool),
    let y := s.copyValue o a d false staged x
    let filled := d.rcd.fill && d.rcd.phantom x
    let gives := fun (n : Nat) (s : State) => y = .ok (some ((List.range d.rcd.esize).map (fun i => BitVec.ofNat 8 (n / 2 ^ (8 * i))))) s
    (d.rcd.trim = true → d.rcd.phantom x = true → y = .ok none s) ∧
    (d.rcd.trim = false ∨ d.rcd.phantom x = false →
      (staged = true → ∀ b s1, s.slotLoad o d d.rcd.stage (d.rcd.place (applied d.cur d.rcd.n x)).1 (d.rcd.place (applied d.cur d.rcd.n x)).2 = .ok b s1 →
        y = .ok (some b) s1) ∧
      (staged = false → filled = true → gives d.rcd.fillval.toNat s) ∧
      (staged = false → filled = false → a.rcd.etype ≠ 14 → ∀ b s1, s.elementLoad o a a.cur x = .ok b s1 →
        (∀ p q, Fp.Ty.ofCode d.rcd.etype = some p → Fp.Ty.ofCode a.rcd.etype = some q → gives (Fp.convert p q .rns (natOfBytes b)).bits s1) ∧
        (16 ≤ a.rcd.etype → b.length = d.rcd.esize → y = .ok (some b) s1))))) ∧
  (∀ (s : State) (op : Nat) (o : EngineOp) (a n : Nat) (spm : Bool) (p : DWord) (how : PacketKind), s.engines.find? op = some o →
    o.susp = none → RemoteOp s o a spm p n how → IsPeer p.toNat →
    let perm := if how = .get then 1 else 2
    let fails := fun (u : State) (reason : Nat) (va : DWord) =>
      exec (.engineChunk op) s = .next (remoteFailed u op o (operationRecord o 5 reason va (peerAt p))).settleBarriers
    let w := (s.ctx o.asid).2.window o.asid p n perm
    (o.target = none → GoodContext (s.ctx o.asid).1 →
      (∀ x, w.1 = .ok x → exec (.engineChunk op) s = .next ({ w.2 with engines := w.2.engines.modify op (fun o => { o with
        target := some x.target, key := x.key, jobkey := x.jobkey, cls := x.cls,
        queue := List.range ((x.target % 4096 + n + 4095) / 4096), left := List.range ((x.target % 4096 + n + 4095) / 4096) }) } :
          State).settleBarriers) ∧
      (∀ r, w.1 = .error r → w.2.engines = s.engines → r < 256 → fails w.2 r p)) ∧
    (∀ target, o.target = some target → o.queue = [] → exec (.engineChunk op) s = .next s.settleBarriers) ∧
    (∀ target i rest, o.target = some target → o.queue = i :: rest → o.stale = false →
      let at_ := piece target n i
      let goes := fun (u : State) (q : Packet) => exec (.engineChunk op) s =
        .next ({ u.send o.func q with engines := (u.send o.func q).engines.modify op (fun o => { o with queue := rest }) } : State).settleBarriers
      let stops := fun (r : Stop) (u : State) => (∀ va sub k, r = .page va sub k →
          exec (.engineChunk op) s = .next (u.suspendOp op o va sub k).settleBarriers) ∧
        (∀ x, r = .trap x → u.engines = s.engines →
          exec (.engineChunk op) s = .next (remoteFailed u op o (operationRecord o x.code x.sub x.va x.peer)).settleBarriers)
      let q : Packet := { blankPacket with
        kind := how, dst := peerAt p, cls := o.cls, op := op, piece := i, pieces := (target % 4096 + n + 4095) / 4096,
        target := target + at_.1, len := at_.2, key := o.key, jobkey := o.jobkey, last := decide (i + 1 = (target % 4096 + n + 4095) / 4096) }
      (s.reachable (peerAt p) = false → fails s 10 (p + BitVec.ofNat 64 at_.1)) ∧
      (s.reachable (peerAt p) = true →
        (how = .get → (∀ ds u, s.localDest o spm (a + at_.1) at_.2 = .ok ds u → goes u q) ∧
          (∀ r u, s.localDest o spm (a + at_.1) at_.2 = .stop r u → stops r u)) ∧
        (∀ cntv inc dcnt, o.kind = .rput a spm p n cntv inc dcnt ∨ o.kind = .tsend a p n cntv inc dcnt →
          (∀ b u, s.localLoad o spm (a + at_.1) at_.2 = .ok b u →
            goes u { q with payload := b, cntv := cntv, incmode := inc, dcnt := dcnt }) ∧
          (∀ r u, s.localLoad o spm (a + at_.1) at_.2 = .stop r u → stops r u))))) ∧
  ((∀ (s : State) (core : Nat), (∀ e ∈ s.engines, EngKind.isMxgo e.2.kind = true → e.2.core ≠ core) → exec (.mxgoStep core) s = .next s) ∧
  (∀ (s : State) (core id : Nat) (o : EngineOp) (ka kb kc tile : Nat) (accum : Bool) (c0s av bv : List Nat) (s0 s1 s2 : State),
    List.find? (fun (e : Nat × EngineOp) => EngKind.isMxgo e.2.kind && e.2.core == core) s.engines = some (id, o) →
    s.engines.find? id = some o → o.kind = .mxgo ka kb kc accum tile → Runs s o → tile < 2 →
    let a := s.layout ka
    let b := s.layout kb
    let m := a.rcd.ext.getD 0 0
    let n := b.rcd.ext.getD 1 0
    let kk := a.rcd.ext.getD 1 0
    let steps := (kk + 127) / 128
    let p := o.prog / steps
    let k0 := 128 * (o.prog % steps)
    let ks := min 128 (kk - k0)
    let r0 := 256 * (p % ((m + 255) / 256))
    let c0 := 128 * (p / ((m + 255) / 256))
    let rows := min 256 (m - r0)
    let cols := min 128 (n - c0)
    let at_ := fun (r0 rows c0 cols : Nat) => (List.range (rows * cols)).map (fun k => (r0 + k / cols, c0 + k % cols))
    let cells := at_ r0 rows c0 cols
    let c := s.layout kc
    let start := o.prog % steps = 0 && accum
    (start = false → c0s = [] ∧ s0 = s.mxgoAhead o ka kb kc) → (start = true → (s.mxgoAhead o ka kb kc).matrixLoad o c cells = .ok c0s s0) →
    s0.matrixLoad o a (at_ r0 rows k0 ks) = .ok av s1 → s1.matrixLoad o b (at_ k0 ks c0 cols) = .ok bv s2 →
    s2.still = s.still → s2.layouts = s.layouts → s.touched = [] →
    let t := s.tmem core
    let o' := { o with prog := o.prog + 1 }
    let stepped_ := fun (m : Tmem) => m.p = BitVec.ofNat 32 (o.prog + 1) ∧ SameBut t m tile rows ∧
      (∀ i < rows, ∀ j < 128, cols ≤ j → m.acc tile i j = t.acc tile i j) ∧
      ∀ i < rows, ∀ j < cols, m.acc tile i j =
        mxStep a.rcd.etype (if o.prog % steps ≠ 0 then t.acc tile i j else if accum then BitVec.ofNat 32 (c0s.getD (i * cols + j) 0) else 0)
          ((List.range ks).map (fun k => (av.getD (i * ks + k) 0, bv.getD (k * cols + j) 0)))
    (o.prog % steps + 1 < steps → ∃ v : State, exec (.mxgoStep core) s = .next v ∧
      v.engines = s.engines.put id o' ∧ v.tasks = s.tasks ∧ v.threads = s.threads ∧ v.layouts = s.layouts ∧ stepped_ (v.tmem core)) ∧
    (o.prog % steps + 1 = steps → ∀ ds s3, eachOf (fun s p => (s.elementDest o c c.cur (c.rcd.index2 p.1 p.2)).andThen
        fun q s => Res.ok (some q) s) cells s2 = .ok ds s3 → s3.still = s.still →
      ∃ m : Tmem, stepped_ m ∧
        let u : State := { s3 with tmems := s.tmems.put core m, engines := s.engines.put id o' }
        let w := (List.range ds.length).foldl (fun s n =>
          s.placePut o (ds.getD n (.spm 0 0)) (bytesOfWord (m.acc tile (n / cols) (n % cols)))) u
        let y := counted w id o' (4 * ds.length)
        (o.prog + 1 < o.stop → exec (.mxgoStep core) s = .next y.settleBarriers) ∧
        (o.stop ≤ o.prog + 1 → ∃ (p q : Tbl (BitVec 16)) (n : Nat),
          let z := finished y id { o' with remain := o.remain - min (4 * ds.length) o.remain }
          exec (.mxgoStep core) s =
            .next ({ z with tmems := z.tmems.put core { m with done := true, active := p, shadow := q }, fresh := n } : State).settleBarriers))))

/-- R135, R165, R168: the end of a pass of a tensor in scratchpad whose units are all there: the matrix that the pass moved to is
in force, the pass is no longer in flight, and the operation ends with its last pass, or with its only one under REMAP.step; where
nothing else has written there, every element reads through the new matrix as it read before. R135, R160, R165: at either level,
the end of a pass without peer bits or phantoms reads every element where it lies, before any is written, puts each at its place
under the new matrix, and leaves the staging area unspecified; a PAGE fault suspends it with nothing written. R84, R307 to R309,
R393: once all eight cores of a bed have issued their launch's next rotation, none of a task that is saved or being saved,
RROT_START reads every tile before any is written: each core takes its predecessor's. RROT_ARRIVE writes the tile at DST; where
the eight counts differ every receiver sets ERROR. Without eight, or without a tile, nothing happens. That a pass in scratchpad
ends in one step is the model's choice (log 57). -/
def Obligations.TileMoves : Prop :=
  ((∀ (s : State) (lseq va : Nat), (∀ e ∈ s.engines, ∀ all, e.2.kind ≠ .remap (lseq * 2 ^ 56 + va) all) →
    exec (.remapPassEnd lseq va) s = .next s) ∧
  (∀ (s : State) (lseq va id : Nat) (o : EngineOp) (all : Bool) (l : Layout),
    let k := lseq * 2 ^ 56 + va
    s.engines = [(id, o)] → o.kind = .remap k all → Runs s o → s.layouts.find? k = some l → l.inflight = true →
    l.rcd.spm = true → l.rcd.peerb = 0 → l.rcd.trim = false → 0 < l.rcd.esize → l.rcd.base % l.rcd.esize = 0 → l.rcd.stage % l.rcd.esize = 0 →
    l.rcd.coreb ≤ l.rcd.n → l.rcd.n ≤ 48 → (∀ x < 2 ^ l.rcd.n, l.rcd.phantom x = false) →
    (∀ c < 2 ^ l.rcd.coreb, ∃ z, s.unitTask l c = some z ∧ z.status ≠ .saved ∧ s.tasks.find? z.age = some z ∧
      l.rcd.base + l.rcd.size ≤ z.spmSize ∧ l.rcd.stage + l.rcd.size ≤ z.spmSize) →
    let first := l.matno = 0 ∧ l.m1 ≠ l.mat
    let next := if first ∧ l.m1 ≠ l.m2 then 1 else 2
    ∃ v : State, exec (.remapPassEnd lseq va) s = .next v ∧
      v.layouts.find? k = some { l with matno := next, inflight := false, hits := [], stepping := !all && next != 2 } ∧
      (next = 2 ∨ all = false → v.engines = []) ∧
      (next = 1 → all = true → ∃ o', v.engines = [(id, o')] ∧ o'.prog = o.prog + 1 ∧ o'.remain = o.remain - min l.rcd.sizeAll o.remain) ∧
      (let m := if first then l.mat else l.m1
       let m' := if first then l.m1 else l.m2
       let slots := 2 ^ (l.rcd.n - l.rcd.coreb)
       l.hits = [] → s.touched = [] → (∀ e ∈ s.threads, e.2.status ≠ .parked (.retry (.remap k))) →
       (∀ c < 2 ^ l.rcd.coreb, ∀ z, s.unitTask l c = some z → z.status = .resident) →
       (∀ b, o.bar = some b → Disjoint_ b 32 l.rcd.base l.rcd.size) → (l.rcd.sv = true → Disjoint_ l.rcd.stage l.rcd.size l.rcd.base l.rcd.size) →
       (∀ x y, x < 2 ^ l.rcd.n → y < 2 ^ l.rcd.n → applied m' l.rcd.n x = applied m' l.rcd.n y → x = y) →
       ∀ x < 2 ^ l.rcd.n, ∀ z z' : Task, s.unitTask l (applied m l.rcd.n x / slots) = some z →
         s.unitTask l (applied m' l.rcd.n x / slots) = some z' →
         let at_ := fun (m : List (BitVec 48)) => l.rcd.base + applied m l.rcd.n x % slots * l.rcd.esize
         Memory.bytes (v.task z'.age).spm (at_ m') l.rcd.esize = Memory.bytes (s.task z.age).spm (at_ m) l.rcd.esize)) ∧
  (∀ (s : State) (lseq va id : Nat) (o : EngineOp) (all : Bool) (l : Layout),
    let k := lseq * 2 ^ 56 + va
    let n := l.rcd.n
    s.engines = [(id, o)] → o.kind = .remap k all → Runs s o → s.layouts.find? k = some l → l.inflight = true → l.hits = [] →
    l.rcd.peerb = 0 → l.rcd.trim = false → (∀ x < 2 ^ n, l.rcd.phantom x = false) →
    let first := l.matno = 0 ∧ l.m1 ≠ l.mat
    let next := if first ∧ l.m1 ≠ l.m2 then 1 else 2
    let place := fun (m : List (BitVec 48)) (x : Nat) => l.rcd.place (applied m n x)
    let m := if first then l.mat else l.m1
    let m' := if first then l.m1 else l.m2
    let reads := eachOf (fun s x => (s.slotLoad o l l.rcd.base (place m x).1 (place m x).2).andThen
      fun b s => Res.ok (some (x, b)) s) (List.range (2 ^ n)) s
    (∀ vs s1 ps s2, reads = .ok vs s1 →
      eachOf (fun s w => (s.slotDest o l l.rcd.base (place m' w.1).1 (place m' w.1).2).andThen
        fun q s => Res.ok (some (q, w.2)) s) vs (s1.stagingValues o l).2 = .ok ps s2 →
      let u := ps.foldl (fun s p => s.placePut o p.1 p.2) s2
      let w := if l.rcd.sv then u.scramble o l l.rcd.stage l.rcd.places else u
      let o' := { o with remain := o.remain - min l.rcd.sizeAll o.remain }
      let y := (counted w id o l.rcd.sizeAll).modLayout k (fun l => { l with
        matno := next, inflight := false, hits := [], stepping := !all && next != 2 })
      exec (.remapPassEnd lseq va) s = .next ((if next = 2 ∨ all = false then finished y id o'
        else { y with engines := y.engines.put id { o' with prog := o.prog + 1, prog2 := 0 } }).wakeRemap k).settleBarriers) ∧
    (∀ a sub kd s1, reads = .stop (.page a sub kd) s1 →
      exec (.remapPassEnd lseq va) s = .next (s1.suspendOp id o a sub kd).settleBarriers))) ∧
  ((∀ (s : State) (lseq bed : Nat) (os : Nat → Nat × EngineOp) (src dst n : Nat → Nat) (i : Nat),
    (s.engines.map Prod.fst).Nodup →
    (∀ c < 8, os c ∈ s.engines ∧ (os c).2.kind = .rrot (src c) (dst c) (n c) i none false ∧ (os c).2.core = 8 * bed + c ∧
      (s.task (os c).2.task).launch = lseq ∧ (s.task (os c).2.task).status ∉ [.saved, .saving]) →
    (∀ e ∈ s.engines, ∀ a b m j g, e.2.kind = .rrot a b m j g false → (s.task e.2.task).launch = lseq → e.2.core / 8 = bed →
      i < j ∨ ∃ c < 8, e = os c) →
    let tile := fun (c : Nat) => Memory.bytes (s.task (os c).2.task).spm (src c) (n c)
    ∃ v : State, exec (.rrotStart lseq bed) s = .next v ∧ v = { s with engines := v.engines } ∧
      ∀ c < 8, let k : EngKind := .rrot (src c) (dst c) (n c) i (some (tile ((c + 7) % 8))) true
        v.engines.find? (os c).1 = some { (os c).2 with kind := k, prog2 := if (List.range 8).all (fun j => n j == n 0) then 0 else 1 }) ∧
  (∀ (s : State) (lseq bed c : Nat), c < 8 → (∀ e ∈ s.engines, ∀ a b n i g, e.2.kind = .rrot a b n i g false →
      (s.task e.2.task).launch = lseq → e.2.core ≠ 8 * bed + c) → exec (.rrotStart lseq bed) s = .next s) ∧
  (∀ (s : State) (op : Nat) (o : EngineOp) (src dst n i : Nat) (tile : List Byte), s.engines.find? op = some o →
    o.kind = .rrot src dst n i (some tile) true → (s.task o.task).status ≠ .saved → ∀ b, o.bar = some b →
    let u := s.spmPut o.task dst (tile.take n)
    (o.prog2 = 0 → exec (.rrotArrive op) s = .next (finished u op o).settleBarriers) ∧
    (o.prog2 ≠ 0 → exec (.rrotArrive op) s =
      .next (({ u with engines := u.engines.erase op }.countOff o.task b o.remain true).settleBarriers))) ∧
  (∀ (s : State) (op : Nat), s.engines.find? op = none → exec (.rrotArrive op) s = .next s))

/-- R326 to R333: the direct matrix words of a thread whose task has or takes its core's lease. MXCFG sets the configuration from
its record, MXLDS loads the shadow plane, MXSWAP exchanges the planes, MXZERO clears a tile, MXMUL steps its rows, each row a
k-step, and MXST stores them; each is a commit point, and none changes anything but what its clause says. R326, R329, R337: where
a direct matrix word stops: ENGINE LEASE where another task has the lease, ENGINE BUSY while a product of the task runs, ENGINE
CONFIG without a configuration. MXSTAT reads P, RUN, DONE, ERROR, SUSP and STATUS, and is an acquire where the product is done and
none runs. The model's choices: a direct word takes a free lease before its other checks (log 64), and MXMUL reads elements loaded
at another width modulo the present one (log 31). -/
def Obligations.MatrixWords : Prop :=
  (∀ (f : FmtT) (s : State) (t : ThreadRef) (th : Thread), Lone s t th → s.collect = none →
    let core := (s.task t.task).phys
    let m := leased s core t.task
    let off := (s.readG t f.a.toNat).toNat
    let size := (s.task t.task).spmSize
    let spm := (s.task t.task).spm
    let shape := fun (rows tile kv : Nat) => s.readG t f.bo.toNat = BitVec.ofNat 32 (rows - 1 + 2 ^ 8 * tile + 2 ^ 16 * (kv - 1))
    let elem := fun (es a : Nat) => natOfBytes (Memory.bytes spm a es)
    let gives := fun (m : Tmem) => Host.Outcome.next ({ s with tmems := s.tmems.put core m }.modThread t committed)
    MayLease s core t.task → (∀ e ∈ s.engines, EngKind.isMxgo e.2.kind = true → e.2.core = core → e.2.task ≠ t.task) →
    (∀ opt ap bp cp, off % 64 = 0 → off + 64 ≤ size → 6 ≤ opt → opt ≤ 11 → ap % 64 = 0 → bp % 64 = 0 → cp % 64 = 0 →
      128 * opSize opt ≤ ap → 128 * opSize opt ≤ bp → 512 ≤ cp → ap < 2 ^ 32 → bp < 2 ^ 32 → cp < 2 ^ 32 →
      (List.range 8).map (fun i => elem 8 (off + 8 * i)) =
        [opt + 2 ^ 4 * (if 10 ≤ opt then 0 else 4), ap + 2 ^ 32 * bp, cp, 0, 0, 0, 0, 0] →
      exec (.mxcfg f) s = gives { m with config := some ⟨opt, ap, bp, cp⟩ }) ∧
    (∀ c, m.config = some c → off % 64 = 0 → off + 127 * c.bpitch + 128 * opSize c.opt ≤ size →
      ∃ x, exec (.mxlds f) s = gives { m with shadow := x } ∧
        ∀ i < 128, ∀ j < 128, Tbl.get 0 x (128 * i + j) =
          BitVec.ofNat 16 (elem (opSize c.opt) (off + i * c.bpitch + j * opSize c.opt))) ∧
    exec (.mxswap f) s = gives { m with active := m.shadow, shadow := m.active } ∧
    (∀ tile < 2, shape 1 tile 1 →
      exec (.mxzero f) s = gives (if tile = 0 then { m with acc0 := [] } else { m with acc1 := [] })) ∧
    (∀ c rows tile kv, m.config = some c → tile < 2 → 1 ≤ rows → rows ≤ 256 → 1 ≤ kv → kv ≤ 128 → shape rows tile kv → off % 64 = 0 →
      off + (rows - 1) * c.apitch + kv * opSize c.opt ≤ size →
      ∃ m', exec (.mxmul f) s = gives m' ∧ SameBut m m' tile rows ∧
        ∀ i < rows, ∀ j < 128, m'.acc tile i j = stepped c.opt (m.acc tile i j) ((List.range kv).map (fun k =>
          (elem (opSize c.opt) (off + i * c.apitch + k * opSize c.opt), (Tbl.get 0 m.active (128 * k + j)).toNat % 2 ^ (8 * opSize c.opt))))) ∧
    (∀ c rows tile, m.config = some c → tile < 2 → 1 ≤ rows → rows ≤ 256 → shape rows tile 1 → off % 64 = 0 → 512 ≤ c.cpitch →
      off + (rows - 1) * c.cpitch + 512 ≤ size →
      ∃ v : State, exec (.mxst f) s = .next v ∧ v.threads = (s.modThread t committed).threads ∧
        v.tmems.find? core = some m ∧ (∀ k, k ≠ core → v.tmems.find? k = s.tmems.find? k) ∧
        (∀ k, k ≠ t.task → v.tasks.find? k = s.tasks.find? k) ∧ v.mem = s.mem ∧ v.l1 = s.l1 ∧
        (s.tasks.find? t.task ≠ none →
          (∀ i < rows, ∀ j < 128, Memory.word (v.task t.task).spm (off + i * c.cpitch + 4 * j) = m.acc tile i j) ∧
          (∀ a, (∀ i < rows, a < off + i * c.cpitch ∨ off + i * c.cpitch + 512 ≤ a) →
            Tbl.get 0 (v.task t.task).spm a = Tbl.get 0 spm a)))) ∧
  (∀ (f : FmtT) (s : State) (t : ThreadRef) (th : Thread), Lone s t th → s.collect = none →
    let core := (s.task t.task).phys
    let m := (s.tmems.find? core).getD {}
    let run := List.find? (fun (e : Nat × EngineOp) => EngKind.isMxgo e.2.kind && e.2.core == core) s.engines
    (∀ i ∈ matrixWords, ∀ a, m.lease = some a → a ≠ t.task → exec (i f) s = .next (s.takeTrap t { code := 11, sub := 1 })) ∧
    (∀ i ∈ matrixWords, m.lease = some t.task → (∃ e, run = some e ∧ e.2.task = t.task) →
      exec (i f) s = .next (s.takeTrap t { code := 11, sub := 3 })) ∧
    (∀ i ∈ ([.mxlds, .mxmul, .mxst] : List (FmtT → Instr)), m.lease = some t.task → run = none → m.config = none →
      exec (i f) s = .next (s.takeTrap t { code := 11, sub := 2 })) ∧
    (let w := (if run.isSome then 1 else 0) + (if m.done then 2 else 0) + (if m.error then 4 else 0) +
       (if run.any (fun e => e.2.susp.isSome) then 8 else 0) + 2 ^ 8 * (m.status % 16)
     let s1 := if run = none ∧ m.done = true then s.acquire core else s
     exec (.mxstat f) s = .next (s1.modThread t (fun th => past (withLate th f.h.toNat [m.p, BitVec.ofNat 32 w])))))

/-- R299 to R304: the words on a barrier object. BINIT writes EXPECT and NEXTEXP and releases the waiters; BARR counts an arrival
and BDROP also lowers NEXTEXP, each after a release and each answering PHASE; BEXP adds to PENDB; BWAIT parks while PHASE is its
operand; BTEST reports. Each word's cycle ends with the test of the objects it has changed. R301, R303, R304: the end of a cycle
in which one initialised object of a task changed. An object that has its arrivals and no pending byte goes to the next phase,
with ARRIVED 0 and EXPECT from NEXTEXP; any other keeps its fields. A thread that waits on it for another phase than the one it
then has goes on, ready or as the CTL word of its group left it (log 27), with that phase in its register; nothing of memory changes
where no narrow store of the core is on its way (log 108). The end of the cycle is the end of the turn (log
51), and a BEXP of no byte counts as a change (log 91): the model's choices. -/
def Obligations.Barriers : Prop :=
  (∀ (f : FmtT) (s : State) (t : ThreadRef) (th : Thread), Lone s t th → s.collect = none →
    let off := (s.readG t f.a.toNat).toNat
    let b := object s t.task off
    let p := (s.readG t f.bo.toNat).toNat % 65536
    let core := (s.task t.task).phys
    InSpm s t off 32 →
    (exec (.binit f) s = .next (((s.modTask t.task (fun k => { k with
        spm := Memory.write k.spm off ({ expect := p, arrived := 0, nextexp := p, phase := 0, pendb := 0, error := false } : Barrier).pack
        bars := off :: k.bars.filter (· ≠ off) })).releaseInit t.task off).modThread t committed).settleBarriers) ∧
    (Initialised s t.task off →
      (∀ e ∈ ([(.barr, false), (.bdrop, true)] : List ((FmtT → Instr) × Bool)),
        let n := if e.2 then b.nextexp - 1 else b.nextexp
        exec (e.1 f) s = .next (State.settleBarriers ((withObject (s.drain core) t.task off { b with
            arrived := min (b.arrived + 1) 65535
            nextexp := n
            error := b.error || (e.2 && decide (b.nextexp = 0)) }).modThread t
          (fun th => committed (withLate th f.h.toNat [BitVec.ofNat 32 b.phase]))))) ∧
      (let n := b.pendb + (s.readPair t f.bo.toNat).toNat % 2 ^ 48
       exec (.bexp f) s = .next (State.settleBarriers ((withObject s t.task off
         (if n < 2 ^ 48 then { b with pendb := n } else { b with pendb := 2 ^ 48 - 1, error := true })).modThread t committed))) ∧
      (b.phase = p → exec (.bwait f) s = .next (State.settleBarriers (s.modThread t (fun th =>
        { th with status := .parked (.bwait off p f.h.toNat), pc := th.pc + 4 })))) ∧
      (b.phase ≠ p → exec (.bwait f) s = .next (State.settleBarriers ((s.acquire core).modThread t (fun th =>
        past (withLate th f.h.toNat [BitVec.ofNat 32 b.phase]))))) ∧
      (let done := b.phase ≠ p
       exec (.btest f) s = .next (State.settleBarriers ((if done then s.acquire core else s).modThread t (fun th =>
        past (withLate th f.h.toNat [BitVec.ofNat 32 ((if done then 1 else 0) + (if b.error then 2 else 0) + 65536 * b.phase)]))))))) ∧
  (∀ (s : State) (task off : Nat) (z : Task), s.touched = [(task, off)] → s.tasks.find? task = some z → Initialised s task off →
    let b := object s task off
    let n := if b.expect ≤ b.arrived ∧ b.pendb = 0 then
        { b with phase := (b.phase + 1) % 65536, arrived := 0, expect := b.nextexp } else b
    let v := s.settleBarriers
    v.touched = [] ∧ Memory.bytes (v.task task).spm off 32 = n.pack ∧ (NoNarrow s z.phys → v.mem = s.mem) ∧
    (∀ k, k ≠ task → v.tasks.find? k = s.tasks.find? k) ∧
    (∀ t th ph h, t.task = task → s.threads = [(tkey t, th)] → th.ref = t → th.status = .parked (.bwait off ph h) →
      (ph = n.phase → v.threads = s.threads) ∧
      (ph ≠ n.phase → (v.thread t).status = th.second.getD .ready ∧ (v.thread t).second = none ∧ (v.thread t).regs = th.regs.set 0 h (BitVec.ofNat 32 n.phase))) ∧
    (∀ k th, s.threads.find? k = some th → (∀ e ∈ s.threads, ∀ ph h, e.2.status ≠ .parked (.bwait off ph h)) → v.threads.find? k = some th))

/-- R96: the six modes by their codes; a mode covers exactly the modes that its line lists. -/
def Obligations.LockModesCover : Prop :=
  ∀ a < 6, ∀ b < 6, covers a b = true ↔ b ∈ coverTable.getD a []

/-- R93: the home of a tile lock is the XOR of the sixteen 3-bit groups of VA[47:6] of its record XOR the tile id, and a
tile-level request goes to that home agent. -/
def Obligations.TileLockHome : Prop :=
  (∀ va tile : Nat, tileHome va tile = groupXor (Nat.xor (va / 2 ^ 6 % 2 ^ 42) tile)) ∧
  (∀ (f : FmtTL) (s : State) (t : ThreadRef) (up : Bool) (q : LockReq) (s1 : State) (k : Nat) (l : Layout), f.level = 1 →
    s.lockReq t f up = .ok q s1 → Names s t (s.readG t f.bo.toNat).toNat k l →
    q.home = groupXor (Nat.xor (l.va / 2 ^ 6 % 2 ^ 42) (s.readPair t f.a.toNat).toNat))

/-- R97, R100, R101, R104, R105: compatibility by the domain's matrix, whose default is the table of R97 after reset; the
intention rule; ages; who blocks a request and when a fresh acquire is granted; a wound sets the flag and withdraws every waiting
request of its task. R99, R100, R107 to R109: the row of the request table that a request meets, by the state of its task on its
lock: its answer and what the state becomes, by the matrix and the parent that it arrived with; the lock's own entries have then
come back from the overflow region, and entries in HELD have made room for them (what stands out of the table, and that FULL is
asked first: log 41). The model's choices: the intention rule looks at held locks, an upgrade by the mode it holds (log 52); the
matrix of the arrival is kept with the request (log 42). -/
def Obligations.LockTable : Prop :=
  ((∀ d ≤ 96, (State.reset.greg (.lkcfg d)).toNat % 2 ^ 48 = 0x8C00458EF ∧ (State.reset.greg (.lkcfg d)).toNat / 2 ^ 48 = 20) ∧
  (∀ i < 6, ∀ j < 6, compat 0x8C00458EF i j = decide ((defaultMatrix.getD i []).getD j 0 = 1)) ∧
  (∀ (s : State) (task m : Nat), s.intention task none m = true) ∧
  (∀ (s : State) (task m : Nat) (p : LockName), m < 6 → (∀ e ∈ s.locks, ∀ x, Holds e x → x < 6) →
    (s.intention task (some p) m = true ↔ ∃ e x, s.lock? task p = some e ∧ Holds e x ∧ m ∈ permitTable.getD x [])) ∧
  (∀ p q : Nat, p < 2 ^ 64 → q < 2 ^ 64 → (older p q = true ↔
    (let d := ((q / 2 ^ 24 : Nat) - (p / 2 ^ 24 : Nat) : Int) % 2 ^ 40
     (1 ≤ d ∧ d ≤ 2 ^ 39 - 1) ∨ (p / 2 ^ 24 = q / 2 ^ 24 ∧ p % 2 ^ 24 < q % 2 ^ 24)))) ∧
  (∀ (s : State) (cfg : DWord) (n : LockName) (task m : Nat) (h : Lock), h ∈ s.blockers cfg n task m ↔
    h ∈ s.locks ∧ h.name = n ∧ h.task ≠ task ∧ ∃ i, Holds h i ∧ cfg.getLsbD (6 * i + m) = false) ∧
  (∀ (s : State) (cfg : DWord) (n : LockName) (task m : Nat), s.grantFresh cfg n task m = true ↔
    s.blockers cfg n task m = [] ∧ ∀ w ∈ s.locks, w.name = n → w.task ≠ task → older w.task task = true → ∀ j, Wants w j →
      cfg.getLsbD (6 * j + m) = true) ∧
  (∀ (s : State) (task d : Nat) (z : Task), s.tasks.find? task = some z →
    ((s.woundTask task d).task task).wounded = true ∧ ∀ e ∈ (s.woundTask task d).locks, e.task = task → ∀ m, e.st ≠ .wait m ∧ ∀ m', e.st ≠ .upg m m')) ∧
  (∀ (s : State) (t : ThreadRef) (r : LockReq),
    let u := (s.unoverflow r.name).spillLocks r.home (s.locks.length + 1)
    let cfg := r.cfg
    let w := (s.task t.task).wounded
    let st := fun (s : State) => (s.lock? t.task r.name).map Lock.st
    let row := s.lockRow t r
    (st s = none → r.upgrade = true → row = (.trap 3, u)) ∧
    (st s = none → r.upgrade = false →
      (w = true → row = (.status 1, u)) ∧
      (w = false → u.intention t.task r.parent r.mode = false → row = (.trap 1, u)) ∧
      (w = false → u.intention t.task r.parent r.mode = true → s.tablesFull r.home = true → row = (.trap 6, s)) ∧
      (w = false → u.intention t.task r.parent r.mode = true → s.tablesFull r.home = false →
        (u.grantFresh cfg r.name t.task r.mode = true → row.1 = .status 0 ∧ st row.2 = some (.held r.mode)) ∧
        (u.grantFresh cfg r.name t.task r.mode = false → row.1 = .park ∧ st row.2 = some (.wait r.mode)))) ∧
    (∀ m, st s = some (.wait m) → row = (.held, u)) ∧
    (∀ m m', st s = some (.upg m m') → row = (.held, u)) ∧
    (∀ m, st s = some (.held m) → m < 6 → r.mode < 6 →
      (r.upgrade = false → r.mode ∈ coverTable.getD m [] → row = (.status (if w then 1 else 0), u)) ∧
      (r.upgrade = false → r.mode ∉ coverTable.getD m [] → row = (.trap 2, u)) ∧
      (r.upgrade = true → (m, r.mode) ∉ upgrades → row = (.trap 2, u)) ∧
      (r.upgrade = true → (m, r.mode) ∈ upgrades → w = true → row = (.status 1, u)) ∧
      (r.upgrade = true → (m, r.mode) ∈ upgrades → w = false →
        (u.intention t.task r.parent r.mode = false → row = (.trap 1, u)) ∧
        (u.intention t.task r.parent r.mode = true → u.blockers cfg r.name t.task r.mode = [] →
          row.1 = .status 0 ∧ st row.2 = some (.held r.mode)) ∧
        (u.intention t.task r.parent r.mode = true → u.blockers cfg r.name t.task r.mode ≠ [] →
          row.1 = .park ∧ st row.2 = some (.upg m r.mode)))))

/-- R305, R306, R91, R95, R107, R108, R111: LKACQ and LKUPG give the status of their row to H, an acquire where it is GRANTED,
park, or trap LOCKPROTO; LKREL frees a held lock after a release, and stops by its rows; LKRALL releases and parks; LKCHK reads
WOUNDED. R34, R91 to R95: a request's name, home, parent and line come from its operands and the record; LEVEL for a tile id,
ALIGN, then LEVEL, for a line, then the checks of R24 and HOSTATOM trap (logs 102, 111). After each the lock managers look at every
waiting request, turn by turn: a held-back request meets its row, the first to arrive first (R103); else a waiting request that
passes its test is granted, the oldest of its lock first: status WAITED, an acquire, and its thread goes on (R104, R107); else one
wounds a younger holder that blocks it (R105); else nothing changes. R106, R107, R306: LKRALL_COMPLETE, where a thread of the task
waits for it, leaves the task no lock and no request, and clears WOUNDED and its timer; GRACE_EXPIRED revokes every lock of a task
whose timer runs, keeps WOUNDED, and makes a WOUND trap pending in its threads. Elsewhere neither does anything. The child test
looks at held locks only (log 52), and a GRANTED status is written in the step of the grant (log 90): the model's choices. -/
def Obligations.LockWords : Prop :=
  (∀ (f : FmtTL) (g : FmtT) (lv : BitVec 2) (s : State) (t : ThreadRef) (th : Thread), Lone s t th → s.collect = none →
    let core := (s.task t.task).phys
    (∀ e ∈ ([(Instr.lkacq f, false), (.lkupg f, true)] : List (Instr × Bool)), ∀ (q : LockReq) (s1 : State), s.lockReq t f e.2 = .ok q s1 →
      s1.threads = s.threads → s1.collect = none →
      let r := s1.lockRow t q
      (∀ k, r.1 = .status k → exec e.1 s = .next (((if k = 0 then r.2.acquire core else r.2).modThread t
        (fun th => committed (th.setG q.h (BitVec.ofNat 32 k)))).relock)) ∧
      (r.1 = .park → exec e.1 s = .next ((r.2.modThread t (fun th => { th with status := .parked (.lock q.name q.h), pc := th.pc + 4 })).relock)) ∧
      (r.1 = .held → exec e.1 s = .next ((r.2.modThread t (fun th => { th with status := .parked (.lockHeld q), pc := th.pc + 4 })).relock)) ∧
      (∀ k, r.1 = .trap k → exec e.1 s = .next ((r.2.takeTrap t { code := 13, sub := k }).relock))) ∧
    (∀ (k : Nat) (l : Layout) (n : LockName) (s1 : State), Names s t (s.readG t g.bo.toNat).toNat k l →
      s.lockName t k lv.toNat (if lv = 0 then 0 else (s.readPair t g.a.toNat).toNat) = .ok n s1 → s1.threads = s.threads → s1.tasks = s.tasks →
      s1.collect = none →
      let st := (s1.lock? t.task n).map Lock.st
      let trap := fun (k : Nat) => Host.Outcome.next ((s1.takeTrap t { code := 13, sub := k }).relock)
      let child := ∃ e ∈ s1.locks, e.task = t.task ∧ e.parent = some n ∧ ∃ m, Holds e m
      (st = none → exec (.lkrel g lv) s = trap 3) ∧
      (∀ m, st = some (.wait m) → exec (.lkrel g lv) s = trap 3) ∧
      (∀ m m', st = some (.upg m m') → exec (.lkrel g lv) s = trap 7) ∧
      (∀ m, st = some (.held m) → child → exec (.lkrel g lv) s = trap 4) ∧
      (∀ m, st = some (.held m) → ¬child →
        exec (.lkrel g lv) s = .next ((((s1.drain core).freeLock t.task n).modThread t committed).relock))) ∧
    exec (.lkrall g) s = .next ((s.drain core).modThread t (fun th => { committed th with status := .parked .lkrall })) ∧
    exec (.lkchk g) s = .next (s.modThread t
      (fun th => committed (withLate th g.h.toNat [if (s.task t.task).wounded then 1 else 0])))) ∧
  (∀ (s : State) (task : Nat) (z : Task), s.tasks.find? task = some z →
    ((∀ e ∈ s.threads, e.2.task = task → e.2.status ≠ .parked .lkrall) → exec (.lkrallComplete task) s = .next s) ∧
    ((∃ e ∈ s.threads, e.2.task = task ∧ e.2.status = .parked .lkrall) →
      ∃ u : State, exec (.lkrallComplete task) s = .next u.relock ∧ (∀ e ∈ u.locks, e.task ≠ task) ∧
        (∀ e ∈ s.locks, e.task ≠ task → e ∈ u.locks) ∧ (u.task task).wounded = false ∧ (u.task task).grace = false ∧
        u.mem = s.mem) ∧
    (z.grace = false ∨ z.status = .ended → exec (.graceExpired task) s = .next s) ∧
    (z.grace = true → z.status ≠ .ended →
      ∃ u : State, exec (.graceExpired task) s = .next u.relock ∧ (∀ e ∈ u.locks, e.task ≠ task) ∧
        (∀ e ∈ s.locks, e.task ≠ task → e ∈ u.locks) ∧ (u.task task).wounded = z.wounded ∧ (u.task task).grace = false ∧
        (∀ t th, t.task = task → s.threads = [(tkey t, th)] → th.ref = t → th.status ≠ .ended →
          (u.thread t).wound = some (th.wound.getD th.regionPc)))) ∧
  (∀ (f : FmtTL) (s : State) (t : ThreadRef) (th : Thread) (k : Nat) (l : Layout), Lone s t th → s.collect = none →
    Names s t (s.readG t f.bo.toNat).toNat k l → ∀ e ∈ ([(Instr.lkacq f, false), (.lkupg f, true)] : List (Instr × Bool)),
    let c := s.ctx (s.asidOf t)
    let a := (s.readPair t f.a.toNat).toNat
    let level := f.level.toNat
    let name : LockName := { domain := ctxFunc c.1, asid := s.asidOf t, level := level, va := if 2 ≤ level then a else l.va, sub := if level = 1 then a else 0 }
    let stops := fun (v : State) (i : TrapInfo) => exec e.1 s = .next ((v.takeTrap t i).relock)
    let line := a % 256 = 0 ∧ l.rcd.spm = false ∧ l.rcd.base ≤ a ∧ a < l.rcd.base + l.rcd.size
    (level = 1 → 2 ^ ones l.rcd.tilemask ≤ a → stops c.2 { code := 13, sub := 5 }) ∧
    (2 ≤ level → a % 256 ≠ 0 → stops c.2 { code := 2, sub := 0, va := BitVec.ofNat 64 a }) ∧
    (2 ≤ level → a % 256 = 0 → ¬line → stops c.2 { code := 13, sub := 5 }) ∧
    ((level = 1 → a < 2 ^ ones l.rcd.tilemask) → (2 ≤ level → line) →
      (∀ i v, c.2.locate t (BitVec.ofNat 64 name.va) 1 .read = .stop (.trap i) v → stops v i) ∧
      (∀ x v, c.2.locate t (BitVec.ofNat 64 name.va) 1 .read = .ok x v →
        (x.host = true → stops v { code := 4, sub := 9, va := BitVec.ofNat 64 name.va }) ∧
        (x.host = false → s.lockReq t f e.2 = .ok
          { name := name
            mode := f.mode.toNat
            upgrade := e.2
            home := if level = 1 then groupXor (Nat.xor (l.va / 2 ^ 6 % 2 ^ 42) a) else x.pa / 256 / 2 ^ 28 % 8
            parent := if level = 0 then none else if level = 1 then some { name with level := 0, sub := 0 }
              else some { name with level := 1, va := l.va, sub := gather l.rcd.tilemask (c.2.lineIndex l (a - l.rcd.base)) }
            line := if 2 ≤ level then some (x.pa / 256) else none
            h := f.h.toNat
            pc := th.pc
            cfg := c.2.greg (.lkcfg name.domain)
            at_ := s.tick } v)))) ∧
  (∀ (mask : BitVec 48) (x i : Nat), (gather mask x).testBit i = (((List.range 48).filter (fun j => mask.getLsbD j))[i]?.map x.testBit).getD false) ∧
  (∀ (s : State) (l : Layout) (off : Nat) (inv : List (BitVec 48)), l.rcd.etype ≠ 14 → invert l.cur l.rcd.n = some inv →
    s.lineIndex l off = applied inv l.rcd.n (s.memberOf l * 2 ^ l.rcd.slotBits + off / l.rcd.esize)) ∧
  (∀ s : State, s.relock = (let r := s.settleLocks s.lockFuel []
    r.1.takeTraps (r.2.map (fun x => (x.1, x.2.1, { code := 13, sub := x.2.2 }))))) ∧
  (∀ (s : State) (k : Nat) (tr : List (ThreadRef × DWord × Nat)),
    let held := fun (t : ThreadRef) (r : LockReq) => (∃ e ∈ s.threads, e.2.ref = t ∧ e.2.status = .parked (.lockHeld r)) ∧
      ∀ x, s.lock? t.task r.name = some x → ∀ m, ¬Wants x m
    let passes := fun (e : Lock) => e ∈ s.locks ∧ (∃ m, Wants e m ∧ s.blockers e.cfg e.name e.task m = [] ∧
      (e.st = .wait m → s.grantFresh e.cfg e.name e.task m = true))
    let wounds := fun (q h : Lock) => q ∈ s.locks ∧ ∃ m, Wants q m ∧ h ∈ s.blockers q.cfg q.name q.task m ∧ older q.task h.task = true ∧
      (s.task h.task).wounded = false
    ((∃ t r, held t r) → ∃ t r, held t r ∧ (∀ t' r', held t' r' → r.at_ ≤ r'.at_) ∧
      let row := s.lockRow t r
      (∀ st, row.1 = .status st → s.settleLocks (k + 1) tr =
        (((if st = 0 then row.2.acquire (row.2.coreOf t) else row.2).answer t r.h st).settleLocks k tr)) ∧
      (∀ sub, row.1 = .trap sub → s.settleLocks (k + 1) tr = (row.2.wake t).settleLocks k (tr ++ [(t, r.pc, sub)])) ∧
      (row.1 = .park → s.settleLocks (k + 1) tr = (row.2.park t (.lock r.name r.h)).settleLocks k tr)) ∧
    ((∀ t r, ¬held t r) →
      ((∃ e, passes e) → (∀ e ∈ s.locks, e.task < 2 ^ 63) →
        ∃ e, passes e ∧ (∀ x, passes x → x.name = e.name → older x.task e.task = false) ∧ s.settleLocks (k + 1) tr = (s.grant e).settleLocks k tr) ∧
      ((∀ e, ¬passes e) → (∃ q h, wounds q h) → ∃ q h, wounds q h ∧ s.settleLocks (k + 1) tr = (s.woundTask h.task h.name.domain).settleLocks k tr) ∧
      ((∀ e, ¬passes e) → (∀ q h, ¬wounds q h) → s.settleLocks (k + 1) tr = (s, tr)))) ∧
  (∀ (s : State) (e : Lock) (m : Nat) (t : ThreadRef) (th : Thread) (h : Nat), Wants e m → s.lock? e.task e.name = some e →
    t = ⟨e.task, e.tid⟩ → s.threads.find? (tkey t) = some th → th.status = .parked (.lock e.name h) →
    let v := s.grant e
    (v.lock? e.task e.name).map Lock.st = some (.held m) ∧ (∀ x ∈ s.locks, x.task ≠ e.task ∨ x.name ≠ e.name → x ∈ v.locks) ∧
    v.threads.find? (tkey t) = some { th.setG h 2 with
      regionPc := th.pc, liveIn := ~~~(th.setG h 2).dead, regionRm := th.fcr.truncate 2, boundary := true
      status := th.second.getD .ready, since := s.tick, second := none } ∧
    (∀ x, x ∈ v.l1 → x.1 / 2 ^ 52 = (s.task e.task).phys → x.2.st ≠ .shr))

/-- R302, R401, R402: RGET and RPUT of a peer-window address and a local or scratchpad range start their operation, count its
bytes on their object, and answer OK; a remote address that is local traps PROT, and so does scratchpad out of range. R140, R406
to R412: TSEND, TCNT, CARM and RFENCE. TSEND of a local destination traps PROT (R42). TSEND and CARM arm an entry, after the
earlier stores of the core (R131), which fires at once where its counter has come to the threshold: a send then starts, and CARM's
count goes back; a counter that is not the issuer's answers DENIED or traps PROT, a full table answers FULL or sets ERROR. TCNT
reads the counter, an acquire; RFENCE waits for the thread's operations. That TSEND checks its destination against the window
tables when it fires is the model's choice (log 68). -/
def Obligations.RemoteWords : Prop :=
  (∀ (f : FmtT) (s : State) (t : ThreadRef) (th : Thread) (bar a p n dcnt : Nat) (put spm cntv inc : Bool),
    Commanded s t th f (if put then [9 + 2 ^ 8 * b2n inc + 2 ^ 9 * b2n cntv + 2 ^ 10 * b2n spm + 2 ^ 32 * bar, a, p, n, dcnt, 0, 0, 0]
      else [8 + 2 ^ 10 * b2n spm + 2 ^ 32 * bar, a, p, n, 0, 0, 0, 0]) bar →
    bar < 2 ^ 32 → a < 2 ^ 56 → p < 2 ^ 64 → 1 ≤ n → n < 2 ^ 32 → dcnt < 4096 → (spm = true → a < 2 ^ 32) →
    let i := if put then Instr.rput f else .rget f
    let at_ := BitVec.ofNat 64 p
    let k : EngKind := if put then .rput a spm at_ n cntv inc dcnt else .rget a spm at_ n
    (IsPeer p → (if spm then a + n ≤ (s.task t.task).spmSize else a < 2 ^ 48) →
      exec i s = .next (answered ((started s (opBy s t th k bar n 0 0)).modThread t (fun th => withRemote th s.nextEngine)) t f.a.toNat 0)) ∧
    (p < 2 ^ 48 → exec i s = .next (s.takeTrap t { code := 4, sub := 6, va := at_ }).settleBarriers) ∧
    (IsPeer p → spm = true → (s.task t.task).spmSize < a + n →
      exec i s = .next (s.takeTrap t { code := 4, sub := 7, va := BitVec.ofNat 64 a }).settleBarriers)) ∧
  (∀ (f : FmtT) (s : State) (t : ThreadRef) (th : Thread), Lone s t th → s.collect = none →
    let core := (s.task t.task).phys
    (∀ (bar c thresh src dst n dcnt : Nat) (barv cntv inc : Bool), InSpm s t (s.readG t f.h.toNat).toNat 64 →
      cmd s t f = [10 + 2 ^ 8 * b2n inc + 2 ^ 9 * b2n cntv + 2 ^ 10 * b2n barv + 2 ^ 32 * bar, c, thresh, src, dst, n, dcnt, 0] →
      c < 4096 → thresh < 2 ^ 64 → src < 2 ^ 56 → dst < 2 ^ 64 → 1 ≤ n → n < 2 ^ 32 → dcnt < 4096 → bar < 2 ^ 32 →
      (if barv then InSpm s t bar 32 else bar = 0) →
      let k : ArmedKind := .send inc cntv src (BitVec.ofNat 64 dst) n dcnt
      let a := armedBy s t th c (BitVec.ofNat 64 thresh) k (if barv then some bar else none)
      let u := (if barv then s.countOn t.task bar n else s).drain core
      (dst < 2 ^ 48 → exec (.tsend f) s = .next (s.takeTrap t { code := 4, sub := 6, va := BitVec.ofNat 64 dst }).settleBarriers) ∧
      (IsPeer dst → ¬Allocated s t c → exec (.tsend f) s = .next (answered s t f.a.toNat 10)) ∧
      (IsPeer dst → Allocated s t c → 16384 ≤ s.armed.length → exec (.tsend f) s = .next (answered s t f.a.toNat 9)) ∧
      (IsPeer dst → Allocated s t c → s.armed.length < 16384 → NoneDue s c →
        (((s.counters.find? c).getD 0).toNat < thresh →
          exec (.tsend f) s = .next (answered { u with armed := u.armed ++ [a] } t f.a.toNat 0)) ∧
        (thresh ≤ ((s.counters.find? c).getD 0).toNat → a ∉ s.armed → ∃ o : EngineOp,
          exec (.tsend f) s = .next (answered { u with engines := u.engines.put u.nextEngine o, nextEngine := u.nextEngine + 1 } t f.a.toNat 0) ∧
          o.kind = .tsend src (BitVec.ofNat 64 dst) n cntv inc dcnt ∧ o.bar = a.bar ∧ o.remain = n ∧ o.task = t.task))) ∧
    (let c := (s.readG t f.bo.toNat).toNat
     (Allocated s t c → exec (.tcnt f) s = .next ((s.acquire core).modThread t
        (fun th => past (withLate th f.h.toNat (wordsOf ((s.counters.find? c).getD 0)))))) ∧
     (¬Allocated s t c → exec (.tcnt f) s = .next (s.takeTrap t { code := 4, sub := 11 })) ∧
     (let off := (s.readG t f.h.toNat).toNat
      let thresh := s.readPair t f.a.toNat
      let a := armedBy s t th c thresh .carm (some off)
      let u := s.countOn t.task off 1
      let fin := fun (s : State) => Host.Outcome.next ((s.modThread t committed).settleBarriers)
      InSpm s t off 32 →
      (¬Allocated s t c → exec (.carm f) s = .next (s.takeTrap t { code := 4, sub := 11 }).settleBarriers) ∧
      (Allocated s t c → 16384 ≤ s.armed.length → exec (.carm f) s = fin (u.countOff t.task off 1 true)) ∧
      (Allocated s t c → s.armed.length < 16384 → NoneDue s c → ((s.counters.find? c).getD 0).toNat < thresh.toNat →
        exec (.carm f) s = fin { u.drain core with armed := u.armed ++ [a] }) ∧
      (Allocated s t c → s.armed.length < 16384 → NoneDue s c → thresh.toNat ≤ ((s.counters.find? c).getD 0).toNat → a ∉ s.armed →
        (∃ z, s.tasks.find? t.task = some z ∧ z.status ≠ .ended) → exec (.carm f) s = fin ((u.drain core).countOff t.task off 1 false)))) ∧
    (th.remote = [] → exec (.rfence f) s = .next (s.modThread t committed)) ∧
    (th.remote ≠ [] → exec (.rfence f) s = .next (s.modThread t (fun th => { committed th with status := .parked .rfence }))))

/-- R35 to R37, R39 to R41, R80, R139, R404: RATOM commits, parks its thread on a new operation number, and sends one request with
what the window tables give, or answers the reason that keeps it from leaving; a release first drains the core, and waits for the
thread's earlier remote operations; a misaligned or local address traps. What the window tables give: the reasons PEER, WINDOW,
RANGE and ACCESS in the order of R39, else the target address, the key, the job and the class; an entry comes from the peer cache,
else from memory, and only a valid one is kept. A table outside device memory has no entry (log 43), and a poisoned line of one
gives CORRUPT. -/
def Obligations.RemoteAtomics : Prop :=
  (∀ (s : State) (name : Nat × Nat × Nat) (good : List DWord → Bool) (top pa n reason : Nat),
    let e := s.peerEntry name good top pa n reason
    let r := s.readDwordsAt (homeDie (pa / 256)) pa n
    (∀ d, assoc s.peerCache name = some d → e = (.ok d, s)) ∧
    (assoc s.peerCache name = none →
      (2 ^ 39 < top → e = (.error reason, s)) ∧
      (top ≤ 2 ^ 39 → s.poisoned pa = true → e = (.error 256, s)) ∧
      (top ≤ 2 ^ 39 → s.poisoned pa = false →
        (good r.1 = false → e = (.ok r.1, r.2)) ∧
        (good r.1 = true → e = (.ok r.1, { r.2 with peerCache := keepLast 256 (r.2.peerCache ++ [(name, r.1)]) }))))) ∧
  (∀ d : List DWord, (peerGood d = true ↔ GoodPeer d) ∧ (windowGood d = true ↔ GoodWindow d)) ∧
  (∀ (s : State) (asid n perm : Nat) (p : DWord),
    let c := s.ctx asid
    let dw := fun (l : List DWord) (i : Nat) => (l.getD i 0).toNat
    let bits := fun (x hi lo : Nat) => x / 2 ^ lo % 2 ^ (hi + 1 - lo)
    let peer := bits p.toNat 53 44
    let win := bits p.toNat 43 34
    let off := bits p.toNat 33 0
    let base := bits (dw c.1 2) 51 14 * 16384
    let e := c.2.peerEntry (asid, peer, 1024) peerGood (base + 16384) (base + 16 * peer) 2 1
    (¬GoodContext c.1 ∨ dw c.1 2 % 2 = 0 → s.window asid p n perm = (.error 1, c.2)) ∧
    (GoodContext c.1 → dw c.1 2 % 2 = 1 →
      (∀ r, e.1 = .error r → s.window asid p n perm = (.error r, e.2)) ∧
      (∀ pe, e.1 = .ok pe →
        let cnt := bits (dw pe 0) 25 16
        let wt := bits (dw pe 1) 51 8 * 256
        let w := e.2.peerEntry (asid, peer, win) windowGood (wt + 32 * (cnt + 1)) (wt + 32 * win) 4 2
        (¬GoodPeer pe → s.window asid p n perm = (.error 1, e.2)) ∧
        (GoodPeer pe → cnt < win → s.window asid p n perm = (.error 2, e.2)) ∧
        (GoodPeer pe → win ≤ cnt →
          (∀ r, w.1 = .error r → s.window asid p n perm = (.error r, w.2)) ∧
          (∀ we, w.1 = .ok we →
            (¬GoodWindow we → s.window asid p n perm = (.error 2, w.2)) ∧
            (GoodWindow we → bits (dw we 1) 33 0 < off + n - 1 → s.window asid p n perm = (.error 3, w.2)) ∧
            (GoodWindow we → off + n - 1 ≤ bits (dw we 1) 33 0 →
              s.window asid p n perm = (if (dw we 2).testBit perm then
                .ok { target := bits (dw we 0) 47 0 + off, key := BitVec.ofNat 32 (dw we 3), jobkey := BitVec.ofNat 32 (dw pe 0 / 2 ^ 32),
                      cls := bits (dw pe 0) 2 1 } else .error 4, w.2))))))) ∧
  ∀ e ∈ ratomWords, ∀ (f : FmtA) (s : State) (t : ThreadRef) (th : Thread), Lone s t th → s.collect = none →
    let p := s.readPair t f.a.toNat
    let core := (s.task t.task).phys
    let rel := f.ord.getLsbD 1
    let s1 := if rel then s.drain core else s
    -- the state in which the tables are read: the thread waits
    let mid := ({ s1 with nextEngine := s.nextEngine + 1 } : State).modThread t (fun th =>
      { committed th with status := .parked (.ratom s.nextEngine f.d.toNat (f.ord.getLsbD 0) th.pc p), pc := th.pc })
    let w := mid.window (s.task t.task).asid p 8 3
    let peer := p.toNat / 2 ^ 44 % 2 ^ 10
    let answers := fun (r : Nat) => Host.Outcome.next (({ w.2 with
      responses := w.2.responses ++ [(w.2.self, { dst := w.2.self, op := s.nextEngine, piece := 0, vc := 0, reason := r, data := [] })] } : State).modThread t past)
    (IsPeer p.toNat → p.toNat % 8 = 0 → rel = false ∨ th.remote = [] →
      (∀ r, w.1 = .error r → exec (e.1 f) s = answers r) ∧
      (∀ x, w.1 = .ok x → w.2.reachable peer = false → exec (e.1 f) s = answers 10) ∧
      (∀ x, w.1 = .ok x → w.2.reachable peer = true → ∃ q : Packet,
        exec (e.1 f) s = .next ((w.2.send (s.task t.task).func q).modThread t past) ∧ q.kind = .atom e.2 f.ord ∧ q.dst = peer ∧
        q.op = s.nextEngine ∧ q.target = x.target ∧ q.len = 8 ∧ q.key = x.key ∧ q.jobkey = x.jobkey ∧ q.cls = x.cls ∧
        q.operand = s.readPair t f.b.toNat ∧ (e.2 = .cas → q.swap = s.readPair t (f.b.toNat + 2)))) ∧
    (IsPeer p.toNat → p.toNat % 8 = 0 → rel = true → th.remote ≠ [] →
      exec (e.1 f) s = .next (s.modThread t (fun th => { th with status := .parked (.retry .remote) }))) ∧
    (IsPeer p.toNat ∨ p.toNat < 2 ^ 48 → p.toNat % 8 ≠ 0 → exec (e.1 f) s = .next (s.takeTrap t { code := 2, sub := 0, va := p })) ∧
    (p.toNat < 2 ^ 48 → p.toNat % 8 = 0 → exec (e.1 f) s = .next (s.takeTrap t { code := 4, sub := 6, va := p }))

/-- R420, R427, R428: SKLD of a granted, unbound, well-formed kernel binds it to the lowest free slot that has its flow memory and
answers OK and the slot number; SKREL of the issuer's slot stops new packets and parks until the last one has left, when
SKREL_COMPLETE frees the slot; a slot that is not the issuer's answers DENIED. R398, R400, R404, R428: LINK_DOWN and LINK_UP of a
port, the refill of a class-0 bucket by its RATE up to its BURST, and a RATOM whose response has not come. R39, R40, R137 to R139,
R398, R403, R442: requests and responses. A packet leaves in the VC of its class, a class-0 one at the cost of its function's
budget, or in VC 1 where that is used up; a response in the VC of its request, at the cost of the function whose address space the
export entry names, at the target alone (log 61). Without firmware or power nothing answers (R449). A request for another device
leaves by its port, or answers ROUTE where that port is down; a request that the export table turns away answers its reason and
writes nothing; a put or send piece that passes writes its bytes, a get piece answers them, and an atomic writes its new value and
answers the old. A response to a RATOM ends its wait, with a REMOTE trap where it carries a reason; one to an RGET writes its
piece at LOCAL and takes its bytes off PENDB, one to an RPUT or an armed send counts its piece as written, and the last one ends
the operation; one with a reason ends it with a record and ERROR; a response that nothing waits for is discarded, and one for
another device goes on. The model's choices: SKREL's park and its event (log 71), the grants as a table set from outside (log 63),
a late request after a timeout (log 32), and an export entry read as plain data (log 94). -/
def Obligations.FabricEvents : Prop :=
  ((∀ (f : FmtT) (s : State) (t : ThreadRef) (th : Thread) (code n cls job flow budget ports : Nat) (b : List Byte) (s1 : State),
    Lone s t th → s.collect = none → InSpm s t (s.readG t f.h.toNat).toNat 64 →
    cmd s t f = [11, code, n + 2 ^ 16 * cls + 2 ^ 32 * job, flow + 2 ^ 32 * budget, ports, 0, 0, 0] →
    code < 2 ^ 56 → code % 4 = 0 → 1 ≤ n → n ≤ 2048 → cls < 256 → job < 2 ^ 32 → flow % 64 = 0 → flow ≤ 262144 → 1 ≤ budget →
    budget ≤ 512 → ports < 2 ^ 32 →
    let z := s.task t.task
    let granted := ∃ g ∈ s.grants, g.1 = z.asid ∧ g.2.1 = BitVec.ofNat 32 job ∧ BitVec.ofNat 32 ports &&& ~~~g.2.2 = 0
    let bound := ∃ e ∈ s.slots, e.2.jobkey = BitVec.ofNat 32 job ∧ e.2.fclass = cls
    (¬granted → exec (.skld f) s = .next (answered s t f.a.toNat 10)) ∧
    (granted → bound → exec (.skld f) s = .next (answered s t f.a.toNat 13)) ∧
    (granted → ¬bound → s.freeSlot flow = none → exec (.skld f) s = .next (answered s t f.a.toNat 11)) ∧
    (granted → ¬bound → ∀ k base, s.freeSlot flow = some (k, base) →
      s.memReadRun t (BitVec.ofNat 64 code) 4 n = .ok b s1 →
      (kernelOk (wordsOfBytes b) budget = false → exec (.skld f) s = .next (answered s1 t f.a.toNat 12)) ∧
      (kernelOk (wordsOfBytes b) budget = true → ∃ v : Slot, exec (.skld f) s = .next (answered { s1 with slots := s1.slots.put k v } t f.a.toNat (256 * k)) ∧
        v.jobkey = BitVec.ofNat 32 job ∧ v.fclass = cls ∧ v.ports = BitVec.ofNat 32 ports ∧ v.budget = budget ∧ v.words = wordsOfBytes b ∧
        v.flowBase = base ∧ v.flowb = flow ∧ v.disabled = false ∧ v.releasing = false ∧ v.flow = [] ∧ v.asid = z.asid))) ∧
  (∀ (f : FmtT) (s : State) (t : ThreadRef) (th : Thread), Lone s t th →
    let k := (s.readG t f.bo.toNat).toNat
    (∀ x, s.slots.find? k = some x → x.asid = (s.task t.task).asid →
      exec (.skrel f) s = .next ({ s with slots := s.slots.put k { x with releasing := true } }.modThread t
        (fun th => { committed th with status := .parked (.skrel k f.h.toNat) }))) ∧
    (s.slots.find? k = none ∨ (∃ x, s.slots.find? k = some x ∧ x.asid ≠ (s.task t.task).asid) →
      exec (.skrel f) s = .next (s.modThread t (fun th => committed (withLate th f.h.toNat [10]))))) ∧
  (∀ (s : State) (k : Nat) (x : Slot), s.slots.find? k = some x →
    let busy := (∃ e ∈ s.ctxts, e.2.slot = k) ∨ ∃ e ∈ s.sepalQ, e.1 = k
    (x.releasing = false ∨ busy → exec (.skrelComplete k) s = .next s) ∧
    (x.releasing = true → ¬busy → ∃ v : State, exec (.skrelComplete k) s = .next v ∧ v.slots.find? k = none ∧
      (∀ j, j ≠ k → v.slots.find? j = s.slots.find? j) ∧
      ∀ t th h, s.threads = [(tkey t, th)] → th.ref = t → th.status = .parked (.skrel k h) → th.second = none →
        (v.thread t).status = .ready ∧ (v.thread t).regs = th.regs.set 0 h 0))) ∧
  ((∀ (s : State) (port : Nat), port < 32 →
    ∃ v : State, exec (.linkDown port) s = .next v ∧ v = { s with linksDown := v.linksDown } ∧ port ∈ v.linksDown ∧
      ∀ q, q ≠ port → (q ∈ v.linksDown ↔ q ∈ s.linksDown)) ∧
  (∀ (s : State) (port : Nat),
    ∃ v : State, exec (.linkUp port) s = .next v ∧ v = { s with linksDown := v.linksDown } ∧ port ∉ v.linksDown ∧
      ∀ q, q ≠ port → (q ∈ v.linksDown ↔ q ∈ s.linksDown)) ∧
  (∀ (s : State) (func : Nat),
    let c := (s.greg (.c0rate func)).toNat
    ∃ v : State, exec (.tokenBucketRefill func) s = .next v ∧ v = { s with buckets := v.buckets } ∧
      Tbl.get 0 v.buckets func = min (c / 2 ^ 16 % 2 ^ 16) (Tbl.get 0 s.buckets func + c % 2 ^ 16) ∧
      ∀ g, g ≠ func → Tbl.get 0 v.buckets g = Tbl.get 0 s.buckets g) ∧
  (∀ (s : State) (t : ThreadRef) (th : Thread) (op d : Nat) (acq : Bool) (pc p : DWord), s.threads.find? (tkey t) = some th →
    th.status = .parked (.ratom op d acq pc p) →
    exec (.ratomTimeout t) s = .next (s.takeTraps [(t, pc, { code := 5, sub := 12, va := p, peer := p.toNat / 2 ^ 44 % 2 ^ 10 })]))) ∧
  ((∀ (s : State) (func : Nat) (p : Packet),
    let vc := if p.cls = 0 ∧ Tbl.get 0 s.buckets func = 0 then 1 else p.cls
    let bytes := max p.payload.length (if p.kind = .get then 0 else p.len)
    s.send func p = { s with
      fabricOut := s.fabricOut ++ [{ p with src := s.self, vc := vc }]
      buckets := if vc = 0 then Tbl.set 0 s.buckets func (Tbl.get 0 s.buckets func - max 1 ((bytes + 63) / 64)) else s.buckets }) ∧
  (∀ (s : State) (p : Packet) (r : Nat) (d : List Byte), p.mirror = false →
    ∃ b, s.respond p r d = { s with
        responses := s.responses ++ [(p.src, { dst := p.src, op := p.op, piece := p.piece, vc := p.vc, reason := r, data := d })]
        buckets := b } ∧
      (p.vc ≠ 0 ∨ p.dst ≠ s.self ∨ s.exportFunc p = none → b = s.buckets) ∧
      ∀ f, p.vc = 0 → p.dst = s.self → s.exportFunc p = some f → b = Tbl.set 0 s.buckets f (Tbl.get 0 s.buckets f - max 1 ((d.length + 63) / 64))) ∧
  (∀ (s : State) (p : Packet), s.up = false →
    exec (.remoteRequest p) s = .next (if p.dst = s.self then { s with fabricOut := s.fabricOut.erase p } else s)) ∧
  (∀ (s : State) (p : Packet), p.dst ≠ s.self → s.touched = [] → s.up = true →
    (s.portUp (routePort s.self p.dst) = true → exec (.remoteRequest p) s = .next { s with fabricOut := s.fabricOut ++ [p] }) ∧
    (s.portUp (routePort s.self p.dst) = false → exec (.remoteRequest p) s = .next (s.respond p 10 []))) ∧
  (∀ (s : State) (p : Packet), p.dst = s.self → s.touched = [] → s.up = true → p.mirror = false →
    let u := { s with fabricOut := s.fabricOut.erase p }
    let answer := fun (v : State) (r : Nat) (d : List Byte) => v.respond p r d
    let reply := fun (r : Nat) (d : List Byte) =>
      (p.src, ({ dst := p.src, op := p.op, piece := p.piece, vc := p.vc, reason := r, data := d } : Response))
    (∀ r v, p.kind = .get → u.exportCheck p p.len 1 = (.error r, v) → v.touched = [] → exec (.remoteRequest p) s = .next (answer v r [])) ∧
    (∀ pa asid v, p.kind = .get → u.exportCheck p p.len 1 = (.ok (pa, asid), v) → v.still = u.still →
      (∀ a, pa ≤ a → a < pa + p.len + 256 → v.poisoned a = false) →
      let x := v.readBytesAt (homeDie (pa / 256)) pa p.len
      exec (.remoteRequest p) s = .next (answer x.2 0 x.1)) ∧
    (∀ op ord r v, p.kind = .atom op ord → u.exportCheck p 8 3 = (.error r, v) → v.touched = [] →
      exec (.remoteRequest p) s = .next (answer v r [])) ∧
    (∀ op ord pa asid v, p.kind = .atom op ord → u.exportCheck p 8 3 = (.ok (pa, asid), v) → v.still = u.still → v.poisoned pa = false →
      let old := v.readDwordAt (homeDie (pa / 256)) pa
      let x := match atomNew op true old.1 p.operand p.swap with
        | some n => old.2.deviceWrite ⟨pa, false⟩ (bytesOfNat 8 n.toNat)
        | none => old.2
      ∃ w : State, exec (.remoteRequest p) s = .next w ∧
        w.responses = s.responses ++ [reply 0 (bytesOfNat 8 old.1.toNat)] ∧
        w.mem = x.mem ∧ w.slices = x.slices ∧ w.l1 = x.l1) ∧
    (∀ k ∈ ([.put, .send] : List PacketKind), ∀ r v, p.kind = k → p.marked = false → p.pieces = 1 →
      (∀ e ∈ s.slots, e.2.jobkey = p.jobkey → e.2.fclass = p.cls → e.2.releasing = true) → u.arrivals = [] →
      u.exportCheck p p.len 2 = (.error r, v) → v.still = u.still → exec (.remoteRequest p) s = .next (answer v r [])) ∧
    (∀ k ∈ ([.put, .send] : List PacketKind), ∀ pa asid v, p.kind = k → p.marked = false → p.pieces = 1 → p.last = true →
      (∀ e ∈ s.slots, e.2.jobkey = p.jobkey → e.2.fclass = p.cls → e.2.releasing = true) → u.arrivals = [] → s.armed = [] →
      u.exportCheck p p.len 2 = (.ok (pa, asid), v) → v.still = u.still → p.cntv = false ∨ v.counterOk p.dcnt asid = true →
      let x := if p.len = 0 then v else v.deviceWrite ⟨pa, false⟩ (p.payload.take p.len)
      ∃ w : State, exec (.remoteRequest p) s = .next w ∧
        w.responses = s.responses ++ [reply 0 []] ∧
        w.mem = x.mem ∧ w.slices = x.slices ∧ w.l1 = x.l1 ∧
        w.counters = if p.cntv then
          Tbl.set 0 s.counters p.dcnt ((s.counters.find? p.dcnt).getD 0 + BitVec.ofNat 64 (if p.incmode then 1 else p.len)) else s.counters) ∧
    (p.kind = .remap → exec (.remoteRequest p) s =
      .next { u with exchange := u.exchange ++ [((p.jobkey.toNat, p.target, p.src), p.payload)] })) ∧
  (∀ (s : State) (die pa n : Nat), Quiet s → die < 4 → pa % 256 + n ≤ 256 → pa + n ≤ 2 ^ 39 →
    (s.readBytesAt die pa n).1 = Memory.bytes s.mem pa n) ∧
  (∀ (s : State) (r : Response), s.up = false → exec (.remoteResponse r) s = .next { s with responses := s.responses.erase (s.self, r) }) ∧
  (∀ (s : State) (r : Response), s.touched = [] → s.arrivals = [] → s.up = true → r.dst ≠ s.self →
    let u := { s with responses := s.responses.erase (s.self, r) }
    exec (.remoteResponse r) s = .next { u with responses := u.responses ++ [(r.dst, r)] }) ∧
  (∀ (s : State) (r : Response) (o : EngineOp) (a n target : Nat) (spm : Bool) (p : DWord) (how : PacketKind), s.engines.find? r.op = some o →
    s.touched = [] → s.arrivals = [] → s.up = true → r.dst = s.self → o.target = some target →
    RemoteOp s o a spm p n how →
    let u := { s with responses := s.responses.erase (s.self, r) }
    let at_ := piece target n r.piece
    let left := o.left.erase r.piece
    let ends := fun (u : State) (o : EngineOp) => exec (.remoteResponse r) s = .next (if o.left = [] ∧ o.queue = []
      then notRemote (finished u r.op o) o r.op else { u with engines := u.engines.put r.op o }).settleBarriers
    (r.reason ≠ 0 → r.reason < 256 → exec (.remoteResponse r) s = .next (remoteFailed u r.op o
      (operationRecord o 5 r.reason (p + BitVec.ofNat 64 at_.1) (peerAt p))).settleBarriers) ∧
    (r.reason = 0 → r.piece ∉ o.left → exec (.remoteResponse r) s = .next u) ∧
    (r.reason = 0 → r.piece ∈ o.left →
      (how ≠ .get → ends u { o with left := left }) ∧
      (∀ ds v, how = .get → u.localDest o spm (a + at_.1) at_.2 = .ok ds v → v.engines = s.engines →
        ends (counted (v.localPut o ds (r.data.take at_.2)) r.op o at_.2) { o with remain := o.remain - min at_.2 o.remain, left := left }) ∧
      (∀ va sub k v, how = .get → u.localDest o spm (a + at_.1) at_.2 = .stop (.page va sub k) v → v.engines = s.engines →
        let w := v.suspendOp r.op o va sub k
        exec (.remoteResponse r) s = .next ({ w with engines := w.engines.modify r.op (fun o => { o with
          queue := r.piece :: o.queue }) } : State).settleBarriers))) ∧
  (∀ (s : State) (o : EngineOp) (a n : Nat) (b : List Byte),
    (a + n ≤ (s.task o.task).spmSize → s.localDest o true a n = .ok [(.spm o.task a, n)] s ∧
      s.localLoad o true a n = .ok (Memory.bytes (s.task o.task).spm a n) s ∧
      s.localPut o [(.spm o.task a, n)] b = s.spmLand o.task a (b.take n)) ∧
    ((s.task o.task).spmSize < a + n → s.localLoad o true a n = .stop (.trap { code := 4, sub := 7, va := BitVec.ofNat 64 a }) s) ∧
    (∀ l u, 0 < n → a % 4096 + n ≤ 4096 → s.locateVia (.bed (o.core / 8)) o.asid (BitVec.ofNat 64 a) 1 .write = .ok l u →
      s.localDest o false a n = .ok [(.mem l, n)] u ∧ s.localPut o [(.mem l, n)] b = s.engineWrite (o.core / 128) l (b.take n))) ∧
  (∀ (s : State) (r : Response), s.engines.find? r.op = none → s.touched = [] → s.arrivals = [] → s.up = true → r.dst = s.self →
    let u := { s with responses := s.responses.erase (s.self, r) }
    ((∀ e ∈ s.threads, ∀ d acq pc p, e.2.status ≠ .parked (.ratom r.op d acq pc p)) → exec (.remoteResponse r) s = .next u) ∧
    (∀ t th d acq pc p, s.threads = [(tkey t, th)] → th.ref = t → th.status = .parked (.ratom r.op d acq pc p) → r.reason ≠ 0 → r.reason < 256 →
      exec (.remoteResponse r) s = .next (u.takeTraps [(t, pc, { code := 5, sub := r.reason, va := p, peer := peerAt p })]).settleBarriers) ∧
    (∀ t th d acq pc p, s.threads = [(tkey t, th)] → th.ref = t → th.status = .parked (.ratom r.op d acq pc p) → r.reason = 0 →
      exec (.remoteResponse r) s = .next (((if acq then u.acquire (s.task t.task).phys else u).writePair t d
        (BitVec.ofNat 64 (natOfBytes r.data))).wake t))))

/-- R434, R435: the scalar words, compares, branches and loops of a sepal: each runs in the context whose turn it is and changes
only that context; a branch leaves every loop whose body does not hold its target. CLK is a free count (log 3). -/
def Obligations.SepalWords : Prop :=
  ∀ (s : State) (k : Nat) (c : Ctx), Turn s k c →
    (∀ e ∈ sepalOps, ∀ (d a b : BitVec 4) (imm : BitVec 17),
      exec (e.1 d a b) s = goesOn s k (withY (charged c 1) d (e.2.2 (yOf c a) (yOf c b))) ∧
      exec (e.2.1 d a imm) s = goesOn s k (withY (charged c 1) d (e.2.2 (yOf c a) (wrap 32 imm.toInt)))) ∧
    (∀ (d : BitVec 4) (imm : BitVec 16),
      exec (.sepalMovi d imm) s = goesOn s k (withY (charged c 1) d (BitVec.ofNat 32 imm.toNat)) ∧
      exec (.sepalMovh d imm) s =
        goesOn s k (withY (charged c 1) d (BitVec.ofNat 32 (imm.toNat * 2 ^ 16 + (yOf c d).toNat % 2 ^ 16)))) ∧
    (∀ (d : BitVec 2) (cc : BitVec 3) (a b : BitVec 4) (imm : BitVec 16), cc.toNat < 6 →
      let holds := fun (x y : Word) => [decide (x = y), decide (x ≠ y), decide (x.toInt < y.toInt), decide (y.toInt ≤ x.toInt),
        decide (x.toNat < y.toNat), decide (y.toNat ≤ x.toNat)].getD cc.toNat false
      exec (.sepalCmp d cc a b) s = goesOn s k { charged c 1 with c := putBit c.c d.toNat (holds (yOf c a) (yOf c b)) } ∧
      exec (.sepalCmpImm d cc a imm) s = goesOn s k { charged c 1 with c := putBit c.c d.toNat (holds (yOf c a) (wrap 32 imm.toInt)) }) ∧
    (let goes := fun (off : BitVec 12) => Host.Outcome.next { s with ctxts := s.ctxts.put k { charged c 1 with
        pc := c.pc + off.toNat
        loops := c.loops.dropWhile (fun l => !(decide (l.1 ≤ c.pc + off.toNat) && decide (c.pc + off.toNat ≤ l.2.1))) } }
     ∀ (n : Bool) (cf : BitVec 2) (off : BitVec 12),
      exec (.sepalBrAlways off) s = goes off ∧
      (c.c.getLsbD cf.toNat ≠ n → exec (.sepalBr n cf off) s = goes off) ∧
      (c.c.getLsbD cf.toNat = n → exec (.sepalBr n cf off) s = goesOn s k (charged c 1))) ∧
    (∀ (lc : BitVec 10) (len : BitVec 12), len ≠ 0 → exec (.sepalLoop lc len) s =
      .next { s with ctxts := s.ctxts.put k { charged c 1 with
        pc := c.pc + 1
        loops := (c.pc + 1, c.pc + len.toNat, lc.toNat) :: c.loops } } ∧
      exec (.sepalLoop lc 0) s = goesOn s k (charged c 1)) ∧
    (∀ (d : BitVec 4), exec (.sepalClk d) s = goesOn s k (withY (charged c 1) d (BitVec.ofNat 32 (Config.clockAt s.tick - Config.clockAt s.clockBase)))) ∧
    (∀ (n : BitVec 8), exec (.sepalTrp n) s = .next (s.sepalTrap (charged c 1) 16 (BitVec.ofNat 64 n.toNat)).settleBarriers) ∧
    -- the next word (R435)
    (c.loops = [] → c.next = { c with pc := c.pc + 1 }) ∧
    (∀ a n r, c.loops = (a, c.pc, n + 1) :: r → c.next = { c with pc := a, loops := (a, c.pc, n) :: r }) ∧
    (∀ a b n r, c.loops = (a, b, n) :: r → b ≠ c.pc → c.next = { c with pc := c.pc + 1 })

/-- R438: HASH computes a CRC-32C update of ya with the bytes of yb, lowest first. -/
def Obligations.SepalHash : Prop :=
  ∀ (s : State) (k : Nat) (c : Ctx) (d a b : BitVec 4), Turn s k c →
    let byte := fun (i : Nat) => (yOf c b).toNat / 2 ^ (8 * i) % 2 ^ 8
    exec (.sepalHash d a b) s = goesOn s k (withY (charged c 2) d
      (BitVec.ofNat 32 (crcStep (crcStep (crcStep (crcStep (yOf c a).toNat (byte 0)) (byte 1)) (byte 2)) (byte 3))))

/-- R432, R436, R443: header fields, payload and flow memory: scalar and vector accesses at ya + off (VST: at the base that YA and
YB name, log 18). A misaligned address traps ALIGN, a payload address from 4,096 on PAYLOAD, flow bytes past FLOWB FLOWMEM, and a
header value past its limit HEADER. R437, R192: the vector words work lane by lane, by their type, and VRED adds the sixteen
lanes: exactly, rounded once, as f32. An address wraps at 32 bits before its range check, and a trap record has VA 0 (log 70: the
model's choice). -/
def Obligations.SepalData : Prop :=
  (∀ (s : State) (k : Nat) (c : Ctx) (x : Slot) (d a b : BitVec 4) (v : BitVec 3) (off : BitVec 14), Turn s k c →
    s.slots.find? c.slot = some x →
    let at_ := sepalAddr c a off
    let vst := vstAddr c a b off
    let p := c.pkt
    let stop := fun (cy sub : Nat) => Host.Outcome.next (s.sepalTrap (charged c cy) sub 0).settleBarriers
    let withPkt := fun (b : List Byte) => goesOn s k { charged c 1 with pkt := { p with payload := payloadWith p at_ b } }
    let withFlow := fun (b : List Byte) => { s with slots := s.slots.put c.slot { x with flow := Memory.write x.flow at_ b } }
    let lanes := fun (b : List Byte) (cy : Nat) (o : Answer) => ∃ w : Tbl Word, o = goesOn s k { charged c cy with w := w } ∧
      (∀ i < 16, Tbl.get 0 w (16 * v.toNat + i) = BitVec.ofNat 32 (natOfBytes ((b.drop (4 * i)).take 4))) ∧
      ∀ r, r < 16 * v.toNat ∨ 16 * v.toNat + 16 ≤ r → Tbl.get 0 w r = Tbl.get 0 c.w r
    let vec := (List.range 16).flatMap (fun i => wordBytes (wOf c v i))
    (at_ % 4 = 0 → at_ < 4096 →
      exec (.sepalPkl d a off) s = goesOn s k (withY (charged c 1) d (BitVec.ofNat 32 (natOfBytes (payload p at_ 4)))) ∧
      exec (.sepalPks a b off) s = withPkt (wordBytes (yOf c b))) ∧
    (at_ % 4 ≠ 0 → exec (.sepalPkl d a off) s = stop 1 19 ∧ exec (.sepalPks a b off) s = stop 1 19 ∧
      exec (.sepalFld d a off) s = stop 2 19 ∧ exec (.sepalFst a b off) s = stop 2 19 ∧ exec (.sepalFat d a b off) s = stop 2 19) ∧
    (at_ % 4 = 0 → 4096 ≤ at_ → exec (.sepalPkl d a off) s = stop 1 18 ∧ exec (.sepalPks a b off) s = stop 1 18) ∧
    (at_ % 4 = 0 → at_ + 4 ≤ x.flowb →
      exec (.sepalFld d a off) s = goesOn s k (withY (charged c 2) d (Memory.word x.flow at_)) ∧
      exec (.sepalFst a b off) s = goesOn (withFlow (wordBytes (yOf c b))) k (charged c 2) ∧
      exec (.sepalFat d a b off) s = goesOn (withFlow (wordBytes (wrap 32 (u (Memory.word x.flow at_) + u (yOf c b))))) k
        (withY (charged c 2) d (Memory.word x.flow at_))) ∧
    (at_ % 4 = 0 → x.flowb < at_ + 4 → exec (.sepalFld d a off) s = stop 2 17 ∧ exec (.sepalFst a b off) s = stop 2 17 ∧
      exec (.sepalFat d a b off) s = stop 2 17) ∧
    (at_ % 64 = 0 → at_ < 4096 → lanes (payload p at_ 64) 4 (exec (.sepalVld false v a off) s)) ∧
    (at_ % 64 = 0 → at_ + 64 ≤ x.flowb → lanes (Memory.bytes x.flow at_ 64) 4 (exec (.sepalVld true v a off) s)) ∧
    (at_ % 64 = 0 → 4096 ≤ at_ → exec (.sepalVld false v a off) s = stop 4 18) ∧
    (at_ % 64 = 0 → x.flowb < at_ + 64 → exec (.sepalVld true v a off) s = stop 4 17) ∧
    (vst % 64 = 0 → vst < 4096 → exec (.sepalVst false v a b off) s =
      goesOn s k { charged c 4 with pkt := { p with payload := payloadWith p vst vec } }) ∧
    (vst % 64 = 0 → vst + 64 ≤ x.flowb → exec (.sepalVst true v a b off) s =
      goesOn { s with slots := s.slots.put c.slot { x with flow := Memory.write x.flow vst vec } } k (charged c 4)) ∧
    (vst % 64 = 0 → 4096 ≤ vst → exec (.sepalVst false v a b off) s = stop 4 18) ∧
    (vst % 64 = 0 → x.flowb < vst + 64 → exec (.sepalVst true v a b off) s = stop 4 17) ∧
    (∀ sp, (at_ % 64 ≠ 0 → exec (.sepalVld sp v a off) s = stop 4 19) ∧ (vst % 64 ≠ 0 → exec (.sepalVst sp v a b off) s = stop 4 19)) ∧
    (∀ n : BitVec 4, n.toNat < 13 →
      let kind := if p.kind = .send then 2 else if p.kind = .coll then 3 else 1
      let fields := [p.src, p.dst, p.cls, kind, p.len, p.target % 2 ^ 32, p.target / 2 ^ 32 % 2 ^ 16, p.dcnt, b2n p.cntv, b2n p.incmode,
        b2n p.last, if kind = 3 then p.collid else 0, if kind = 3 then p.cstep else 0]
      exec (.sepalPhl d n) s = goesOn s k (withY (charged c 1) d (BitVec.ofNat 32 (fields.getD n.toNat 0)))) ∧
    (let y := (yOf c a).toNat
     let set := fun (p : Packet) => goesOn s k { charged c 1 with pkt := p }
     (y ≤ p.len → exec (.sepalPhs a 4) s = set { p with len := y }) ∧ (p.len < y → exec (.sepalPhs a 4) s = stop 1 22) ∧
     (y < 4096 → exec (.sepalPhs a 7) s = set { p with dcnt := y }) ∧ (4096 ≤ y → exec (.sepalPhs a 7) s = stop 1 22) ∧
     (y < 2 → exec (.sepalPhs a 8) s = set { p with cntv := decide (y = 1) } ∧
       exec (.sepalPhs a 9) s = set { p with incmode := decide (y = 1) }) ∧
     (2 ≤ y → exec (.sepalPhs a 8) s = stop 1 22 ∧ exec (.sepalPhs a 9) s = stop 1 22))) ∧
  (∀ (s : State) (k : Nat) (c : Ctx), Turn s k c →
    let made := fun (o : Answer) (d : BitVec 3) (v : Nat → Word) => ∃ w : Tbl Word, o = goesOn s k { charged c 1 with w := w } ∧
      (∀ i < 16, Tbl.get 0 w (16 * d.toNat + i) = v i) ∧
      ∀ r, r < 16 * d.toNat ∨ 16 * d.toNat + 16 ≤ r → Tbl.get 0 w r = Tbl.get 0 c.w r
    (∀ (d a b : BitVec 3) (ty : BitVec 2), ty ≠ 3 →
      made (exec (.sepalVadd d a b ty) s) d (fun i => laneOp ty (fun a b => wrap 32 (u a + u b)) Fp.addBits (wOf c a i) (wOf c b i)) ∧
      made (exec (.sepalVmax d a b ty) s) d (fun i => laneOp ty (fun a b => if b.toInt ≤ a.toInt then a else b)
        (fun F x y => (Fp.minMax F true x y).bits) (wOf c a i) (wOf c b i)) ∧
      made (exec (.sepalVmin d a b ty) s) d (fun i => laneOp ty (fun a b => if a.toInt ≤ b.toInt then a else b)
        (fun F x y => (Fp.minMax F false x y).bits) (wOf c a i) (wOf c b i))) ∧
    (∀ (d a : BitVec 3) (h : BitVec 1),
      let half := fun (v : Word) => v.toNat / 2 ^ (16 * h.toNat) % 2 ^ 16
      made (exec (.sepalVcvtUp d a h) s) d (fun i => BitVec.ofNat 32 (Fp.convert (.flt Fp.f32) (.flt Fp.bf) .rn (half (wOf c a i))).bits) ∧
      made (exec (.sepalVcvtDn d a h) s) d (fun i =>
        let n := (Fp.convert (.flt Fp.bf) (.flt Fp.f32) .rn (wOf c a i).toNat).bits % 2 ^ 16
        BitVec.ofNat 32 (n * 2 ^ (16 * h.toNat) + ((wOf c d i).toNat - half (wOf c d i) * 2 ^ (16 * h.toNat))))) ∧
    (∀ (d : BitVec 4) (a : BitVec 3),
      exec (.sepalVred d a 0) s = goesOn s k (withY (charged c 4) d (wrap 32 (((List.range 16).map (fun i => u (wOf c a i))).sum))) ∧
      exec (.sepalVred d a 1) s = goesOn s k (withY (charged c 4) d (BitVec.ofNat 32
        (Fp.accumulate ((List.range 16).map (fun i => Fp.f32.val (wOf c a i).toNat)) false).bits))))

/-- R431, R433, R440: the oldest packet of a sepal's slots starts in its lowest free context, with y0 = LEN and all else zero;
FWD, DROP and MIRR set what becomes of the packet, where their port is legal; DONE applies it and frees the context: a delivered
piece contributes to counters unless it has been mirrored, and the outcome of a forwarded one is awaited (R433, R442); a trap
disables the slot, takes its contexts and packets and writes one record. The record's VA is the model's choice (log 70). -/
def Obligations.SepalPackets : Prop :=
  (∀ (s : State) (k : Nat) (c : Ctx) (a : BitVec 4) (x : Slot), Turn s k c → s.slots.find? c.slot = some x →
    let y := (yOf c a).toNat
    let legal := y < 32 ∧ x.ports.getLsbD y = true ∧ s.portUp y = true
    let stop := fun (sub : Nat) => Host.Outcome.next (s.sepalTrap (charged c 1) sub 0).settleBarriers
    exec .sepalDrop s = goesOn s k { charged c 1 with disp := .drop } ∧
    (legal → exec (.sepalFwd a) s = goesOn s k { charged c 1 with disp := .fwd y }) ∧
    (¬legal → exec (.sepalFwd a) s = stop 20 ∧ exec (.sepalMirr a) s = stop 20) ∧
    (legal → c.mirrors.length < 4 → exec (.sepalMirr a) s = goesOn s k { charged c 1 with mirrors := c.mirrors ++ [y] }) ∧
    (legal → 4 ≤ c.mirrors.length → exec (.sepalMirr a) s = stop 21)) ∧
  (∀ (s : State) (k : Nat) (c : Ctx), Turn s k c →
    let u := { s with ctxts := s.ctxts.erase k }
    let v := c.mirrors.foldl (fun (s : State) p => { s with fabricOut := s.fabricOut ++
      [{ c.pkt with dst := s.portPeer p, marked := true, mirror := true }] }) u
    (c.disp = .deliver → exec .sepalDone s = .next (v.performPiece c.pkt (c.mirrors = [])).settleBarriers) ∧
    (∀ p, c.disp = .fwd p → exec .sepalDone s = .next (State.settleBarriers (State.pieceAway
      { v with fabricOut := v.fabricOut ++ [{ c.pkt with dst := v.portPeer p, marked := true, mirror := false }] } c.pkt))) ∧
    (c.disp = .drop → exec .sepalDone s = .next (v.pieceRefused c.pkt).settleBarriers)) ∧
  (∀ (s : State) (sepal slot : Nat) (p : Packet) (r : List (Nat × Packet)) (k : Nat), s.sepalQ = (slot, p) :: r → slot / 4 = sepal →
    4 * sepal ≤ k → k < 4 * sepal + 4 → s.ctxts.find? k = none → (∀ j, 4 * sepal ≤ j → j < k → s.ctxts.find? j ≠ none) →
    exec (.sepalContextStart sepal) s = .next { s with
      sepalQ := r
      ctxts := s.ctxts.put k { slot := slot, pkt := p, y := Tbl.set 0 [] 0 (BitVec.ofNat 32 p.len) } }) ∧
  (∀ (s : State) (sepal : Nat), (∀ e ∈ s.sepalQ, e.1 / 4 ≠ sepal) → exec (.sepalContextStart sepal) s = .next s) ∧
  (∀ (s : State) (c : Ctx) (x : Slot) (sub : Nat) (va : DWord), s.slots.find? c.slot = some x → s.launches = [] → s.arrivals = [] →
    let v := s.sepalTrap c sub va
    v.slots.find? c.slot = some { x with disabled := true } ∧ (∀ e ∈ v.ctxts, e.2.slot ≠ c.slot) ∧ (∀ e ∈ v.sepalQ, e.1 ≠ c.slot) ∧
    (∀ e ∈ s.ctxts, e.2.slot ≠ c.slot → e ∈ v.ctxts))

/-- R209, R210, R211, R216, R233, R276, R376: TRIG marks its thread; EXIT leaves every mask and goes on to end; TAIL ends at once
where the tracker has room for its stores, else waits for it; THREAD_END ends an EXITing thread once its results and stores are
complete, and lets a TAIL and an XSUCC that wait go on; a result returns to its registers, the oldest first; a deferred trap
enters its handler when the task's other threads rest. That results return oldest first (log 5) and that the tracker takes one
entry for a thread and a store (log 48) are the model's choices. -/
def Obligations.ThreadsEnd : Prop :=
  (∀ (f : FmtS) (s : State) (t : ThreadRef) (th : Thread), Lone s t th →
    ∃ u : State, exec (.trig f) s = .next (u.noteTrigger t.task) ∧
      u.still = (s.modThread t (fun th => committed { th with triggered := true })).still) ∧
  (∀ (s : State) (t : ThreadRef) (th : Thread) (k : Task), s.threads.find? (tkey t) = some th → s.tasks.find? t.task = some k →
    ∀ i, i < 12 → (s.leaveAll t).readK t i = s.readK t i &&& ~~~(1#32 <<< (t.tid % 32)) &&& posyLanes k.threads (t.tid / 32) ∨
      (s.leaveAll t).readK t i = s.readK t i ∧ s.member t i = false) ∧
  (∀ (f : FmtS) (s : State) (t : ThreadRef) (th : Thread), Lone s t th →
    let u := (s.modThread t (fun th => { th with regionPc := th.pc + 4, liveIn := ~~~th.dead, regionRm := th.fcr.truncate 2, boundary := true }))
    exec (.exit f) s = .next (lastWord ((u.leaveAll t).modThread t (fun th => { th with status := .exiting })) t) ∧
    (64 < (s.tracked (s.coreOf t)).length + (s.storesOf t).length →
      exec (.tail f) s = .next (endedThen (lastWord (u.modThread t (fun th => { th with status := .parked .tracker })) t) t)) ∧
    ((s.tracked (s.coreOf t)).length + (s.storesOf t).length ≤ 64 →
      exec (.tail f) s = .next (endedThen (lastWord (u.tailEnd t) t) t))) ∧
  (∀ (s : State) (t : ThreadRef), ((s.tailEnd t).thread t).status = .ended ∨ s.threads.find? (tkey t) = none) ∧
  (∀ (s : State) (t : ThreadRef) (th : Thread), s.threads.find? (tkey t) = some th → th.status = .exiting →
    exec (.threadEnd t) s = .next (if th.pend = [] ∧ s.storesOf t = [] then ((s.stopThread t).afterEnd t.task).collTask t.task else s)) ∧
  (∀ (s : State) (t : ThreadRef) (th : Thread), s.threads.find? (tkey t) = some th →
    (th.status = .parked .tracker →
      (64 < (s.tracked (s.coreOf t)).length + (s.storesOf t).length → exec (.threadEnd t) s = .next (s.collTask t.task)) ∧
      ((s.tracked (s.coreOf t)).length + (s.storesOf t).length ≤ 64 →
        exec (.threadEnd t) s = .next ((((s.tailEnd t).testAll [t]).afterEnd t.task).collTask t.task))) ∧
    (∀ va, th.status = .parked (.xsucc va) →
      exec (.threadEnd t) s = .next (if (s.task t.task).status = .resident then s.afterEnd t.task else s))) ∧
  (∀ (s : State) (t : ThreadRef) (th : Thread) (e : List (Nat × Word)) (r : List (List (Nat × Word))),
    s.threads.find? (tkey t) = some th → th.pend = e :: r →
    ∃ v : State, exec (.resultReturn t) s = .next v ∧ v = { s with threads := v.threads } ∧
      (∀ k, k ≠ tkey t → v.threads.find? k = s.threads.find? k) ∧
      v.threads.find? (tkey t) = some (e.foldl (fun th p => th.setG p.1 p.2) { th with pend := r })) ∧
  (∀ (s : State) (t : ThreadRef) (th : Thread) (i : TrapInfo), s.threads.find? (tkey t) = some th → th.status = .parked (.deferred i) →
    (s.task t.task).status = .resident →
    exec (.deferredTrapEntry t) s =
      .next (if ∀ x ∈ s.threadsOf t.task, x.tid = t.tid ∨ x.status = .ended ∨ x.status.waits = true then
        (s.takeRecord t (s.recordOf t i)).settleBarriers else s))

/-- R211, R212, R213, R214, R215: XSUCC reads and checks its record and parks its thread, whose task then ends in the successor's
favour; the successor starts with the next sequence number, its own threads, cleared masks and handler base, after an acquire, and is
pre-empted at once on a core that has been fenced (R453); a task that has ended
gives up its handles, its tile memory and its threads once its stores have drained and its engine operations are over. R111, R114:
its locks go with it, after what it has stored. R415, R417: in a launch with a collective its end makes its chunk ready, or fails
the collective where its RESULT names no record that keeps R415. That a task being succeeded still answers accesses and is not
pre-empted (log 58), and what takes the successor's age (log 59), are the model's choices. -/
def Obligations.TasksEnd : Prop :=
  (∀ (b : List Byte) (r : Successor), successorOf b = some r ↔ SuccessorRecord b r) ∧
  (∀ (f : FmtS) (s s1 : State) (t : ThreadRef) (th : Thread) (b : List Byte), Lone s t th → s.collect = none →
    let va := s.readPair t f.a.toNat
    (va.toNat % 64 ≠ 0 → exec (.xsucc f) s = .next ((s.takeTrap t { code := 2, sub := 0, va := va }).afterEnd t.task)) ∧
    (va.toNat % 64 = 0 → s.memReadRun t va 16 4 = .ok b s1 →
      (∀ r, SuccessorRecord b r → (s1.task t.task).xsucc = none →
        exec (.xsucc f) s = .next ((((((s1.commit t).modTask t.task (fun k => { k with xsucc := some r })).park t (.xsucc va)).advance t)).afterEnd t.task)) ∧
      ((∀ r, ¬ SuccessorRecord b r) ∨ (s1.task t.task).xsucc ≠ none → s1.collect = none →
        exec (.xsucc f) s = .next ((s1.takeTrap t { code := 1, sub := 13, va := (s1.thread t).pc }).afterEnd t.task)))) ∧
  (∀ (s : State) (task : Nat) (th : Thread) (va : DWord), s.liveOf task = [th] → th.status = .parked (.xsucc va) →
    s.afterEnd task = ((((s.noteTrigger task).stopThread th.ref).modTask task (fun k =>
      { k with status := .succeeding, grace := false })).releaseTask task)) ∧
  (∀ (s : State) (task : Nat), (s.locksOf task = [] → s.releaseTask task = s) ∧
    (s.locksOf task ≠ [] → s.releaseTask task = ((s.drain (s.task task).phys).revoke task).relock)) ∧
  (∀ (s : State) (task : Nat) (k : Task) (x : Successor), s.tasks.find? task = some k → k.status = .succeeding → k.xsucc = some x →
    (s.threadsFit k.phys x.threads x.regs = false → exec (.successorPlace task) s = .next s) ∧
    (s.threadsFit k.phys x.threads x.regs = true →
      let age := s.launchSeq.toNat * 2 ^ 24 + task % 2 ^ 24
      ∃ v : State,
        v = { s with launchSeq := s.launchSeq + 1, tasks := v.tasks, threads := v.threads, engines := v.engines, armed := v.armed, tmems := v.tmems, gates := v.gates } ∧
        exec (.successorPlace task) s = .next (if k.phys ∈ s.fencedCores then (v.acquire k.phys).beginSave age else v.acquire k.phys) ∧
        (∃ k', v.tasks.find? age = some k' ∧ k'.age = age ∧ k'.lseq = s.launchSeq.toNat ∧ k'.launch = k.launch ∧ k'.stage = k.stage ∧
          k'.threads = x.threads ∧ k'.regs = x.regs ∧ k'.trapLo = 0 ∧ k'.trapHi = 0 ∧ k'.wounded = false ∧ k'.masks = [] ∧ k'.phases = [] ∧
          k'.xsucc = none ∧ k'.status = .resident ∧ k'.handles = k.handles ∧ k'.spm = k.spm ∧ k'.spmBase = k.spmBase ∧
          k'.spmSize = k.spmSize ∧ k'.core = k.core ∧ k'.phys = k.phys) ∧
        (task ≠ age → v.tasks.find? task = none) ∧
        (∀ i, i < x.threads → v.threads.find? (tkey ⟨age, i⟩) = some (firstThread age i x s.tick)))) ∧
  (∀ (s : State) (task : Nat) (k : Task), s.tasks.find? task = some k → k.status = .ended →
    exec (.taskResourcesFree task) s = .next (if s.undrained k = true ∨ (∃ e ∈ s.engines, e.2.task = task) then s else
      let u := (released (s.collTask task) k task).unretryAll (fun r => r == .task task)
      (u.modLaunch k.launch (fun l => { l with done := l.done + 1 })).finishLaunch k.launch)) ∧
  (∀ (s : State) (task : Nat) (k : Task), s.tasks.find? task = some k →
    let l := s.launchOf task
    (l.group = none ∨ l.coll = none ∨ k.status ≠ .ended → s.collTask task = s) ∧
    (∀ g x, l.group = some g → l.coll = some x → k.status = .ended →
      (task % 2 ^ 24 ∈ x.tasks → s.collTask task = s) ∧
      (task % 2 ^ 24 ∉ x.tasks →
        (k.handles.find? l.rcd.result = none → s.collTask task = s.collFail k.launch) ∧
        (∀ y, k.handles.find? l.rcd.result = some y →
          (¬ResultFits l (2 ^ g.log2n) (s.layout y) → s.collTask task = s.collFail k.launch) ∧
          (ResultFits l (2 ^ g.log2n) (s.layout y) → s.collTask task = (s.modLaunch k.launch (fun l => { l with coll := some { x with
            tasks := task % 2 ^ 24 :: x.tasks, result := some (x.result.getD (s.layout y).rcd) } })).collRun k.launch)))))

/-- R361, R362, R363, R387, R142: LAUNCH copies 256 bytes into the ring's slot at TAIL and moves TAIL on, answering 0; a queue
that is not its function's or not valid answers 2; a full ring parks it, and LAUNCH.nb answers 1; a misaligned record traps ALIGN.
A queue write sets TAIL, or is counted in WERR. A record is read once memory is ready; one that fails a check is rejected; the
dependences of a checked launch are read, those not met again at a recheck. The model's choices: what lies outside device memory
(log 43) and the fields that the spec leaves undefined (log 73); a dependence that meets a page in migration waits (log 44). -/
def Obligations.Launching : Prop :=
  (∀ (f : FmtSA) (s : State) (t : ThreadRef) (th : Thread), Lone s t th → s.collect = none →
    let va := s.readPair t f.a.toNat
    let q := (s.readG t f.d.toNat).toNat
    let bad := 8192 ≤ q ∨ s.qValid q = false ∨ s.qFunc q ≠ (s.task t.task).func
    let full := 2 ^ s.qLog q ≤ ((s.greg (.qtail q)).toNat + 2 ^ 32 - (s.greg (.qhead q)).toNat % 2 ^ 32) % 2 ^ 32
    (va.toNat % 64 ≠ 0 → exec (.launch f) s = .next (s.takeTrap t { code := 2, sub := 0, va := va }) ∧
      exec (.launchNb f) s = .next (s.takeTrap t { code := 2, sub := 0, va := va })) ∧
    (va.toNat % 64 = 0 → bad → exec (.launch f) s = .next (launchAnswer s t f.d.toNat 2) ∧
      exec (.launchNb f) s = .next (launchAnswer s t f.d.toNat 2)) ∧
    (va.toNat % 64 = 0 → ¬ bad → full →
      exec (.launch f) s = .next (s.modThread t (fun x => { x with status := .parked (.launch q th.pc va f.d.toNat), pc := x.pc + 4 })) ∧
      exec (.launchNb f) s = .next (launchAnswer s t f.d.toNat 1)) ∧
    (∀ b s1, va.toNat % 64 = 0 → ¬ bad → ¬ full → s.memReadRun t va 16 16 = .ok b s1 →
      let u := launchAnswer ((s1.drain (s1.coreOf t)).queueSlot q b) t f.d.toNat 0
      exec (.launch f) s = .next u ∧ exec (.launchNb f) s = .next u)) ∧
  (∀ (s : State) (q : Nat) (b : List Byte),
    let tail := (s.greg (.qtail q)).toNat
    let a := 256 * ((s.greg (.qbase q)).toNat / 2 ^ 8 % 2 ^ 44) + 256 * (tail % 2 ^ s.qLog q)
    a + 256 ≤ 2 ^ 39 → s.queueSlot q b = (s.wrN a b).setTail q (tail + 1)) ∧
  (∀ (s : State) (func q : Nat) (tail : BitVec 32), s.up = true →
    exec (.queueWrite func q tail) s = .next (if 8192 ≤ q ∨ s.qFunc q ≠ func ∨ s.qValid q = false then s.bumpF func .werr
      else s.setTail q tail.toNat)) ∧
  (∀ (s : State) (q count : Nat) (p : Pending), s.pending? q count = some p →
    (p.ready = true → exec (.launchCheck q count) s = .next s) ∧
    (s.memReady = false → s.bootFail = false → exec (.launchCheck q count) s = .next s) ∧
    (p.ready = false → s.memReady = true → s.bootFail = false → s.qSlot q count + 256 ≤ 2 ^ 39 →
      let x := s.readBytesAt (homeDie (s.qSlot q count / 256)) (s.qSlot q count) 256
      let dw := fun (i : Nat) => natOfBytes ((x.1.drop (8 * i)).take 8)
      let c := x.2.ctx (x.2.qAsid q)
      let turned := turnedAway c.2 q count (BitVec.ofNat 64 (dw 5 % 2 ^ 56)) (BitVec.ofNat 64 (dw 6)) (BitVec.ofNat 64 (dw 7 % 2 ^ 56))
      c.2.bootFail = false ∧
      (ctxValid c.1 = false ∨ LaunchRec.parse x.1 = none → exec (.launchCheck q count) s = .next turned) ∧
      (∀ r, ctxValid c.1 = true → LaunchRec.parse x.1 = some r → r.group = 0 →
        let y := c.2.readDeps (x.2.qFunc q) (x.2.qAsid q) (r.deps.map (fun e => (e, false)))
        exec (.launchCheck q count) s =
          .next ((y.2.modPending q count (fun p => { p with rcd := r, group := none, ready := true })).applyDeps q count r y.1)))) ∧
  (∀ (b : List Byte) (r : LaunchRec), LaunchRec.parse b = some r →
    1 ≤ r.stages ∧ r.stages ≤ 4 ∧ r.nchan ≤ 48 ∧ 1 ≤ r.gridx * r.gridy * r.gridz ∧ r.gridx * r.gridy * r.gridz * r.stages ≤ 2 ^ 24 ∧
    r.scratch ≤ 524288 ∧ r.coresLog2 ≤ 9 ∧ (∀ n ∈ r.threads, 1 ≤ n ∧ n ≤ 1024) ∧ (∀ n ∈ r.regs, 1 ≤ n ∧ n ≤ 64) ∧
    (∀ e ∈ r.entry, e.toNat % 12 = 0) ∧ false ∈ r.kind ∧ (∀ c ∈ r.chmap, c.1 < c.2 ∧ c.2 < r.stages)) ∧
  (∀ (s : State) (q count : Nat) (p : Pending), s.pending? q count = some p → p.ready = true →
    exec (.dependenceRecheck q count) s = .next (if ∀ m ∈ p.met, m = true then s else
      let x := s.readDeps (s.qFunc q) (s.qAsid q) (p.rcd.deps.zip p.met)
      x.2.applyDeps q count p.rcd x.1)) ∧
  (∀ (s : State) (q count : Nat) (r : LaunchRec) (l : List DepRead), .bad ∈ l ∨ .met true ∈ l →
    s.applyDeps q count r l = turnedAway s q count r.doneSig r.doneDec r.trigSig) ∧
  (∀ (s : State) (q count : Nat) (r : LaunchRec) (l : List DepRead), .bad ∉ l → .met true ∉ l →
    s.applyDeps q count r l = (s.modPending q count (fun p => { p with met := l.map (fun x => x == .met false) })).armEligible q)

/-- R365, R366, R367, R369, R370, R371, R374, R416: the arbiter takes a choosable launch of the lowest class, which gets the next
sequence number; a core admits the first task in its order as room allows, which starts with all its threads; one core moves
between stages; an idle core takes a donated task; a collective reserves in the order of COLLID, a later one whose ready exchange
is open yielding where the pools are short, and tells the other members one after the other, each once those before have answered.
The model's choices: the start of a window and a core that is settled (log 75), the order of the dies (log 76), the size of a
result that no record has named yet (log 62). -/
def Obligations.Scheduling : Prop :=
  (∀ (s : State) (p : Pending) (c f cr : Nat), s.arbitrate = some (p, c, f, cr) →
    p ∈ s.pending ∧ s.choosable p = true ∧ p.rcd.cls = c ∧ c < 4 ∧ s.qFunc p.q = f ∧
    (∀ x ∈ s.pending, s.choosable x = true → x.rcd.cls < 4 → c ≤ x.rcd.cls)) ∧
  (∀ s : State, s.memReady = false ∨ s.arbitrate = none → exec .dispatch s = .next s) ∧
  (∀ (s : State) (p : Pending) (c f cr : Nat), s.memReady = true → s.arbitrate = some (p, c, f, cr) →
    let l := s.newLaunch p
    let d := s.ctx l.asid
    l.lseq = s.launchSeq.toNat ∧ l.rcd = p.rcd ∧ l.func = s.qFunc p.q ∧ l.done = 0 ∧
    l.waiting.length = p.rcd.stages * p.rcd.perStage ∧
    exec .dispatch s = .next ((State.headGo { d.2 with
      ctxs := Tbl.put d.2.ctxs l.asid d.1
      launches := d.2.launches.put l.lseq l
      launchSeq := d.2.launchSeq + 1
      pending := d.2.pending.filter (fun x => !(x.q == p.q && x.count == p.count))
      arbPtr := d.2.arbPtr.set c f
      arbCr := d.2.arbCr.set c cr
      lastQ := assocSet d.2.lastQ (f, c) p.q } p.q).armEligible p.q)) ∧
  (∀ {α : Type} (l : List ((Nat × Nat × Nat) × α)) (x : (Nat × Nat × Nat) × α), firstPlaced l = some x →
    x ∈ l ∧ ∀ y ∈ l, admitBefore y.1 x.1 = false) ∧
  (∀ (s : State) (core : Nat), Settled s →
    (firstPlaced (s.waitingOn core) = none → exec (.taskAdmit core) s = .next s) ∧
    (∀ key l w, firstPlaced (s.waitingOn core) = some (key, l, w) →
      let n := l.rcd.threads.getD w.stage 1
      let regs := l.rcd.regs.getD w.stage 64
      (s.spmRoom core l.rcd.spmSize = none → exec (.taskAdmit core) s = .next s) ∧
      (∀ base, s.spmRoom core l.rcd.spmSize = some base → exec (.taskAdmit core) s =
        .next (if s.fencedCores.contains core = false ∧ s.threadsFit core n regs = true ∧
          ∀ x ∈ s.savedOn core, admitBefore x.1 key = false then s.admitTask l w base else s)))) ∧
  (∀ (s : State) (l : Launch) (w : WaitTask) (base : Nat), s.launches.find? l.lseq = some l →
    let r := l.rcd
    let age := l.lseq * 2 ^ 24 + (w.stage * (r.gridx * r.gridy * r.gridz) + w.num)
    let v := s.admitTask l w base
    (∃ k, v.tasks.find? age = some k ∧ k.age = age ∧ k.lseq = l.lseq ∧ k.stage = w.stage ∧ k.num = w.num ∧ k.x = w.num % r.gridx ∧
      k.y = w.num / r.gridx % r.gridy ∧ k.z = w.num / (r.gridx * r.gridy) ∧ k.func = l.func ∧ k.asid = l.asid ∧ k.core = w.core ∧
      k.phys = w.phys ∧ k.threads = r.threads.getD w.stage 1 ∧ k.regs = r.regs.getD w.stage 64 ∧ k.spmBase = base ∧
      k.spmSize = (r.scratch + 63) / 64 * 64 ∧ k.spm = [] ∧ k.masks = [] ∧ k.handles = [] ∧ k.status = .resident) ∧
    (∀ i, i < r.threads.getD w.stage 1 → v.threads.find? (tkey ⟨age, i⟩) = some (firstThread age i
      { entry := r.entry.getD w.stage 0, threads := 0, regs := 0, arg := r.arg } s.tick)) ∧
    v.launches.find? l.lseq = some { l with waiting := l.waiting.erase w, emptied := l.emptied.erase w.phys } ∧
    ∃ u : State, u = { s with tasks := v.tasks, threads := v.threads, launches := v.launches, gates := v.gates } ∧ v = u.acquire w.phys) ∧
  (∀ (s : State) (lseq : Nat), Settled s →
    (s.launches.find? lseq = none → exec (.stageRebalance lseq) s = .next s) ∧
    (∀ l, s.launches.find? lseq = some l →
      let u := s.modLaunch lseq (fun m => m.newWindow s.clock)
      (l.moves s.clock = none → exec (.stageRebalance lseq) s = .next u) ∧
      (∀ x y, l.moves s.clock = some (x, y) →
        let c := (l.serving y).getLastD 0
        24 * (l.fill s.clock x).2 ≤ (l.fill s.clock x).1 ∧ (l.fill s.clock y).1 ≤ 8 * (l.fill s.clock y).2 ∧ x < y ∧
        2 ≤ (l.serving y).length ∧
        exec (.stageRebalance lseq) s =
          .next ((u.modLaunch lseq (fun m => { m with moved := m.moved ++ [(c, x)] }.replace y c)).settleMoves lseq)))) ∧
  (∀ (l : Launch) (now st : Nat),
    let cs := (List.range l.rcd.nchan).filter (fun i => (l.rcd.chmap.getD i (0, 0)).2 == st)
    (cs = [] → l.fill now st = (32, 1)) ∧
    (cs ≠ [] → l.window < now →
      l.fill now st = ((cs.map (fun i => (l.chan i).sum + (now - (l.chan i).at_) * min 32 (l.chan i).entries.length)).sum,
        cs.length * (now - l.window)))) ∧
  (∀ (l : Launch) (st c : Nat) (w : WaitTask), w ∈ (l.replace st c).waiting → w ∉ l.waiting →
    ∃ w0 ∈ l.waiting, w0.core = c ∧ w0.num = w.num ∧ w0.stage = w.stage ∧ w = l.waitTask w0.stage w0.num) ∧
  (∀ {α : Type} (f : α → Nat) (l : List α) (x : α), greatest f l = some x → x ∈ l ∧ f x ≠ 0 ∧ ∀ y ∈ l, f y ≤ f x) ∧
  (∀ (s : State) (core : Nat),
    let beds := fun (i : Nat) => (List.range 16).map (fun b => 16 * Nat.xor (core / 128) i + b)
    (s.idleCore core = false → exec (.stealRequest core) s = .next s) ∧
    ((∀ i b, i < 4 → b < 16 → donated s (16 * Nat.xor (core / 128) i + b) = 0) → exec (.stealRequest core) s = .next s) ∧
    (∀ i bed lseq l w, s.idleCore core = true → i < 4 → (∀ j < i, greatest (donated s) (beds j) = none) →
      greatest (donated s) (beds i) = some bed →
      greatest (fun (e : Nat × Launch) => (e.2.donates bed).length) s.launches = some (lseq, l) →
      greatest (fun (w : WaitTask) => l.rcd.number w + 1) (l.donates bed) = some w →
      exec (.stealRequest core) s = .next (s.modLaunch lseq (fun l =>
        { l with waiting := l.waiting.map (fun x => if x = w then { x with phys := core } else x) })))) ∧
  (∀ (s : State) (n : Nat),
    (armedAt s n = none → exec (.collectiveReserve n) s = .next s) ∧
    (∀ c, armedAt s n = some c →
      let go := fun (s : State) => Host.Outcome.next (if n < 2 ^ 40 then s.collRun n else s)
      (c.coll.failed = true ∨ c.coll.finished = true → exec (.collectiveReserve n) s = go s) ∧
      (c.coll.failed = false → c.coll.finished = false → c.coll.reserved = true → exec (.collectiveReserve n) s = go (s.tellMembers c)) ∧
      (awaits c = true → (∃ x ∈ s.armedColls, x.job = c.job ∧ x.id < c.id ∧ awaits x = true) → exec (.collectiveReserve n) s = go s) ∧
      (awaits c = true → (∀ x ∈ s.armedColls, x.job = c.job → x.id < c.id → awaits x = false) →
        (∀ r, s.collFits c = some r → exec (.collectiveReserve n) s = go (s.collReserve c r)) ∧
        (s.collFits c = none →
          let open_ := s.armedColls.filter (fun x => x.job == c.job && decide (c.id < x.id) && x.coll.reserved && !s.allReady x)
          (open_ = [] → exec (.collectiveReserve n) s = go s) ∧
          (∀ x, open_ = [x] → (∀ y ∈ s.armedColls, y.job = x.job → y.id = x.id → y = x) →
            (∀ r, (s.collYield x).collFits c = some r → exec (.collectiveReserve n) s = go ((s.collYield x).collReserve c r)) ∧
            ((s.collYield x).collFits c = none → exec (.collectiveReserve n) s = go (s.collYield x))))) ∧
      (∀ r, s.collFits c = some r → r.1.length = c.group.log2n ∧ r.1.Nodup ∧
        (∀ i ∈ r.1, (s.greg .collcnt).toNat % 2 ^ 12 ≤ i ∧ i < (s.greg .collcnt).toNat % 2 ^ 12 + (s.greg .collcnt).toNat / 2 ^ 12 % 2 ^ 12 ∧
          ∀ x ∈ s.armedColls, x.coll.reserved = true → i ∉ x.coll.counters) ∧
        r.2 + c.group.log2n * c.size ≤ ((s.greg .collpool).toNat / 2 ^ 16 % 2 ^ 36 + (s.greg .collpool).toNat % 2 ^ 16) * 65536))) ∧
  (∀ (s : State) (c : ArmedColl) (k m : Nat) (j : Nat), c.group.others[k]? = some m → s.reachable m = true →
    let msg := fun (s : State) (step : Nat) => (s.peerClass c.asid m).2.send c.func { blankPacket with
      kind := .coll, dst := m, cls := (s.peerClass c.asid m).1, jobkey := c.group.jobkey, collid := c.id, cstep := step, dcnt := c.counterFor m }
    (∀ x ∈ c.group.others.take k, s.ready? c.job c.id x ≠ none) →
      s.tellNext c k = msg (s.modColl c.job c.id (fun x => { x with told := max x.told (k + 1) })) 32 ∧
    (j < k → s.ready? c.job c.id (c.group.others.getD j 0) = none → s.tellNext c k = s) ∧
    (c.group.others = [m] →
      s.collYield c = msg { s.modColl c.job c.id (fun x => { x with reserved := false, told := 0 }) with
        readies := s.readies.filter (fun e => !(e.job == c.job && e.id == c.id)) } 33))

/-- R222, R223, R284, R381, R389, R391: a store that fails leaves a pending STORE record on its thread, or, where that has ended,
a record with EXITED in the fault queue, and its write is lost; the host's RESUME of a token runs the thread's region again, or
traps PAGE at its word; an unknown token is ignored, and a write with a reserved bit set is ignored and counted; a held page
record is written once there is room; a waiting petal is power-gated, and a long wait writes one HANG record. R392, R393, R394,
R395, R396: a pre-emption stops the issue of the tasks on its cores: a thread at a word, and one in a wait that no save keeps, is
rolled back, one in another wait stays in it; a quiet task with room in the save pool is saved, giving up its tile memory; a saved
task that is next on its core returns as room allows. The model's choices: a failed store is named by the event (log 30), whose
other stores go on (log 48); EXITED with PRECISE clear in the record of an ended thread (log 50); the waits that have no HANG
record and its PC (log 69); the waits that a save rolls back (log 72) or waits for (log 78); the size of a save area (log 77). -/
def Obligations.ServiceAndSaves : Prop :=
  ((∀ (s : State) (t : ThreadRef) (pc va : DWord) (sub : Nat),
    let hit := fun (x : Nat × TrackEntry) => x.2.task == t.task && x.2.tid == t.tid && x.2.pc == pc && x.2.va == va
    ((s.outstanding sub).find? hit = none → exec (.storeError t pc va sub) s = .next s) ∧
    (∀ core e, (s.outstanding sub).find? hit = some (core, e) →
      let u := s.loseStore core e
      (∀ th, s.threads.find? (tkey t) = some th → th.status ≠ .ended →
        let k := s.task t.task
        exec (.storeError t pc va sub) s = .next (u.modThread t (fun th => { th with stores := th.stores ++
          [{ code := 10, sub := sub, precise := true, tid := t.tid, va := va, pc := e.pc, regionPc := e.regionPc, task := k.num, lseq := k.lseq, asid := k.asid }] }))) ∧
      ((∀ th, s.threads.find? (tkey t) = some th → th.status = .ended) →
        exec (.storeError t pc va sub) s = .next ((u.drain core).pushFault e.func
          { code := 10, sub := sub, exited := true, tid := e.tid, va := va, pc := e.pc, regionPc := e.regionPc, task := e.num, lseq := e.lseq, asid := e.asid })))) ∧
  (∀ (s : State) (core : Nat) (e : TrackEntry),
    let u := s.loseStore core e
    u.still = s.still ∧ (∀ r ∈ u.regs core, e ∉ r.srcs) ∧ (∀ w ∈ u.hostq, w.src ≠ e) ∧ e ∉ u.tracked core ∧
    (∀ r st x, (s.regs core).filter (fun r => r.srcs.contains e) = [r] → s.l1? core r.word = some ⟨st, x⟩ → st = .pnd ∨ st = .own →
      let others := r.puts.filter (fun p => p.src ≠ e)
      let merged := fun (v : Word) => others.foldl (fun v p => mergeBytes p.mask p.val v) v
      (r.accepted = false → others = [] → u.l1? core r.word = none) ∧
      (r.accepted = false → others ≠ [] → u.l1? core r.word = some ⟨st, merged ((s.dropL1 core r.word).loadWord core r.word).1⟩) ∧
      (r.accepted = true → (∃ l, s.slice? (core / 128) (r.word / 64) = some l ∧ l.registered (r.word % 64) = true ∧
        l.ownerCore (core / 128) (r.word % 64) = core) → u.l1? core r.word = some ⟨st, merged r.old⟩))) ∧
  (∀ (s : State) (func : Nat) (v : BitVec 64),
    (s.up = false ∨ 96 < func → exec (.resume func v) s = .next s) ∧
    (s.up = true → func ≤ 96 → 2 ^ 33 ≤ v.toNat → exec (.resume func v) s = .next (s.bumpF func .werr)) ∧
    (v.toNat < 2 ^ 33 → (∀ k, s.tokens.find? (v.toNat % 2 ^ 32) = some k → k.func ≠ func) → exec (.resume func v) s = .next s)) ∧
  (∀ (s : State) (func tok : Nat) (fail : Bool) (k : Token) (t : ThreadRef) (th : Thread) (i : TrapInfo),
    s.up = true → func ≤ 96 → s.tokens.find? tok = some k → k.func = func → tok < 2 ^ 32 → s.threads = [(tkey t, th)] → th.ref = t → th.status = .parked (.page tok i) →
    let u : State := { s with tokens := Tbl.erase s.tokens tok }
    let w := if fail then u.takeTraps [(t, th.pc, i)] else (u.rollback t).wake t
    exec (.resume func (BitVec.ofNat 64 (tok + if fail then 2 ^ 32 else 0))) s =
      .next (((w.resumeStreams tok fail).resumeEngines tok fail).settleBarriers)) ∧
  (∀ (s : State) (func : Nat),
    (s.heldPage.find? (fun e => e.1 == func) = none → exec (.pfqRecordRelease func) s = .next s) ∧
    (∀ e, s.heldPage.find? (fun e => e.1 == func) = some e →
      let ring := s.freg func .pfq
      let tail := s.freg func .pfqtail
      (ringRoom ring tail (s.freg func .pfqhead) 64 = false → exec (.pfqRecordRelease func) s = .next s) ∧
      (ringRoom ring tail (s.freg func .pfqhead) 64 = true →
        exec (.pfqRecordRelease func) s =
          .next ((State.wrN { s with heldPage := s.heldPage.erase e } (ringSlot ring tail 64) e.2.pack).bumpF func .pfqtail)))) ∧
  (∀ (s : State) (core petal : Nat),
    let key := 4 * core + petal
    (s.gates.find? key = some .clock → s.petalWaits core petal = true →
      exec (.petalPowerGate core petal) s = .next { s with gates := s.gates.put key .power }) ∧
    (s.gates.find? key ≠ some .clock ∨ s.petalWaits core petal = false → exec (.petalPowerGate core petal) s = .next s)) ∧
  (∀ w : Wait, (∀ r, w ≠ .lockHeld r) → w ≠ .tracker → w.hang = (hangRow w).map (fun x => (x.1, BitVec.ofNat 64 x.2))) ∧
  (∀ (s : State) (core petal : Nat), s.petalWaits core petal = false → exec (.hangReport core petal) s = .next s) ∧
  (∀ (s : State) (core petal : Nat) (th : Thread) (w : Wait) (sub va : Nat), s.petalThreads core petal = [th] → th.status = .parked w →
    th.status.waits = true → hangRow w = some (sub, va) →
    let k := s.task th.task
    let x := s.thread th.ref
    exec (.hangReport core petal) s = .next ((s.drain core).pushFault k.func { code := 12, sub := sub, tid := th.tid, va := BitVec.ofNat 64 va, pc := x.pc, regionPc := x.regionPc, task := k.num, lseq := k.lseq, asid := k.asid }))) ∧
  ((∀ (s : State) (cores : List Nat), (∀ e ∈ s.tasks, e.2.phys ∉ cores ∨ (s.task e.1).status ≠ .resident) →
    exec (.preemptRequest cores) s = .next s) ∧
  (∀ (s : State) (cores : List Nat) (task : Nat) (k : Task), s.tasks = [(task, k)] → k.phys ∈ cores → k.status = .resident →
    exec (.preemptRequest cores) s = .next (s.beginSave task)) ∧
  (∀ (s : State) (task : Nat) (th : Thread), s.liveOf task = [th] →
    let u := s.modTask task (fun k => { k with status := .saving })
    s.beginSave task = (u.settleThread th.ref).relock) ∧
  (∀ (s : State) (t : ThreadRef), savedByRollback (s.thread t).status = true → s.settleThread t = s.rollback t) ∧
  (∀ (s : State) (t : ThreadRef), savedAsIs (s.thread t).status = true → s.settleThread t = s) ∧
  (∀ (s : State) (t : ThreadRef) (n : LockName) (h : Nat), (s.thread t).status = .parked (.lock n h) →
    s.settleThread t = (s.withdraw t.task n).rollback t ∧
    (∀ e, s.lock? t.task n = some e →
      (∀ m, e.st = .wait m → (∀ x ∈ (s.withdraw t.task n).locks, x.task ≠ t.task ∨ x.name ≠ n)) ∧
      (∀ m m', e.st = .upg m m' → ((s.withdraw t.task n).lock? t.task n).map Lock.st = some (.held m)))) ∧
  (∀ (s : State) (t : ThreadRef) (r : Retry), (s.thread t).status = .parked (.retry r) →
    (s.streamOf t = none → s.settleThread t = s.rollback t) ∧ (∀ k, s.streamOf t = some k → s.settleThread t = s.park t (.phase k))) ∧
  (∀ (s : State) (task : Nat) (k : Task), s.tasks.find? task = some k →
    (k.status ≠ .saving ∨ s.quiet k = false ∨ s.saveRoom k = false → exec (.taskSave task) s = .next s) ∧
    (k.status = .saving → s.quiet k = true → s.saveRoom k = true → k.age = task →
      ∃ v : State, exec (.taskSave task) s = .next v ∧
        v = { s with tasks := v.tasks, tmems := v.tmems, engines := v.engines, launches := v.launches } ∧
        (v.task task).status = .saved ∧ (v.task task).spm = k.spm ∧ (v.task task).masks = k.masks ∧ (v.task task).phases = k.phases ∧
        (v.task task).savedTmem = (if (s.tmem k.phys).lease = some task then some (s.tmem k.phys) else none) ∧
        (v.tmem k.phys).lease = (if (s.tmem k.phys).lease = some task then none else (s.tmem k.phys).lease))) ∧
  (∀ (s : State) (task : Nat) (k : Task), s.tasks.find? task = some k → k.age = task →
    (k.status ≠ .saved → exec (.taskRestore task) s = .next s) ∧
    (∀ base, k.status = .saved → s.restoreRoom k k.phys = some base →
      exec (.taskRestore task) s = .next (if s.nextRestored k = true then s.restore k base else s)) ∧
    (k.status = .saved → s.restoreRoom k k.phys = none → (∃ p ∈ (s.launchOf task).cores, s.restoreRoom k p ≠ none) →
      exec (.taskRestore task) s = .next s) ∧
    (∀ base, s.touched = [] → k.held = [] → k.heldCounts = [] → s.liveOf task = [] → (∀ e ∈ s.threads, e.2.status ≠ .parked (.retry (.task task))) →
      ∃ u v : State, s.restore k base = v ∧ u = { s with tasks := v.tasks, tmems := v.tmems, engines := v.engines, launches := v.launches } ∧ v = u.acquire k.phys ∧
        v.tasks.find? task = some { k with status := .resident, spmBase := base, held := [], heldCounts := [], savedTmem := none } ∧
        (∀ m, k.savedTmem = some m → v.tmem k.phys = m))))

/-- R15, R55, R68, R69, R70, R71, R73: the home agent's table: a request that it lists leaves the metadata of its row, of this
line alone, and changes nothing beside the memory hierarchy; one that it does not list (RedU in E, M or O among them) is dropped
and counted; in a set of 16 lines the victim of the tree leaves first; a fenced slice gives up at once the line that a request
brings to it (R453); an address past device memory has no meaning. The model's
own choices in it: dies keep what they hold of a line whose metadata word is invalid (log 92), and a request is one step (log 8).
WB is taken only from a die whose slice holds the line (log 83). -/
def Obligations.HomeRequests : Prop :=
  (∀ (d line : Nat), d < 4 → line < 2 ^ 31 → ∀ e ∈ homeTable d line, ∀ s : State, metaValid (Tbl.get 0 s.metas line) = true →
    SliceFits s d line → (Fenced s d line → e.1 = .wb d line ∨ e.1 = .evc d line) →
    let m := s.lineMeta line
    let dirty := ((s.slice? m.owner.toNat line).map SliceLine.dirty).getD false
    match e.2 m dirty (s.slice? d line).isSome with
    | none => exec e.1 s = .next { s with uncorrected := s.uncorrected + 1 }
    | some m' => ∃ v : State, exec e.1 s = .next v ∧ v.lineMeta line = m' ∧ (∀ l, l ≠ line → v.lineMeta l = s.lineMeta l) ∧
        v.still = s.still) ∧
  (∀ (d line : Nat) (s : State) (x : Nat × SliceLine), d < 4 → line < 2 ^ 31 → s.slice? d line = none → 16 ≤ (s.setLines d line).length →
    (s.setLines d line).find? (fun e => e.2.way == plruVictim (Tbl.get 0 s.plru (setKey d line))) = some x →
    let u := s.sliceEvict d (x.1 % 2 ^ 32)
    ¬Fenced s d line → exec (.rds d line) s = .next (u.rdS line d) ∧ exec (.rdx d line) s = .next (u.rdX line d)) ∧
  (∀ (d line : Nat) (s : State) (op : RedOp) (k : Nat), d < 4 → line < 2 ^ 31 → SliceFits s d line → Fenced s d line →
    exec (.rds d line) s = .next ((s.rdS line d).sliceEvict d line) ∧ exec (.rdx d line) s = .next ((s.rdX line d).sliceEvict d line) ∧
    (redUop op = some k → exec (.redu d line op) s = .next ((s.redU line d k).sliceEvict d line))) ∧
  (∀ (d line : Nat) (s : State), d < 4 → line < 2 ^ 31 → metaValid (Tbl.get 0 s.metas line) = false → SliceFits s d line → ¬Fenced s d line →
    ∃ v : State, exec (.rds d line) s = .next v ∧ v.lineMeta line = solely { poison := true, hint := (Tbl.get 0 s.metas line).getLsbD 13 } .e d ∧
      v.uncorrected = s.uncorrected + 1) ∧
  (∀ (d line : Nat), 2 ^ 31 ≤ line → ∀ e ∈ homeTable d line, ∀ s : State, exec e.1 s = .fault (.noDeviceMemory (line * 256)))

/-- R57, R58, R62, R63, R65, R66, R68, R72, R74, R78, R80: each of the hierarchy's own events completes in every state, on every
address that device memory has. A sector read installs every word of the sector but over PND, OWN and PAR, once the core's narrow
stores to it have been accepted; an acquire drops the core's SHR words, its narrow stores accepted first (log 108); a registration
is accepted by the slice, which then names the core, with the other word of its 8 bytes where one store sent both (R125), and its
acknowledgement makes the word OWN; a write to memory is noted by the REMAP passes in flight over memory (R135); with none on its
way, the core's oldest write to host memory is issued; an L1 drops a line, its OWN words going back to the slice; a slice drops a
line: its registered words are recalled, its partials spilled, and it is written back where it is dirty, or where R73 lists no EvC
for its state (log 9: the model's choice), else the home is told; far updates and writes that do not allocate change memory where
nobody holds the line; a core's partials go to the spill area. That REGISTRATION also issues writes to host memory is the model's
choice (log 95). A spill entry holds one core's line (log 17). -/
def Obligations.HierarchyEvents : Prop :=
  (∀ (s : State) (core pa die line : Nat) (op : RedOp) (v : BitVec 64) (b : List Byte),
    (core < 512 → pa < 2 ^ 39 → exec (.sectorRead core pa) s = .next (s.sectorRead core (pa / 4))) ∧
    exec (.registration core) s = .next (s.acceptOne core) ∧
    exec (.registrationAck core) s = .next ((s.ackOne core).recheckTails core) ∧
    exec (.l1Eviction core line) s = .next (s.l1Evict core line) ∧
    exec (.sliceEviction die line) s = .next (s.sliceEvict die line) ∧
    (pa + (if op.wide then 8 else 4) ≤ 2 ^ 39 →
      exec (.redf pa op v) s = .next ((s.competeMem false pa (if op.wide then 8 else 4)).redF pa op v)) ∧
    (pa + b.length ≤ 2 ^ 39 → exec (.wrn pa b) s = .next (s.wrN pa b)) ∧
    (die < 4 → core < 128 → line < 2 ^ 31 → exec (.spill die core line) s = .next (s.spill line die core))) ∧
  (∀ (s : State) (host : Bool) (pa n : Nat), s.competeMem host pa n = { s with layouts := s.layouts.map (fun e =>
    if e.2.inflight = true ∧ e.2.rcd.spm = false then (e.1, { e.2 with hits := ((if host then 1 else 0), pa, n) :: e.2.hits }) else e) }) ∧
  (∀ (s : State) (core : Nat), let v := s.acquire core
    (∀ x ∈ v.l1, x.1 / 2 ^ 52 = core → x.2.st ≠ .shr) ∧ NoNarrow v core ∧
    (NoNarrow s core → v = { s with l1 := s.l1.filter (fun e => e.1 / 2 ^ 52 != core || e.2.st != .shr) })) ∧
  (∀ (s : State) (core pa : Nat), core < 512 → pa < 2 ^ 39 → L1Fits s core pa →
    let u := s.acceptThrough core (fun r => r.narrow && r.word / 16 == pa / 64)
    L1Fits u core pa → exec (.sectorRead core pa) s = .next (u.sectorRead core (pa / 4)) ∧
      ∀ r ∈ u.regs core, r.word / 16 = pa / 64 → r.narrow = false) ∧
  (∀ (s : State) (core pa : Nat) (e : SliceLine), core < 512 → pa < 2 ^ 39 → s.fencedSlices = [] → L1Fits s core pa →
    (∀ r ∈ s.regs core, r.word / 16 = pa / 64 → r.narrow = false) →
    s.slice? (core / 128) (pa / 256) = some e → e.st ≠ .u → e.v.getLsbD (pa / 64 % 4) = true →
    ∃ v : State, exec (.sectorRead core pa) s = .next v ∧ v = { s with l1 := v.l1, plru := v.plru } ∧
      ∀ j, j < 16 → let w := pa / 64 * 16 + j
        v.l1? core w = (match s.l1? core w with
          | some ⟨.pnd, x⟩ => some ⟨.pnd, x⟩
          | some ⟨.own, x⟩ => some ⟨.own, x⟩
          | some ⟨.par, x⟩ => some ⟨.par, x⟩
          | _ => some ⟨.shr, s.heldWord (core / 128) (pa / 256) e (w % 64)⟩)) ∧
  (∀ (s : State) (core : Nat), s.regs core = [] →
    exec (.registrationAck core) s = .next (s.recheckTails core) ∧
    (s.hostq.find? (fun w => w.core == core) = none → exec (.registration core) s = .next s) ∧
    (∀ w, s.hostq.find? (fun w => w.core == core) = some w →
      ∃ v : State, exec (.registration core) s = .next v ∧
        v = { s with hostq := s.hostq.erase w, hostMem := Memory.write s.hostMem w.addr w.bytes, tracker := v.tracker } ∧
        ((∀ x ∈ s.hostq.erase w, x.src ≠ w.src) → w.src ∉ v.tracked core))) ∧
  (∀ (s : State) (core : Nat) (r : Reg) (e : SliceLine) (x : Word), core < 512 → s.fencedSlices = [] →
    s.regs core = [r] → r.accepted = false → let word := r.word
    s.slice? (core / 128) (word / 64) = some e → e.st = .e ∨ e.st = .m → e.v.getLsbD (word % 64 / 16) = true →
    e.wm.getLsbD (word % 64) = false → s.l1? core word = some ⟨.pnd, x⟩ →
    ∃ v : State, exec (.registration core) s = .next v ∧ v = { s with l1 := v.l1, slices := v.slices, regq := v.regq, plru := v.plru } ∧
      v.regs core = [{ r with accepted := true, old := e.slot (word % 64) }] ∧
      v.l1? core word = some ⟨.pnd, mergeBytes r.mask x (e.slot (word % 64))⟩ ∧
      (∃ e', v.slice? (core / 128) (word / 64) = some e' ∧ e'.registered (word % 64) = true ∧
        e'.ownerCore (core / 128) (word % 64) = core)) ∧
  (∀ (s : State) (core : Nat) (r q : Reg) (l : List Reg), s.regs core = r :: q :: l → r.accepted = false → q.accepted = false →
    q.word / 2 = r.word / 2 → q.srcs.head? = r.srcs.head? → (∀ x, l.head? = some x → x.word / 2 ≠ r.word / 2) →
    ∃ (v : State) (o p : Word), exec (.registration core) s = .next v ∧
      v.regs core = { r with accepted := true, old := o } :: { q with accepted := true, old := p } :: l) ∧
  (∀ (s : State) (core : Nat) (r : Reg) (src : TrackEntry) (e : SliceLine) (x : Word),
    s.regs core = [r] → r.accepted = true → r.srcs = [src] → let word := r.word
    s.slice? (core / 128) (word / 64) = some e → e.registered (word % 64) = true →
    e.ownerCore (core / 128) (word % 64) = core → s.l1? core word = some ⟨.pnd, x⟩ → (∀ w ∈ s.hostq, w.src ≠ src) →
    ∃ v : State, exec (.registrationAck core) s = .next (v.recheckTails core) ∧ v = { s with l1 := v.l1, regq := v.regq, tracker := v.tracker } ∧
      v.regs core = [] ∧ v.l1? core word = some ⟨.own, x⟩ ∧ src ∉ v.tracked core) ∧
  (∀ (s : State) (core line : Nat), line < 2 ^ 31 → core < 512 → (∀ i x, i < 64 → s.l1? core (line * 64 + i) ≠ some ⟨.par, x⟩) →
    ∃ v : State, exec (.l1Eviction core line) s = .next v ∧ v = { s with l1 := v.l1, slices := v.slices } ∧
      ∀ i, i < 64 → (∀ x, s.l1? core (line * 64 + i) = some ⟨.pnd, x⟩ → v.l1? core (line * 64 + i) = some ⟨.pnd, x⟩) ∧
        ((∀ x, s.l1? core (line * 64 + i) ≠ some ⟨.pnd, x⟩) → v.l1? core (line * 64 + i) = none) ∧
        (∀ x e, s.l1? core (line * 64 + i) = some ⟨.own, x⟩ → s.slice? (core / 128) line = some e → e.registered i = true →
          e.ownerCore (core / 128) i = core →
          ∃ e', v.slice? (core / 128) line = some e' ∧ e'.slot i = x ∧ e'.registered i = false ∧ e'.d.getLsbD (i / 16) = true)) ∧
  (∀ (s : State) (die line : Nat), s.slice? die line = none → exec (.sliceEviction die line) s = .next s) ∧
  (∀ (s : State) (die line : Nat) (e : SliceLine), s.slice? die line = some e →
    let v := s.recall die line
    (e.st ≠ .u → exec (.sliceEviction die line) s = .next (if e.d ≠ 0 ∨ e.wm ≠ 0 ∨ (s.lineMeta line).st = .m ∨
      ((s.lineMeta line).st = .o ∧ (s.lineMeta line).owner.toNat = die) then v.wb line die else v.evC line die)) ∧
    v = { s with l1 := v.l1, slices := v.slices } ∧ ∃ e', v.slice? die line = some e' ∧ e'.st = e.st ∧ e'.v = e.v ∧ ∀ i, i < 64 →
      e'.registered i = false ∧
      (e.registered i = false → e'.slot i = e.slot i ∧ e'.wm.getLsbD i = e.wm.getLsbD i) ∧
      (e.registered i = true → e'.slot i = s.heldWord die line e i ∧ e'.d.getLsbD (i / 16) = true ∧
        v.l1? (e.ownerCore die i) (line * 64 + i) = none)) ∧
  (∀ (s : State) (die line : Nat) (e : SliceLine), s.slice? die line = some e → e.st = .u →
    (e.holders = 0 → exec (.sliceEviction die line) s = .next (s.dropSlice die line)) ∧
    (∀ c, c < 128 → e.holders = 1#128 <<< c → line < 2 ^ 31 → die < 4 → metaValid (Tbl.get 0 s.metas line) = true →
      (s.lineMeta line).st = .u → (s.lineMeta line).sharers.getLsbD die = true → s.spillRoom (line / 2 ^ 28 % 8) = true →
      (∃ i x, i < 64 ∧ s.l1? (die * 128 + c) (line * 64 + i) = some ⟨.par, x⟩) →
      exec (.sliceEviction die line) s = .next ((s.spill line die c).dropSlice die line))) ∧
  (∀ (s : State) (pa : Nat) (op : RedOp) (v : BitVec 64), Unheld s (pa / 256) → (∀ e ∈ s.layouts, e.2.inflight = false) → pa + (if op.wide then 8 else 4) ≤ 2 ^ 39 →
    (op.wide = false → exec (.redf pa op v) s = .next (s.setMemWord (pa / 4) (loWord (redNew op.op false ((s.memWord (pa / 4)).zeroExtend 64) v)))) ∧
    (op.wide = true → let x := redNew op.op true (pairOf (s.memWord (pa / 4)) (s.memWord (pa / 4 + 1))) v
      exec (.redf pa op v) s = .next ((s.setMemWord (pa / 4) (loWord x)).setMemWord (pa / 4 + 1) (hiWord x)))) ∧
  (∀ (s : State) (pa : Nat) (b : List Byte), Unheld s (pa / 256) → (∀ e ∈ s.layouts, e.2.inflight = false) → b ≠ [] → pa % 256 + b.length ≤ 256 → pa + b.length ≤ 2 ^ 39 →
    exec (.wrn pa b) s = .next (let u : State := { s with mem := Memory.write s.mem pa b }
      if b.length = 256 then u.setMeta (pa / 256) { s.lineMeta (pa / 256) with poison := false } else u)) ∧
  (∀ (s : State) (pa n : Nat) (op : RedOp) (v : BitVec 64) (b : List Byte),
    (2 ^ 39 < pa + (if op.wide then 8 else 4) → exec (.redf pa op v) s = .fault (.noDeviceMemory pa)) ∧
    (2 ^ 39 < pa + b.length → exec (.wrn pa b) s = .fault (.noDeviceMemory pa)) ∧
    (2 ^ 39 ≤ pa → exec (.sectorRead n pa) s = .fault (.noDeviceMemory pa))) ∧
  (∀ (s : State) (die core line : Nat), die < 4 → core < 128 → line < 2 ^ 31 → metaValid (Tbl.get 0 s.metas line) = true →
    let m := s.lineMeta line
    let par := fun (i : Nat) => ∃ x, s.l1? (die * 128 + core) (line * 64 + i) = some ⟨.par, x⟩
    (m.st ≠ .u ∨ m.sharers.getLsbD die = false ∨ (∀ i, i < 64 → ¬ par i) →
      exec (.spill die core line) s = .next { s with uncorrected := s.uncorrected + 1 }) ∧
    (m.st = .u → m.sharers.getLsbD die = true → (∃ i, i < 64 ∧ par i) → s.spillRoom (line / 2 ^ 28 % 8) = false →
      exec (.spill die core line) s = .next ((s.merge line).bumpG (.uforced (line / 2 ^ 28 % 8)))) ∧
    (m.st = .u → m.sharers.getLsbD die = true → (∃ i, i < 64 ∧ par i) → s.spillRoom (line / 2 ^ 28 % 8) = true →
      ∃ v : State, exec (.spill die core line) s = .next v ∧ v = { s with l1 := v.l1, spills := v.spills, slices := v.slices, counts := v.counts } ∧
        ∀ i x, i < 64 → s.l1? (die * 128 + core) (line * 64 + i) = some ⟨.par, x⟩ →
          v.spills.find? (spillKey line die core i) = some x ∧ v.l1? (die * 128 + core) (line * 64 + i) = none))

/-- R48, R49, R50, R52, R54: an epoch moves a region only to a die of row 2 and replicates only by row 3; a move that is finished
copies the region, names its new frames and is logged; one whose lines are locked or whose entries have changed is abandoned; a
waiting access walks again. R31, R32, R33, R72, R80, R446: an invalidation command at the head of its ring discards what its
address space holds for its pages and completes, once the stores and, with PEER, the remote accesses through what it discarded are
over, with one release of its signal, with bit 63 where it was dropped; PCIe answers fill and empty the translation cache, what
was written through it being performed first; a host write is a WrN, and a host read returns the bytes with EP where it meets
poison. The model's choices: link occupancy is a free value (log 12); an agent of the die, and the epoch of a release (log 79); a
move is one step (log 47); what a record of the placement log says and where (logs 100, 101); what an invalidation discards beside
its pages, and its floored addresses (log 80); waits for a page in migration (log 44). -/
def Obligations.PlacementAndHost : Prop :=
  ((∀ (s : State) (c : RegionCount) (es : List DWord) (home d : Nat), s.decidePlacement c es home = .migrate d →
    (Config.linkOccupancy (Tbl.get 0 s.epochs home)).toNat ≤ (s.greg .plcthr).toNat % 2 ^ 8 ∧ migTarget s c home d) ∧
  (∀ (s : State) (c : RegionCount) (es : List DWord) (home : Nat) (ds : List Nat), s.decidePlacement c es home = .replicate ds →
    (Config.linkOccupancy (Tbl.get 0 s.epochs home)).toNat ≤ (s.greg .plcthr).toNat % 2 ^ 8 ∧ (∀ d, ¬ migTarget s c home d) ∧ ds ≠ [] ∧
    c.wr.sum = 0 ∧ (∀ e ∈ es, e.getLsbD 3 = false) ∧ ∀ d, d ∈ ds ↔ repTarget s c home d) ∧
  (∀ (s : State) (home : Nat), 7 < home ∨ s.powered = false → exec (.placementEpoch home) s = .next s) ∧
  (∀ (s : State) (home : Nat), home ≤ 7 → s.powered = true →
    ∃ v : State, exec (.placementEpoch home) s = .next v ∧ Tbl.get 0 v.epochs home = Tbl.get 0 s.epochs home + 1 ∧
      (∀ h, h ≠ home → Tbl.get 0 v.epochs h = Tbl.get 0 s.epochs h) ∧ v.tasks = s.tasks ∧ v.threads = s.threads ∧ v.launches = s.launches ∧
      (∀ e ∈ v.counts, e.1 / 2 ^ 24 % 8 ≠ home) ∧
      (s.regions = [] → s.replicas = [] → v = { s with epochs := v.epochs, counts := v.counts })) ∧
  (∀ (s : State) (asid region : Nat),
    (s.migrations.find? (fun m => m.asid == asid && m.region == region) = none → exec (.migrationFinish asid region) s = .next s) ∧
    (∀ m, s.migrations.find? (fun m => m.asid == asid && m.region == region) = some m →
      (s.returnRoom m.from_ = false ∨ s.returnRoom m.to_ = false ∨ s.storesBefore asid m.seq = true →
        exec (.migrationFinish asid region) s = .next s) ∧
      (s.returnRoom m.from_ = true → s.returnRoom m.to_ = true → s.storesBefore asid m.seq = false →
        let r := s.readDwordsAt 0 m.addr 16
        let es := r.1
        let u := (regionLines m.entries).foldl (fun s l => s.mergeU l) { r.2 with migrations := r.2.migrations.erase m }
        (es ≠ m.entries ∨ (∃ l ∈ regionLines es, (u.lineMeta l).hint = true) → exec (.migrationFinish asid region) s = .next (u.abandon m es)) ∧
        (es = m.entries → (∀ l ∈ regionLines es, (u.lineMeta l).hint = false) →
          let v := ((regionLines es).foldl (fun s l => s.uncache l) (u.copyRegion es m.frame)).putEntries m.addr (movedTo es m.frame)
          let w := match wholeFrame es with
            | some f => v.returnFrame f
            | none => v
          exec (.migrationFinish asid region) s = .next (w.plog asid region 1 m.from_ m.to_ m.from_))))) ∧
  (∀ (s : State) (m : Migration) (es : List DWord),
    s.abandon m es = ((s.putEntries m.addr ((List.range 16).map (fun i => if es.getD i 0 = m.entries.getD i 0
      then es.getD i 0 &&& ~~~(0x200 : DWord) else es.getD i 0))).returnFrame m.frame).plog m.asid m.region 4 m.from_ m.from_ m.from_) ∧
  (∀ (s : State) (asid n : Nat), s.storesBefore asid n = true ↔ ∃ e : TrackEntry, e.asid = asid ∧ e.seq < n ∧
    ((∃ x ∈ s.regq, ∃ r ∈ x.2, e ∈ r.srcs) ∨ ∃ w ∈ s.hostq, w.src = e)) ∧
  (∀ (s : State) (src dst i : Nat), src ≠ dst → i < 256 → Memory.byte (s.copyLine src dst).mem (256 * dst + i) = Memory.byte ((s.toI src).toI dst).mem (256 * src + i) ∧
    ((s.copyLine src dst).lineMeta dst).poison = (((s.toI src).toI dst).lineMeta src).poison) ∧
  (∀ (s : State) (t : ThreadRef) (asid page : Nat), (s.thread t).status = .parked (.retry (.mig asid page)) →
    let w := s.walk (dieOf (s.coreOf t)) asid (4096 * page)
    (∀ l f e, w.1 = .leaf l f e → e / 2 ^ 9 % 2 = 1 → exec (.migRewalk t) s = .next w.2.retrySignals) ∧
    ((∀ l f e, w.1 = .leaf l f e → e / 2 ^ 9 % 2 = 0) → exec (.migRewalk t) s = .next (w.2.unretry t).retrySignals)) ∧
  (∀ (s : State) (t : ThreadRef), (∀ asid page, (s.thread t).status ≠ .parked (.retry (.mig asid page))) →
    exec (.migRewalk t) s = .next (s.heldSignals.foldl (fun u h => u.signalDec h.func h.asid h.lseq h.va h.err h.n)
      { s with heldSignals := [] }))) ∧
  ((∀ (s : State) (func : Nat), s.freg func .invtail = s.freg func .invhead → (s.freg func .invhead).toNat < 2 ^ 32 →
    exec (.invalidationCommand func) s = .next s) ∧
  (∀ (s : State) (func : Nat),
    let ring := s.freg func .invq
    let a := ringSlot ring (s.freg func .invhead) 32
    let u := s.bumpF func .invhead
    ringLog ring ≠ 0 → ringUse (s.freg func .invtail) (s.freg func .invhead) ≠ 0 → ringBase ring + 32 * 2 ^ ringLog ring ≤ 2 ^ 39 →
    (u.poisoned a = true → exec (.invalidationCommand func) s = .next (u.bumpF func .werr)) ∧
    (u.poisoned a = false → let r := u.readDwordsAt (homeDie (a / 256)) a 4
      let c := r.2.invalidate? func (r.1.map BitVec.toNat)
      exec (.invalidationCommand func) s = .next { c.2 with invals := c.2.invals ++ [c.1] })) ∧
  (∀ (s : State) (w0 w1 w2 w3 : Nat), w0 < 2 ^ 14 → w1 < 2 ^ 56 → w2 < 2 ^ 32 → w3 < 2 ^ 56 →
    let asid := w0 % 4096
    let lo := w1 / 4096 * 4096
    s.invalidate? 0 [w0, w1, w2, w3] = (⟨0, asid, BitVec.ofNat 64 w3, false, s.nextStore, decide (w0 / 2 ^ 13 % 2 = 1), s.nextEngine⟩,
      s.discard asid (decide (w0 / 2 ^ 12 % 2 = 1)) (decide (w0 / 2 ^ 13 % 2 = 1)) lo (lo + 4096 * w2))) ∧
  (∀ (s : State) (asid lo hi : Nat) (all peer : Bool),
    (∀ e ∈ (s.discard asid all peer lo hi).atc, e.1.1 ≠ asid) ∧
    (peer = true → (∀ e ∈ (s.discard asid all peer lo hi).peerCache, e.1.1 ≠ asid) ∧
      ∀ e ∈ (s.discard asid all peer lo hi).engines, e.2.asid = asid → e.2.target ≠ none → e.2.stale = true)) ∧
  (∀ (s : State) (func : Nat),
    (s.invals.find? (fun i => i.func == func) = none → exec (.invalidationComplete func) s = .next s) ∧
    (∀ i, s.invals.find? (fun i => i.func == func) = some i →
      let w := s.signalWaits i.asid i.sig
      let busy := s.storesBefore i.asid i.seq = true ∨ (i.peer = true ∧ s.remoteBefore i.asid i.ops = true)
      (busy → exec (.invalidationComplete func) s = .next s) ∧
      (¬busy → w.1 = true → exec (.invalidationComplete func) s = .next w.2) ∧
      (¬busy → w.1 = false → exec (.invalidationComplete func) s =
        .next (State.signalDec { w.2 with invals := w.2.invals.erase i } func i.asid 0 i.sig i.dropped 1)))) ∧
  (∀ (s : State) (asid n : Nat), s.remoteBefore asid n = true ↔
    (∃ e ∈ s.engines, e.1 < n ∧ e.2.asid = asid ∧ ∃ i ∈ e.2.left, i ∉ e.2.queue) ∨
    ∃ e ∈ s.threads, ∃ op d acq pc p, e.2.status = .parked (.ratom op d acq pc p) ∧ op < n ∧ (s.task e.2.task).asid = asid) ∧
  (∀ (s : State) (pasid page : Nat),
    let hit := fun (w : HostWrite) => ∃ e ∈ s.atc, e.1.2 = (pasid, page) ∧ w.addr < (e.2 + 1) * 4096 ∧ e.2 * 4096 < w.addr + w.bytes.length
    ∃ v : State, exec (.atsInvalidation pasid page) s = .next v ∧
      v = { s with atc := v.atc, hostq := v.hostq, hostMem := v.hostMem, tracker := v.tracker } ∧
      (∀ e, e ∈ v.atc ↔ e ∈ s.atc ∧ e.1.2 ≠ (pasid, page)) ∧ (∀ w ∈ v.hostq, w ∈ s.hostq ∧ ¬hit w) ∧
      (∀ w ∈ s.hostq, (∀ x ∈ s.hostq, x.core = w.core → ¬hit x) → w ∈ v.hostq) ∧ ((∀ w ∈ s.hostq, ¬hit w) → v.hostMem = s.hostMem)) ∧
  (∀ (s : State) (asid pasid page f : Nat) (ok : Bool),
    let asked := s.atsPending.filter (fun e => e.2 == (pasid, page))
    let rest := s.atsPending.filter (fun e => e.2 != (pasid, page))
    (asked = [] → ∀ x, exec (.atsCompletion pasid page x) s = .next s) ∧
    (∃ hit : Retry → Bool, (∀ r, hit r = true ↔ ∃ a, r = .ats a pasid page) ∧
      (asked = [(asid, pasid, page)] → s.atc.length < 4096 → exec (.atsCompletion pasid page (some f)) s = .next
        (State.unretryAll { s with atsPending := rest, atc := assocSet s.atc (asid, pasid, page) f } hit)) ∧
      (asked ≠ [] → (pasid, page) ∉ s.priPending → exec (.atsCompletion pasid page none) s = .next
        (State.unretryAll { s with atsPending := rest, priPending := s.priPending ++ [(pasid, page)] } hit)) ∧
      (asked ≠ [] → (pasid, page) ∈ s.priPending → exec (.atsCompletion pasid page none) s = .next
        (State.unretryAll { s with atsPending := rest } hit))) ∧
    ((pasid, page) ∉ s.priPending → exec (.priResponse pasid page ok) s = .next s) ∧
    ((pasid, page) ∈ s.priPending → exec (.priResponse pasid page true) s = .next { s with priPending := s.priPending.erase (pasid, page) }) ∧
    ((pasid, page) ∈ s.priPending → (pasid, page) ∉ s.priDenied → exec (.priResponse pasid page false) s =
      .next { s with priPending := s.priPending.erase (pasid, page), priDenied := s.priDenied ++ [(pasid, page)] })) ∧
  (∀ (s : State) (pa n : Nat) (b : List Byte),
    (pa + b.length ≤ 2 ^ 39 → s.up = true → exec (.hostWrite pa b) s = .next (s.wrN pa b)) ∧
    (pa + n ≤ 2 ^ 39 → s.up = true → let r := s.readBytesAt (homeDie (pa / 256)) pa n
      ∃ ep : Bool, (ep = true ↔ ∃ l, pa / 256 ≤ l ∧ l < (pa + n + 255) / 256 ∧
          ((s.lineMeta l).poison = true ∨ metaValid (Tbl.get 0 s.metas l) = false)) ∧
        exec (.hostRead pa n) s = .next { r.2 with hostRead := (r.1, ep) }) ∧
    (2 ^ 39 < pa + b.length → exec (.hostWrite pa b) s = .fault (.noDeviceMemory pa)) ∧
    (2 ^ 39 < pa + n → exec (.hostRead pa n) s = .fault (.noDeviceMemory pa))))

/-- R7, R98, R99, R224, R362, R374, R406, R445, R446, R447, R448: a write that a register may take replaces its value; one that it
may not is ignored and counted; arming entries of a receive counter that is configured are discarded; RESUME reads as zero, and so
do the counts of a queue of another function and what a page does not list; before the service firmware runs only HEALTH and
ATTEST answer. R446 gives QTAIL and QHEAD one offset of 16 bytes: QTAIL at its first eight bytes is the model's choice (log 97). A
ring outside device memory names no queue (log 43). -/
def Obligations.DeviceRegisters : Prop :=
  (∀ (s : State) (v : DWord) (w : Word) (n : Nat), s.up = true → ∀ e ∈ registerWrites s v w n,
    (e.2.2.2 → exec e.1 s = .next (s.setGreg e.2.1 e.2.2.1)) ∧ (¬ e.2.2.2 → exec e.1 s = .next (s.bumpG .regwerr))) ∧
  (∀ (s : State) (v : DWord) (w : Word) (n : Nat), s.up = false → ∀ e ∈ registerWrites s v w n, exec e.1 s = .next s) ∧
  (∀ (s : State) (r : GReg) (v : DWord), (s.setGreg r v).greg r = v ∧ ∀ q, q ≠ r → (s.setGreg r v).greg q = s.greg q) ∧
  (∀ (s : State) (d : Nat) (v : DWord), s.up = true → d ≤ 96 →
    let ok := only v 0xFFFF000FFFFFFFFF ∧ ∀ i j, i < 6 → j < 6 → v.getLsbD (6 * i + j) = v.getLsbD (6 * j + i)
    (ok → exec (.lkcfgWrite d v) s = .next (s.setGreg (.lkcfg d) v)) ∧ (¬ ok → exec (.lkcfgWrite d v) s = .next (s.bumpG .lkcfgerr))) ∧
  (∀ (s : State) (i : Nat) (v : DWord), s.up = true →
    (4096 ≤ i ∨ ¬ only v 0x1FFF → exec (.cntcfgWrite i v) s = .next (s.bumpG .regwerr)) ∧
    (i < 4096 → only v 0x1FFF → v.getLsbD 0 = false → exec (.cntcfgWrite i v) s = .next (s.setGreg (.cntcfg i) v)) ∧
    (i < 4096 → only v 0x1FFF → v.getLsbD 0 = true → (∀ a ∈ s.armed, a.counter ≠ i) → s.touched = [] →
      exec (.cntcfgWrite i v) s = .next { s.setGreg (.cntcfg i) v with counters := Tbl.set 0 s.counters i 0 })) ∧
  (∀ (s : State) (f : Nat) (v : DWord), s.up = true → f ≤ 96 → ∀ e ∈ pageRings f v,
    let ok := only v 0x000FFFFFFFFFF00F ∧ (v.toNat % 16 = 0 ∨ (4 ≤ v.toNat % 16 ∧ v.toNat % 16 ≤ 12 ∧
      (v.toNat / 4096 % 2 ^ 40 * 4096) % (e.2.2.2.2 * 2 ^ (v.toNat % 16)) = 0)) ∧ (s.freg f e.2.2.1 = s.freg f e.2.2.2.1 ∨ v = s.freg f e.2.1)
    (ok → exec e.1 s = .next (s.setFreg f e.2.1 v)) ∧ (¬ ok → exec e.1 s = .next (s.bumpF f .werr))) ∧
  (∀ (s : State) (f : Nat) (v : DWord), s.up = true → f ≤ 96 →
    (ringLog (s.freg f .invq) ≠ 0 → exec (.registerWrite (.function f) 0x08 v) s = .next (s.setFreg f .invtail (BitVec.ofNat 64 (v.toNat % 2 ^ 32)))) ∧
    exec (.registerWrite (.function f) 0x18 v) s = .next (s.setFreg f .fqhead (BitVec.ofNat 64 (v.toNat / 2 ^ 32))) ∧
    exec (.registerWrite (.function f) 0x28 v) s = .next (s.setFreg f .pfqhead (BitVec.ofNat 64 (v.toNat / 2 ^ 32))) ∧
    exec (.registerWrite (.function f) 0x48 0) s = .next (s.setFreg f .werr 0) ∧
    exec (.registerWrite (.function f) 0x50 v) s = .next (s.bumpF f .werr)) ∧
  (∀ (s : State) (f off q : Nat), s.up = true → f ≤ 96 →
    s.pageRead f 0x30 = some 0 ∧ s.pageRead f 0x40 = some (s.freg f .attest) ∧ s.pageRead f 0x48 = some (s.freg f .werr) ∧
    (0x50 ≤ off ∧ off < 0x1000 ∨ 0x21000 ≤ off → s.pageRead f off = some 0) ∧
    (q < 8192 → (s.qFunc q ≠ f → s.pageRead f (0x1000 + 16 * q) = some 0 ∧ s.pageRead f (0x1008 + 16 * q) = some 0) ∧
      (s.qFunc q = f → s.pageRead f (0x1000 + 16 * q) = some (s.greg (.qtail q)) ∧ s.pageRead f (0x1008 + 16 * q) = some (s.greg (.qhead q))))) ∧
  (∀ (s : State) (f off : Nat), s.up = false →
    (off ≠ 0 → s.globalRead off = none) ∧ (off ≠ 0x40 → s.pageRead f off = none) ∧ (s.powered = true → s.globalRead 0 = some s.health)) ∧
  (∀ s : State, s.health.getLsbD 0 = s.memReady ∧ s.health.getLsbD 1 = s.bootFail ∧ s.health.getLsbD 2 = s.replace ∧
    s.health.getLsbD 3 = s.degraded ∧ s.health.toNat / 16 = s.fencedCores.length % 512)

/-- R80, R199, R449, R450, R451, R453: power brings the device to the keeper, which takes one LOAD of the PF; an image that
verifies goes on to clear memory, one that does not leaves BOOTFAIL; then memory is zero and ready. An attestation report is
written for its request. Errors are counted, poison their line, or fence a unit. The model's choices: what outlives power (log
82), ATTEST and LOAD in use, and a failed image (log 81), the functions the spec only names (log 20), what a fenced slice or core
leaves (logs 38, 96). -/
def Obligations.StartUpAndErrors : Prop :=
  (∀ s : State, s.powered = true → exec .coldStart s = .next s) ∧
  (∀ s : State, s.powered = false → ∃ u : State, ColdState s u ∧
    exec .coldStart s = .next (if Config.keeperImageGood s.tick then { u with clockBase := s.tick }
      else { u with clockBase := s.tick, boot := .failed, bootFail := true })) ∧
  (∀ s : State, ∃ u : State, ColdState s u ∧ exec .powerLoss s = .next { u with powered := false }) ∧
  (∀ s : State, s.boot = .clearing → s.powered = true → exec .memoryInitDone s = .next
    { s with mem := [], metas := [], slices := [], plru := [], l1 := [], regq := [], spills := [], memReady := true, boot := .running }) ∧
  (∀ (s : State) (func : Nat) (v : DWord), s.powered = true → func ≤ 96 →
    let free := only v 0x000FFFFFFFFFF007 ∧ (s.freg func .attest).getLsbD 0 = false
    let u := s.setFreg func .attest ((v &&& ~~~4) ||| (s.freg func .attest &&& 4))
    (free → v.getLsbD 1 = false → exec (.attestationRequest func v) s = .next u) ∧
    (¬ free ∨ v.getLsbD 1 = true → exec (.attestationRequest func v) s = .next (s.bumpF func .werr)) ∧
    (free → v.getLsbD 0 = true → v.getLsbD 1 = true → func = 0 → s.boot = .waitLoad →
      exec (.serviceFirmwareLoad func v) s = .next { u with boot := .verifying }) ∧
    (free → v.getLsbD 0 = false → v.getLsbD 1 = true → func = 0 → exec (.serviceFirmwareLoad func v) s = .next u) ∧
    (¬ free ∨ v.getLsbD 1 = false ∨ func ≠ 0 ∨ (v.getLsbD 0 = true ∧ s.boot ≠ .waitLoad) →
      exec (.serviceFirmwareLoad func v) s = .next (s.bumpF func .werr))) ∧
  (∀ (s : State) (func : Nat),
    let v := s.freg func .attest
    (v.getLsbD 0 = false ∨ v.getLsbD 1 = true → exec (.attestationDone func) s = .next s) ∧
    (v.getLsbD 0 = true → v.getLsbD 1 = false → ∃ (free report : List Byte) (u : State), free.length = 16 ∧
      report = bytesOfNat 8 1 ++ bytesOfNat 8 s.self ++ free ++ Memory.bytes s.hostMem (v.toNat / 4096 % 2 ^ 40 * 4096 + 32) 32 ++
        bytesOfNat 32 Config.keeperHash.toNat ++ bytesOfNat 32 s.firmwareHash.toNat ++ List.replicate 128 0 ∧
      u = { s with hostMem := u.hostMem, fresh := u.fresh } ∧
      u.hostMem = Memory.write s.hostMem (v.toNat / 4096 % 2 ^ 40 * 4096) (report ++ (List.range 384).map (Config.identitySign report)) ∧
      exec (.attestationDone func) s = .next (u.setFreg func .attest (v &&& ~~~5)))) ∧
  (∀ s : State,
    let v := s.freg 0 .attest
    let bad := State.setFreg { s with boot := .failed, bootFail := true } 0 .attest ((v ||| 4) &&& ~~~1)
    (s.boot ≠ .verifying → exec .serviceFirmwareVerified s = .next s) ∧
    (s.boot = .verifying → s.loadImage (v.toNat / 4096 % 2 ^ 40 * 4096) = none → exec .serviceFirmwareVerified s = .next bad) ∧
    (∀ image sig, s.boot = .verifying → s.loadImage (v.toNat / 4096 % 2 ^ 40 * 4096) = some (image, sig) →
      exec .serviceFirmwareVerified s = .next (if Config.vendorVerify image sig then
        State.setFreg { s with boot := .clearing, firmwareHash := Config.sha256 image } 0 .attest (v &&& ~~~5) else bad))) ∧
  (∀ (s : State) (u : FenceUnit) (pa : Nat),
    (∃ v : State, exec (.softError (.corrected u)) s = .next v ∧ v = { s with corrected := v.corrected } ∧
      assoc v.corrected u = some ((assoc s.corrected u).getD 0 + 1)) ∧
    (pa < 2 ^ 39 → ∃ v : State, exec (.softError (.uncorrectable pa)) s = .next v ∧
      v = { s with metas := v.metas, uncorrected := s.uncorrected + 1 } ∧ v.poisoned pa = true) ∧
    (2 ^ 39 ≤ pa → exec (.softError (.uncorrectable pa)) s = .fault (.noDeviceMemory pa)) ∧
    exec (.softError (.spared pa)) s = .next s) ∧
  (∀ (s : State) (j p d k : Nat),
    (31 < j ∨ j ∈ s.fencedPorts → exec (.unitFence (.port j)) s = .next s) ∧
    (j ≤ 31 → j ∉ s.fencedPorts → s.wornOut = false → exec (.unitFence (.port j)) s = .next { s with fencedPorts := s.fencedPorts ++ [j], degraded := true }) ∧
    (511 < p ∨ p ∈ s.fencedCores → exec (.unitFence (.core p)) s = .next s) ∧
    (p ≤ 511 → p ∉ s.fencedCores → s.tasks = [] → s.fencedCores.length < 8 → s.wornOut = false →
      let x : State := { s with fencedCores := s.fencedCores ++ [p] }
      exec (.unitFence (.core p)) s = .next { x.settleFence with degraded := true } ∧ (s.launches = [] → x.settleFence = x)) ∧
    (∀ (e : Nat) (l : Launch), s.tasks = [] → s.fencedCores = [p] → s.launches = [(e, l)] → (∃ q ∈ l.cores, q ≠ p) →
      (∀ w ∈ l.waiting, w.core < l.cores.length) → ∃ l' : Launch, s.settleFence = { s with launches := [(e, l')] } ∧
        p ∉ l'.cores ∧ (∀ w ∈ l'.waiting, w.phys ≠ p) ∧ (∀ i q : Nat, l.cores[i]? = some q → q ≠ p → l'.cores[i]? = some q)) ∧
    (d ≤ 3 → k ≤ 63 → (false, d, k) ∉ s.fencedSlices → s.slices = [] → s.wornOut = false →
      (s.fencedSlices.filter (fun x => x.1 == false && x.2.1 == d)).length < 63 →
      exec (.unitFence (.l2 d k)) s = .next { s with fencedSlices := s.fencedSlices ++ [(false, d, k)], degraded := true }) ∧
    (d ≤ 3 → k ≤ 63 → (true, d, k) ∉ s.fencedSlices → s.slices = [] → s.wornOut = false →
      (s.fencedSlices.filter (fun x => x.1 == true && x.2.1 == d)).length < 63 →
      exec (.unitFence (.rdc d k)) s = .next { s with fencedSlices := s.fencedSlices ++ [(true, d, k)], degraded := true }))

/-- R228-R243, R434: words of several families, written out from their encodings, decode to what they stand for: C and W, the fields
of each format, and the operands that a sepal word names. -/
def Obligations.DecodedWords : Prop :=
  decodeWord 0x00000000 = .ok (.nop ⟨false, false⟩) ∧
  decodeWord 0x81104230 = .ok (.addB32 ⟨true, false, 4, 4, 8, true, true⟩) ∧
  decodeWord 0x09000000 = .illegal 1 ∧
  decodeSepal 0x04488000 = some (.sepalAdd 1 2 4) ∧
  decodeSepal 0x34000000 = none

/-- R228-R243, R434: decoding the word of any well-formed instruction gives the instruction back, with every operand at every value
its encoding admits. -/
def Obligations.EncodeDecode : Prop :=
  ∀ i : Instr, Laws.RoundTrip.Statement i

/-- R244, R434: a word that either decoder takes is well-formed, and it is the one word that its instruction encodes to: no bit of a
word goes unread. -/
def Obligations.DecodeIsExact : Prop :=
  (∀ (w : Word) (i : Instr), decodeWord w = .ok i → i.wf = true ∧ i.encode = [w]) ∧
  (∀ (w : Word) (i : Instr), decodeSepal w = some i → i.wf = true ∧ i.encode = [w])

/-- R228, R231, R244, R431: a step at an issue of one word runs exactly the decoded word for its lanes, and closes the issue; a
step at a packet context runs its word; a step at an event runs the event; each moves the clock. R232 to R234, R244, R245: a chained
group of two or three words: its words read the registers as they stood before it, a lane with a stop is taken out with no word in
effect and takes an ILLEGAL before any other, else the stop of least PC, and the others run the group; what a group traps before it
issues (OPCODE to REGCOUNT word by word, CHAIN, and under STRICT PENDING and DEADREG); the stops of a fetch; R391: an asynchronous
trap at a region boundary comes first. Whose turn it is, the agenda says (log 1), and a group's CTL word acts after its other words
(log 27): the model's choices. -/
def Obligations.StepRunsDecoded : Prop :=
  (∀ (s s1 : State) (ls : List ThreadRef) (r : List Turn) (ws : List Word) (w : Word) (i : Instr),
    s.agenda = .issue ls :: r →
    let s0 : State := { s with agenda := r }
    let pc := (s.thread (ls.headD ⟨0, 0⟩)).pc
    s0.mayIssue ls = true → (∀ t ∈ ls, s0.asyncDue t = false) →
    s0.fetchPacket (ls.headD ⟨0, 0⟩) (packetOf pc) = .ok ws s1 → groupAt pc ws = [⟨pc, w⟩] → decodeWord w = .ok i →
    let s2 := if w.getLsbD 30 then ls.foldl State.drainPend s1 else s1
    (s2.thread (ls.headD ⟨0, 0⟩)).pc = pc → (∀ t ∈ ls, s2.groupCheck t [⟨pc, w⟩] = none) →
    step s = mapNext (exec i (s2.beginIssue ls)) (fun u => endStep s.tick (finishIssue ls u))) ∧
  (∀ (s : State) (i : Instr) (r : List Turn), s.agenda = .event i :: r →
    step s = mapNext (exec i { s with agenda := r }) (endStep s.tick)) ∧
  (∀ (s : State) (k : Nat) (r : List Turn) (c : Ctx) (x : Slot) (w : Word) (i : Instr), s.agenda = .sepal k :: r →
    s.ctxts.find? k = some c → s.slots.find? c.slot = some x → x.words[c.pc]? = some w → decodeSepal w = some i →
    step s = mapNext (exec i { s with agenda := r, actor := .sepal k }) (fun u => endStep s.tick { u with actor := .none, lastCtx := k })) ∧
  (∀ (n : Nat) (s : State), (endStep n s).tick = n + 1) ∧
  (∀ (s : State) (ls : List ThreadRef) (r : List Turn), s.agenda = .issue ls :: r →
    let s0 : State := { s with agenda := r }
    let t0 := ls.headD ⟨0, 0⟩
    let pc := (s.thread t0).pc
    s0.mayIssue ls = true →
    ((∃ t ∈ ls, s0.asyncDue t = true) → step s = .next (endStep s.tick (ls.foldl State.takeAsync s0))) ∧
    ((∀ t ∈ ls, s0.asyncDue t = false) →
      (∀ z s1, ls = [t0] → s0.fetchPacket t0 (packetOf pc) = .stop z s1 → step s = .next (endStep s.tick (match z with
        | .retry _ => s1.takeStop t0 z
        | _ => (s1.modThread t0 (fun th => { th with pc := packetOf pc })).takeStop t0 z))) ∧
      (∀ ws s1, s0.fetchPacket t0 (packetOf pc) = .ok ws s1 →
        let g := groupAt pc ws
        let s2 := if ∃ w ∈ g, w.raw.getLsbD 30 = true then ls.foldl State.drainPend s1 else s1
        (∀ x, ls = [t0] → s2.groupCheck t0 g = some x → step s = .next (endStep s.tick (s2.takeTraps [(t0, x)]))) ∧
        (2 ≤ g.length → (s2.thread t0).pc = pc → (∀ t ∈ ls, s2.groupCheck t g = none) →
          let x := runGroup (s2.beginIssue ls) (pc + BitVec.ofNat 64 (4 * g.length)) g (ls.length + 1) ls []
          step s = .next (endStep s.tick (finishIssue ls ((x.2.foldl (fun s e => s.takeGroupStop pc e) x.1).relock))))))) ∧
  (∀ (s : State) (t : ThreadRef) (th : Thread), s.threads.find? (tkey t) = some th →
    (s.asyncDue t = true ↔ th.boundary = true ∧ th.status = .ready ∧ th.handler = false ∧ (th.stores ≠ [] ∨ th.wound ≠ none)) ∧
    (∀ r l, s.asyncDue t = true → th.stores = r :: l →
      s.takeAsync t = (s.modThread t (fun th => { th with stores := l })).takeRecord t { r with pc := th.pc, precise := true }) ∧
    (∀ p, s.asyncDue t = true → th.stores = [] → th.wound = some p →
      s.takeAsync t = (s.modThread t (fun th => { th with wound := none })).takeRecord t { recordAt s t { code := 9, sub := 0 } with regionPc := p })) ∧
  (∀ (s s0 : State) (t : ThreadRef) (th : Thread) (o : OldRegs) (ls : List ThreadRef) (fin : DWord) (g : List GroupWord) (n : Nat)
    (st : List (ThreadRef × DWord × Stop)),
    let u := { ls.foldl (fun s t => s.modThread t (fun th =>
      { th with old := some { regs := th.regs, flags := th.flags, fcr := th.fcr, dead := th.dead, pend := th.pend } })) s with collect := some [] }
    let v := groupPass s ls fin g
    let l := v.collect.getD []
    let out := ls.filter (fun t => l.any (fun e => e.1 == t))
    v = (groupOrder g).foldl (groupWord u ls fin) u ∧
    (l = [] → runGroup s fin g (n + 1) ls st = (State.settleBarriers { ls.foldl (fun s t => s.modThread t (fun th =>
      { th.reviveWritten g with old := none })) v with collect := none }, st)) ∧
    (l ≠ [] → runGroup s fin g (n + 1) ls st = runGroup s fin g n (ls.filter (fun t => !out.contains t))
      (st ++ out.filterMap (fun t => (firstStop l t).map (fun x => (t, x))))) ∧
    (∀ w i v, (s.thread t).handler = (s0.thread t).handler → (s.thread t).status ≠ .ended → decodeWord w.raw = .ok i →
      exec i { s.modThread t (fun th => { th with pc := w.pc, second := if w.isCtl = true ∧ th.status ≠ .ready then some .ready else none }) with
        actor := .lanes [t] } = .next v →
      groupWord s0 [t] fin s w = v.modThread t (fun th => if th.pc = w.pc + 4 ∧ th.jumped = false then { th with pc := fin } else th)) ∧
    (s.threads.find? (tkey t) = some th → th.old = some o →
      (∀ k, o.dead.getLsbD k = false → (∀ e ∈ o.pend, ∀ p ∈ e, p.1 ≠ k) → s.readG t k = Tbl.get 0 o.regs k) ∧
      (∀ k, k < 7 → s.readF t k = o.flags.getLsbD k) ∧ s.readFcr t = o.fcr) ∧
    (groupOrder g).Perm g ∧
    (∀ w ∈ g, w.isCtl = true → w.isSwr = false → (∀ x ∈ g, x.isCtl = true → x = w) → (groupOrder g).getLast? = some w)) ∧
  (∀ (l : List (ThreadRef × DWord × Stop)) (t : ThreadRef) (pc : DWord) (x : Stop), firstStop l t = some (pc, x) →
    let illegal := fun (x : Stop) => ∃ i : TrapInfo, x = .trap i ∧ i.code = 1
    (t, pc, x) ∈ l ∧ ((∃ e ∈ l, e.1 = t ∧ illegal e.2.2) → illegal x) ∧
    ∀ e ∈ l, e.1 = t → (illegal e.2.2 ∨ ∀ y ∈ l, y.1 = t → ¬illegal y.2.2) → pc.toNat ≤ e.2.1.toNat) ∧
  (∀ (s : State) (t : ThreadRef) (g : List GroupWord),
    let k := s.task t.task
    let pc := (s.thread t).pc
    let pending := fun (n : Nat) => ∃ e ∈ (s.thread t).pend, ∃ p ∈ e, p.1 = n
    (∀ a w b n, g = a ++ w :: b → (∀ x ∈ a, wordCheck k x.raw = none) → wordCheck k w.raw = some n →
      s.groupCheck t g = some (w.pc, { code := 1, sub := n, va := w.pc })) ∧
    (∀ w n, decodeWord w = .illegal n → wordCheck k w = some n) ∧
    (∀ w i, decodeWord w = .ok i → wordCheck k w = if k.access = true ∧ i.form.acc = false then some 12
      else if k.regs < i.form.regTop then some 9 else none) ∧
    ((∀ w ∈ g, wordCheck k w.raw = none) →
      (chainBad g = true → s.groupCheck t g = some (pc, { code := 1, sub := 10, va := pc })) ∧
      (chainBad g = false → k.strict = false → s.groupCheck t g = none) ∧
      (chainBad g = false → (∀ w ∈ g, strictCheck (s.thread t) w.form = none) → s.groupCheck t g = none) ∧
      (∀ a w b c, chainBad g = false → k.strict = true → g = a ++ w :: b → (∀ x ∈ a, strictCheck (s.thread t) x.form = none) →
        strictCheck (s.thread t) w.form = some c → s.illegalAhead t g = none → s.groupCheck t g = some (w.pc, { code := c, sub := 0 }))) ∧
    (∀ f : Form, strictCheck (s.thread t) f = if ∃ n ∈ runRegs f.reads ++ runRegs f.writes, pending n then some 16
      else if ∃ n ∈ runRegs f.reads, (s.thread t).dead.getLsbD n = true then some 8 else none)) ∧
  (∀ a b : GroupWord, chainBad [a, b] = true ↔
    (a.raw.getLsbD 31 = true ∧ a.pc.toNat % 12 = 8) ∨ (b.raw.getLsbD 31 = true ∧ b.pc.toNat % 12 = 8) ∨
    (a.form.pipe = b.form.pipe ∧ a.form.pipe ≠ .none) ∨ (∃ n ∈ runRegs a.form.writes, n ∈ runRegs b.form.writes) ∨
    (∃ n ∈ a.form.fw, n ≠ 7 ∧ n ∈ b.form.fw) ∨ (∃ n ∈ a.form.kw, n ∈ b.form.kw))

/-- R222: at the end of every step, on every core that holds a task, a petal all of whose threads wait is gated. -/
def Obligations.WaitingPetalsStayGated : Prop :=
  ∀ s s' : State, s.Gated → step s = .next s' → s'.Gated

/-- R69, R98, R222, R224, R400, R445, R446, R449: what reset leaves: no task, thread, launch, translation or packet; memory in
canonical form and every byte zero; the registers at the values R98, R224 and R445 give; the keeper waiting for its LOAD; and the
invariant of gating. The registers whose value the spec does not give are not named here (log 16). -/
def Obligations.ResetState : Prop :=
  let s := State.reset
  s.Gated ∧ s.memOk ∧ (∀ a, Memory.byte s.mem a = 0) ∧ s.powered = true ∧ s.boot = .waitLoad ∧ s.memReady = false ∧ s.bootFail = false ∧
  s.tasks = [] ∧ s.threads = [] ∧ s.launches = [] ∧ s.pending = [] ∧ s.locks = [] ∧ s.tlbs = [] ∧ s.layouts = [] ∧ s.engines = [] ∧
  s.launchSeq = 0 ∧ s.greg (.timer 0) = 10 ∧ s.greg (.timer 1) = 50 ∧ s.greg (.timer 2) = 1000000 ∧ s.greg .rtimeout = 100 ∧
  (s.greg .plcthr).toNat = 192 + 2048 * 2 ^ 8 + 1024 * 2 ^ 24 + 64 * 2 ^ 40 ∧ (∀ f, s.greg (.fweight f) = 1) ∧
  (∀ d, (s.greg (.lkcfg d)).toNat / 2 ^ 48 = 20) ∧ s.greg .ctxbase = 0 ∧ s.greg .c0res = 0 ∧ (∀ q, s.greg (.qcfg q) = 0) ∧
  (∀ f r, s.freg f r = 0) ∧ s.up = false
end

