-- ==== Sys2Proof/Tests/Slice0.lean ====
section
/-! SUPPORT. Tests: words decode as their encodings say, ill-formed terms are refused, single steps, and for each statement a state
that meets its hypotheses. -/
open Sys2Proof Sys2Proof.Machine Sys2Proof.Machine.Claims
namespace Sys2Proof.Tests
section
set_option Elab.async false


/-! ## Decoding: words written out from the encodings of spec/ -/
theorem test_decode_alu : ∀ p ∈ ([
  (0xC0000000, .nop ⟨true, true⟩), (0xC1C22C30, .addB32 ⟨true, true, 48, 34, 48, true, true⟩),
  (0x41322531, .subB32 ⟨false, true, 12, 34, 20, true, true⟩), (0xC10A2C32, .mulB32 ⟨true, true, 2, 34, 48, true, true⟩),
  (0xC1C308B3, .mulhS32 ⟨true, true, 48, 48, 34, true, true⟩), (0xC1322C34, .mulhN32 ⟨true, true, 12, 34, 48, true, true⟩),
  (0xC1522525, .minS32 ⟨true, true, 20, 34, 20, true, false⟩), (0xC1C30836, .minN32 ⟨true, true, 48, 48, 32, true, true⟩),
  (0xC188C517, .maxS32 ⟨true, true, 34, 12, 20, false, true⟩), (0xC10908B8, .maxN32 ⟨true, true, 2, 16, 34, true, true⟩),
  (0xC18B0029, .absS32 ⟨true, true, 34, 48, 0, true, false⟩), (0xC18B002A, .negS32 ⟨true, true, 34, 48, 0, true, false⟩),
  (0x41C2253B, .madB32 ⟨false, true, 48, 34, 20, true, true⟩), (0xC132243C, .idp4S8 ⟨true, true, 12, 34, 16, true, true⟩),
  (0xC188C32D, .idp4N8 ⟨true, true, 34, 12, 12, true, false⟩)] : List (Word × Instr)), decodeWord p.1 = .ok p.2 := by decide +kernel

theorem test_decode_alu64 : ∀ p ∈ ([
  (0xC2C30530, .addB64 ⟨true, true, 48, 48, 20, true, true⟩), (0x825028B1, .subB64 ⟨true, false, 20, 2, 34, true, true⟩),
  (0x82522532, .mulB64 ⟨true, false, 20, 34, 20, true, true⟩), (0x82C0C333, .mulhS64 ⟨true, false, 48, 12, 12, true, true⟩),
  (0xC23048B4, .mulhN64 ⟨true, true, 12, 4, 34, true, true⟩), (0xC250C325, .minS64 ⟨true, true, 20, 12, 12, true, false⟩),
  (0xC2C30C36, .minN64 ⟨true, true, 48, 48, 48, true, true⟩), (0xC2314C37, .maxS64 ⟨true, true, 12, 20, 48, true, true⟩),
  (0xC28B00B8, .maxN64 ⟨true, true, 34, 48, 2, true, true⟩), (0xC2C30029, .absS64 ⟨true, true, 48, 48, 0, true, false⟩),
  (0xC252202A, .negS64 ⟨true, true, 20, 34, 0, true, false⟩), (0xC2C0C31B, .madB64 ⟨true, true, 48, 12, 12, false, true⟩)] : List (Word × Instr)), decodeWord p.1 = .ok p.2 := by decide +kernel

theorem test_decode_logic : ∀ p ∈ ([
  (0xC3C30C30, .andB32 ⟨true, true, 48, 48, 48, true, true⟩), (0xC3330331, .orB32 ⟨true, true, 12, 48, 12, true, true⟩),
  (0xC330CC32, .xorB32 ⟨true, true, 12, 12, 48, true, true⟩), (0xC308C533, .andnB32 ⟨true, true, 2, 12, 20, true, true⟩),
  (0xC3322334, .shlB32 ⟨true, true, 12, 34, 12, true, true⟩), (0xC3C02535, .shrB32 ⟨true, true, 48, 2, 20, true, true⟩),
  (0xC3530436, .sarB32 ⟨true, true, 20, 48, 16, true, true⟩), (0xC35228B7, .rolB32 ⟨true, true, 20, 34, 34, true, true⟩),
  (0xC38228B8, .andB64 ⟨true, true, 32, 34, 34, true, true⟩), (0xC3114339, .orB64 ⟨true, true, 4, 20, 12, true, true⟩),
  (0xC33048BA, .xorB64 ⟨true, true, 12, 4, 34, true, true⟩), (0xC3C0C53B, .andnB64 ⟨true, true, 48, 12, 20, true, true⟩),
  (0xC351489C, .shlB64 ⟨true, true, 20, 20, 34, false, true⟩), (0xC3C20C3D, .shrB64 ⟨true, true, 48, 32, 48, true, true⟩),
  (0xC33148BE, .sarB64 ⟨true, true, 12, 20, 34, true, true⟩), (0xC3C2289F, .rolB64 ⟨true, true, 48, 34, 34, false, true⟩),
  (0xD5C30932, .shli ⟨true, true, 48, 48, true, true, 0, 50⟩), (0xD550CB3D, .shri ⟨true, true, 20, 12, true, true, 0, 61⟩),
  (0xD58A2C3B, .sari ⟨true, true, 34, 34, true, false, 0, 59⟩), (0x95C14F3D, .roli ⟨true, false, 48, 20, true, true, 0, 61⟩)] : List (Word × Instr)), decodeWord p.1 = .ok p.2 := by decide +kernel

theorem test_decode_bits : ∀ p ∈ ([
  (0xC410C020, .popcB32 ⟨true, true, 4, 12, 0, true, false⟩), (0xC488C021, .clzB32 ⟨true, true, 34, 12, 0, true, false⟩),
  (0xC4C14022, .ctzB32 ⟨true, true, 48, 20, 0, true, false⟩), (0xC4530023, .brevB32 ⟨true, true, 20, 48, 0, true, false⟩),
  (0xC4514024, .popcB64 ⟨true, true, 20, 20, 0, true, false⟩), (0xC4522025, .clzB64 ⟨true, true, 20, 34, 0, true, false⟩),
  (0xC4C14026, .ctzB64 ⟨true, true, 48, 20, 0, true, false⟩), (0xC4514027, .brevB64 ⟨true, true, 20, 20, 0, true, false⟩),
  (0xC4C0CC38, .bfxN32 ⟨true, true, 48, 12, 48, true, true⟩), (0x44322339, .bfxS32 ⟨false, true, 12, 34, 12, true, true⟩),
  (0x84C0CC3A, .bfiB32 ⟨true, false, 48, 12, 48, true, true⟩), (0xC4C228BB, .bprmB32 ⟨true, true, 48, 34, 34, true, true⟩)] : List (Word × Instr)), decodeWord p.1 = .ok p.2 := by decide +kernel

theorem test_decode_moves : ∀ p ∈ ([
  (0xC5894020, .movB32 ⟨true, true, 34, 20, 0, true, false⟩), (0xC530C021, .movB64 ⟨true, true, 12, 12, 0, true, false⟩),
  (0xC5322C32, .xloc ⟨true, true, 12, 34, 48, true, true⟩), (0xC5894333, .xidx ⟨true, true, 34, 20, 12, true, true⟩),
  (0xC58A2C3E, .selB32 ⟨true, true, 34, 34, 48, true, true⟩ 6)] : List (Word × Instr)), decodeWord p.1 = .ok p.2 := by decide +kernel

theorem test_decode_flags : ∀ p ∈ ([
  (0xC6ACCC21, .cmp ⟨true, true, 5, 3, 12, 48, true, false, 1⟩), (0xC7DE20B7, .fcmp ⟨true, true, 6, 7, 34, 2, true, true, 7⟩),
  (0xC80C61C0, .fAnd ⟨true, true, 3, 6, 7, false, false⟩), (0x881C71C1, .fOr ⟨true, false, 7, 7, 7, false, false⟩),
  (0x481C51C2, .fXor ⟨false, true, 7, 5, 7, false, false⟩), (0x481C7003, .fNot ⟨false, true, 7, 7, 0, false, false⟩),
  (0xC814C024, .fSet ⟨true, true, 5, 12, 0, true, false⟩), (0xC8887005, .fGet ⟨true, true, 34, 7, 0, false, false⟩),
  (0xD6F90DB7, .cmpi ⟨true, true, 62, 16, true, 1463⟩)] : List (Word × Instr)), decodeWord p.1 = .ok p.2 := by decide +kernel

theorem test_decode_immediates : ∀ p ∈ ([
  (0xD0C30FAE, .addiB32 ⟨true, true, 48, 48, true, 1966⟩), (0x51C223DF, .addiB64 ⟨false, true, 48, 34, false, 991⟩),
  (0xD2310DED, .andi ⟨true, true, 12, 16, true, 1517⟩), (0xD35141FB, .ori ⟨true, true, 20, 20, false, 507⟩),
  (0x94C0CAFD, .xori ⟨true, false, 48, 12, true, 765⟩), (0x57C0DBBF, .moviN ⟨false, true, 48, 56255⟩),
  (0xD789FFC9, .moviS ⟨true, true, 34, 65481⟩), (0xD78AB9FB, .movh ⟨true, true, 34, 47611⟩),
  (0xD7336EF5, .addh ⟨true, true, 12, 28405⟩)] : List (Word × Instr)), decodeWord p.1 = .ok p.2 := by decide +kernel

theorem test_decode_masks : ∀ p ∈ ([
  (0xD87B0140, .mand ⟨true, true, 7, 11, 0, 5⟩), (0xD89B01C1, .mor ⟨true, true, 9, 11, 0, 7⟩),
  (0x986B01C2, .mxor ⟨true, false, 6, 11, 0, 7⟩), (0xD8B501C3, .mandn ⟨true, true, 11, 5, 0, 7⟩),
  (0xD87B0004, .mmov ⟨true, true, 7, 11, 0, 0⟩), (0x98B03005, .msetg ⟨true, false, 11, 0, 12, 0⟩),
  (0xD80B3006, .mgetg ⟨true, true, 0, 11, 12, 0⟩), (0xD8B00007, .mself ⟨true, true, 11, 0, 0, 0⟩),
  (0xD8700008, .mclr ⟨true, true, 7, 0, 0, 0⟩), (0xD8B00009, .mall ⟨true, true, 11, 0, 0, 0⟩),
  (0xD90789C0, .ballot ⟨true, true, 0, 7, 34, 7⟩), (0xD90B3181, .popcm ⟨true, true, 0, 11, 12, 6⟩),
  (0xD90681C2, .rankm ⟨true, true, 0, 6, 32, 7⟩), (0xD9070003, .join ⟨true, true, 0, 7, 0, 0⟩),
  (0xD9070004, .leave ⟨true, true, 0, 7, 0, 0⟩), (0xD90B0005, .waitk ⟨true, true, 0, 11, 0, 0⟩),
  (0x9A5228BB, .shfl ⟨true, false, 20, 34, 34, true, true⟩ 11), (0xDB50C533, .shflx ⟨true, true, 20, 12, 20, true, true⟩ 3),
  (0xDC882027, .redm ⟨true, true, 34, 2, 0, true, false⟩ 7), (0x9D894027, .scanm ⟨true, false, 34, 20, 0, true, false⟩ 7),
  (0xDE51412B, .mrgrk ⟨true, true, 20, 20, 4, true, false⟩ 11)] : List (Word × Instr)), decodeWord p.1 = .ok p.2 := by decide +kernel

theorem test_decode_flow : ∀ p ∈ ([
  (0xDF80FD6F, .bra ⟨true, true, true, 0, 64879⟩), (0xDF7ED39F, .call ⟨true, true, false, 7, 447391⟩),
  (0xE000C000, .jmpr ⟨true, true, 0, 12, 0⟩), (0xE030C001, .callr ⟨true, true, 12, 12, 0⟩),
  (0xE0022002, .ret ⟨true, true, 0, 34, 0⟩), (0xE0000003, .region ⟨true, true, 0, 0, 0⟩),
  (0xE0000004, .tail ⟨true, true, 0, 0, 0⟩), (0xE0000005, .exit ⟨true, true, 0, 0, 0⟩),
  (0xE0030006, .xsucc ⟨true, true, 0, 48, 0⟩), (0xE0000007, .trig ⟨true, true, 0, 0, 0⟩),
  (0xE0000008, .yield ⟨true, true, 0, 0, 0⟩)] : List (Word × Instr)), decodeWord p.1 = .ok p.2 := by decide +kernel

theorem test_decode_memory : ∀ p ∈ ([
  (0xE180CE6C, .ld ⟨true, true, 32, 12, true, 6, 1, 44⟩), (0xE2304D96, .st ⟨true, true, 12, 4, true, 5, 2, 22⟩),
  (0xA3130B7B, .lds ⟨true, false, 4, 48, true, 3, 1, 59⟩), (0xE48304BE, .sts ⟨true, true, 32, 48, false, 4, 2, 62⟩),
  (0x66030E17, .pref ⟨false, true, 0, 48, true, 6, 0, 23⟩), (0xE54003FA, .ldq ⟨true, true, 16, 0, 63, 10⟩),
  (0xE58806F7, .stq ⟨true, true, 34, 0, 47, 7⟩), (0xE5300BE0, .wprd ⟨true, true, 12, 0, 62, 0⟩)] : List (Word × Instr)), decodeWord p.1 = .ok p.2 := by decide +kernel

theorem test_decode_atomics : ∀ p ∈ ([
  (0xE780C303, .atomAddB32 ⟨true, true, 32, 12, 12, 3⟩), (0xE7C30887, .atomMinS32 ⟨true, true, 48, 48, 34, 3⟩),
  (0xE731488B, .atomMinN32 ⟨true, true, 12, 20, 34, 3⟩), (0xE743030F, .atomMaxS32 ⟨true, true, 16, 48, 12, 3⟩),
  (0xE7C0CC13, .atomMaxN32 ⟨true, true, 48, 12, 48, 3⟩), (0xE7422317, .atomAndB32 ⟨true, true, 16, 34, 12, 3⟩),
  (0xE730C899, .atomOrB32 ⟨true, true, 12, 12, 34, 1⟩), (0xE7C2231E, .atomXorB32 ⟨true, true, 48, 34, 12, 2⟩),
  (0x6750C523, .atomExchB32 ⟨false, true, 20, 12, 20, 3⟩), (0xE750C8A7, .atomCasB32 ⟨true, true, 20, 12, 34, 3⟩),
  (0xE788C8AB, .atomFaddF32 ⟨true, true, 34, 12, 34, 3⟩), (0xE8894C03, .atomAddB64 ⟨true, true, 34, 20, 48, 3⟩),
  (0xE888C507, .atomMinS64 ⟨true, true, 34, 12, 20, 3⟩), (0xE8314309, .atomMinN64 ⟨true, true, 12, 20, 12, 1⟩),
  (0xA850C50F, .atomMaxS64 ⟨true, false, 20, 12, 20, 3⟩), (0xE8C14313, .atomMaxN64 ⟨true, true, 48, 20, 12, 3⟩),
  (0xE88B0517, .atomAndB64 ⟨true, true, 34, 48, 20, 3⟩), (0xE852089B, .atomOrB64 ⟨true, true, 20, 32, 34, 3⟩),
  (0xE88B041F, .atomXorB64 ⟨true, true, 34, 48, 16, 3⟩), (0xE8314523, .atomExchB64 ⟨true, true, 12, 20, 20, 3⟩),
  (0xE8510C27, .atomCasB64 ⟨true, true, 20, 16, 48, 3⟩), (0xE853052E, .atomFaddF64 ⟨true, true, 20, 48, 20, 2⟩),
  (0xEAC22303, .atomsAddB32 ⟨true, true, 48, 34, 12, 3⟩), (0xEA88C507, .atomsMinS32 ⟨true, true, 34, 12, 20, 3⟩),
  (0xAA314C0B, .atomsMinN32 ⟨true, false, 12, 20, 48, 3⟩), (0xEA8A250F, .atomsMaxS32 ⟨true, true, 34, 34, 20, 3⟩),
  (0xEA530313, .atomsMaxN32 ⟨true, true, 20, 48, 12, 3⟩), (0xAAC0C897, .atomsAndB32 ⟨true, false, 48, 12, 34, 3⟩),
  (0xEA8B051B, .atomsOrB32 ⟨true, true, 34, 48, 20, 3⟩), (0xEAC3089E, .atomsXorB32 ⟨true, true, 48, 48, 34, 2⟩),
  (0xEA80C523, .atomsExchB32 ⟨true, true, 32, 12, 20, 3⟩), (0xAA50CC27, .atomsCasB32 ⟨true, false, 20, 12, 48, 3⟩),
  (0xEAC30C29, .atomsFaddF32 ⟨true, true, 48, 48, 48, 1⟩), (0xEC322301, .mwaitEq ⟨true, true, 12, 34, 12, 1⟩),
  (0xEC522C05, .mwaitNe ⟨true, true, 20, 34, 48, 1⟩)] : List (Word × Instr)), decodeWord p.1 = .ok p.2 := by decide +kernel

theorem test_decode_reductions : ∀ p ∈ ([
  (0xE980C882, .redAdd ⟨true, true, 32, 12, 34, 2⟩), (0xE900C886, .redMinS ⟨true, true, 0, 12, 34, 2⟩),
  (0xE900C88A, .redMinN ⟨true, true, 0, 12, 34, 2⟩), (0xA980C30E, .redMaxS ⟨true, false, 32, 12, 12, 2⟩),
  (0xA9830892, .redMaxN ⟨true, false, 32, 48, 34, 2⟩), (0xE9830096, .redAnd ⟨true, true, 32, 48, 2, 2⟩),
  (0xE980CC1A, .redOr ⟨true, true, 32, 12, 48, 2⟩), (0xE981451E, .redXor ⟨true, true, 32, 20, 20, 2⟩),
  (0xE900C52A, .redFaddF32 ⟨true, true, 0, 12, 20, 2⟩), (0xE9830C2E, .redFaddF64 ⟨true, true, 32, 48, 48, 2⟩),
  (0xE900C332, .redFaddBf2 ⟨true, true, 0, 12, 12, 2⟩), (0xEB014882, .redsAddB32 ⟨true, true, 0, 20, 34, 2⟩),
  (0xEB022C06, .redsMinS32 ⟨true, true, 0, 34, 48, 2⟩), (0x6B02288A, .redsMinN32 ⟨false, true, 0, 34, 34, 2⟩),
  (0xEB01050E, .redsMaxS32 ⟨true, true, 0, 16, 20, 2⟩), (0xEB014312, .redsMaxN32 ⟨true, true, 0, 20, 12, 2⟩),
  (0xEB022116, .redsAndB32 ⟨true, true, 0, 34, 4, 2⟩), (0xEB03009A, .redsOrB32 ⟨true, true, 0, 48, 2, 2⟩),
  (0xEB02051E, .redsXorB32 ⟨true, true, 0, 32, 20, 2⟩), (0xEB01452A, .redsFaddF32 ⟨true, true, 0, 20, 20, 2⟩),
  (0xEB00C132, .redsFaddBf2 ⟨true, true, 0, 12, 4, 2⟩)] : List (Word × Instr)), decodeWord p.1 = .ok p.2 := by decide +kernel

theorem test_decode_tensor_and_barrier : ∀ p ∈ ([
  (0xEDC30894, .stcmp ⟨true, true, 48, 48, 34, 5⟩), (0xAD89452D, .ldexp ⟨true, false, 34, 20, 20, 11⟩),
  (0xEE8A2300, .ldtB16 ⟨true, true, 34, 34, 12⟩), (0xEE894501, .ldtB32 ⟨true, true, 34, 20, 20⟩),
  (0xEEC20C02, .ldtB64 ⟨true, true, 48, 32, 48⟩), (0xEE330303, .sttB16 ⟨true, true, 12, 48, 12⟩),
  (0xEEC22884, .sttB32 ⟨true, true, 48, 34, 34⟩), (0xEE330305, .sttB64 ⟨true, true, 12, 48, 12⟩),
  (0xEF00C880, .binit ⟨true, true, 0, 12, 34⟩), (0xEF8B0001, .barr ⟨true, true, 34, 48, 0⟩),
  (0xEF522002, .bdrop ⟨true, true, 20, 34, 0⟩), (0xEF50C503, .bwait ⟨true, true, 20, 12, 20⟩),
  (0xEF022884, .bexp ⟨true, true, 0, 34, 34⟩), (0xEF430C05, .btest ⟨true, true, 16, 48, 48⟩)] : List (Word × Instr)), decodeWord p.1 = .ok p.2 := by decide +kernel

theorem test_decode_locks : ∀ p ∈ ([
  (0xF030232C, .lkacq ⟨true, true, 12, 2, 12, 5, 2⟩), (0xF0530323, .lkupg ⟨true, true, 20, 48, 12, 4, 1⟩),
  (0xF1030C02, .lkrel ⟨true, true, 0, 48, 48⟩ 1), (0xF1000001, .lkrall ⟨true, true, 0, 0, 0⟩),
  (0xF1500003, .lkchk ⟨true, true, 20, 0, 0⟩)] : List (Word × Instr)), decodeWord p.1 = .ok p.2 := by decide +kernel

theorem test_decode_ring : ∀ p ∈ ([
  (0xF2522300, .rrot ⟨true, true, 20, 34, 12⟩)] : List (Word × Instr)), decodeWord p.1 = .ok p.2 := by decide +kernel

theorem test_decode_f32 : ∀ p ∈ ([
  (0xF350C330, .faddF32 ⟨true, true, 20, 12, 12, true, true⟩), (0xF3330131, .fsubF32 ⟨true, true, 12, 48, 4, true, true⟩),
  (0xF3322332, .fmulF32 ⟨true, true, 12, 34, 12, true, true⟩), (0xF35140B3, .ffmaF32 ⟨true, true, 20, 20, 2, true, true⟩),
  (0xF38B0534, .fminF32 ⟨true, true, 34, 48, 20, true, true⟩), (0xF3322C35, .fmaxF32 ⟨true, true, 12, 34, 48, true, true⟩),
  (0xF3330026, .fabsF32 ⟨true, true, 12, 48, 0, true, false⟩), (0xF3314027, .fnegF32 ⟨true, true, 12, 20, 0, true, false⟩),
  (0xF330C028, .frndF32Rn ⟨true, true, 12, 12, 0, true, false⟩), (0xF3514029, .frndF32Rz ⟨true, true, 20, 20, 0, true, false⟩),
  (0xF332202A, .frndF32Ru ⟨true, true, 12, 34, 0, true, false⟩), (0xF389402B, .frndF32Rd ⟨true, true, 34, 20, 0, true, false⟩)] : List (Word × Instr)), decodeWord p.1 = .ok p.2 := by decide +kernel

theorem test_decode_f64 : ∀ p ∈ ([
  (0xF4894C30, .faddF64 ⟨true, true, 34, 20, 48, true, true⟩), (0x74C30331, .fsubF64 ⟨false, true, 48, 48, 12, true, true⟩),
  (0xF4514332, .fmulF64 ⟨true, true, 20, 20, 12, true, true⟩), (0xF4514333, .ffmaF64 ⟨true, true, 20, 20, 12, true, true⟩),
  (0xF4C300B4, .fminF64 ⟨true, true, 48, 48, 2, true, true⟩), (0xF4530135, .fmaxF64 ⟨true, true, 20, 48, 4, true, true⟩),
  (0x74894026, .fabsF64 ⟨false, true, 34, 20, 0, true, false⟩), (0xF4C14027, .fnegF64 ⟨true, true, 48, 20, 0, true, false⟩),
  (0xF4C22028, .frndF64Rn ⟨true, true, 48, 34, 0, true, false⟩), (0xF4C22029, .frndF64Rz ⟨true, true, 48, 34, 0, true, false⟩),
  (0xF4C1402A, .frndF64Ru ⟨true, true, 48, 20, 0, true, false⟩), (0xF489402B, .frndF64Rd ⟨true, true, 34, 20, 0, true, false⟩)] : List (Word × Instr)), decodeWord p.1 = .ok p.2 := by decide +kernel

theorem test_decode_packed : ∀ p ∈ ([
  (0xF5330330, .hadd2H ⟨true, true, 12, 48, 12, true, true⟩), (0xF5C0C531, .hsub2H ⟨true, true, 48, 12, 20, true, true⟩),
  (0xF51308B2, .hmul2H ⟨true, true, 4, 48, 34, true, true⟩), (0xB5330333, .hfma2H ⟨true, false, 12, 48, 12, true, true⟩),
  (0xF5504C34, .hmin2H ⟨true, true, 20, 4, 48, true, true⟩), (0xF5894535, .hmax2H ⟨true, true, 34, 20, 20, true, true⟩),
  (0xF53148B8, .hadd2Bf ⟨true, true, 12, 20, 34, true, true⟩), (0xF5522139, .hsub2Bf ⟨true, true, 20, 34, 4, true, true⟩),
  (0xF531453A, .hmul2Bf ⟨true, true, 12, 20, 20, true, true⟩), (0xF531451B, .hfma2Bf ⟨true, true, 12, 20, 20, false, true⟩),
  (0xF58B031C, .hmin2Bf ⟨true, true, 34, 48, 12, false, true⟩), (0xF5C0CC3D, .hmax2Bf ⟨true, true, 48, 12, 48, true, true⟩),
  (0xF530C52E, .dot4E4 ⟨true, true, 12, 12, 20, true, false⟩), (0xF530C52F, .dot4E5 ⟨true, true, 12, 12, 20, true, false⟩)] : List (Word × Instr)), decodeWord p.1 = .ok p.2 := by decide +kernel

theorem test_decode_special_functions : ∀ p ∈ ([
  (0xF6C0C020, .frcpF32 ⟨true, true, 48, 12, 0, true, false⟩), (0xF630C021, .frsqF32 ⟨true, true, 12, 12, 0, true, false⟩),
  (0xF6894022, .fsqrtF32 ⟨true, true, 34, 20, 0, true, false⟩), (0xF630C023, .fexp2F32 ⟨true, true, 12, 12, 0, true, false⟩),
  (0xF6C22024, .flog2F32 ⟨true, true, 48, 34, 0, true, false⟩), (0xF630C025, .fsinF32 ⟨true, true, 12, 12, 0, true, false⟩),
  (0xF6514026, .fcosF32 ⟨true, true, 20, 20, 0, true, false⟩), (0xF6530C27, .fdivF32 ⟨true, true, 20, 48, 48, true, false⟩),
  (0xF6C0C028, .fsqrtF64 ⟨true, true, 48, 12, 0, true, false⟩), (0xF6C22539, .fdivF64 ⟨true, true, 48, 34, 20, true, true⟩),
  (0xF6C3002A, .frcpF64 ⟨true, true, 48, 48, 0, true, false⟩), (0xF6C0C02B, .fclassF32 ⟨true, true, 48, 12, 0, true, false⟩),
  (0xF651402C, .fclassF64 ⟨true, true, 20, 20, 0, true, false⟩)] : List (Word × Instr)), decodeWord p.1 = .ok p.2 := by decide +kernel

theorem test_decode_cvt : ∀ p ∈ ([
  (0xB7502AEA, .cvt ⟨true, false, 20, 2, true, 5, 13, 2⟩)] : List (Word × Instr)), decodeWord p.1 = .ok p.2 := by decide +kernel

theorem test_decode_blocks : ∀ p ∈ ([
  (0xF880C8A8, .blkAddB32 ⟨true, true, 32, 12, 34, 2, 2⟩), (0xF888C025, .blkMovB32 ⟨true, true, 34, 12, 0, 2, 1⟩),
  (0xF8C3081A, .blkAndB32 ⟨true, true, 48, 48, 32, 1, 2⟩), (0xF888C513, .blkXorB32 ⟨true, true, 34, 12, 20, 1, 0⟩),
  (0xF9882318, .blkFaddF32 ⟨true, true, 34, 2, 12, 1, 2⟩), (0xF9894425, .blkFmulF32 ⟨true, true, 34, 20, 16, 2, 1⟩),
  (0x3951452A, .blkFfmaF32 ⟨false, false, 20, 20, 20, 2, 2⟩), (0x7989432B, .blkFmaxF32 ⟨false, true, 34, 20, 12, 2, 2⟩),
  (0xFA50C524, .blkHfma2H ⟨true, true, 20, 12, 20, 2, 1⟩), (0xFA322329, .blkHfma2Bf ⟨true, true, 12, 34, 12, 2, 2⟩),
  (0xFA0A2C16, .blkFfmaF64 ⟨true, true, 2, 34, 48, 1, 1⟩)] : List (Word × Instr)), decodeWord p.1 = .ok p.2 := by decide +kernel

theorem test_decode_matrix : ∀ p ∈ ([
  (0xFB030000, .mxcfg ⟨true, true, 0, 48, 0⟩), (0xFB030001, .mxlds ⟨true, true, 0, 48, 0⟩),
  (0xFB000002, .mxswap ⟨true, true, 0, 0, 0⟩), (0xFB014883, .mxmul ⟨true, true, 0, 20, 34⟩),
  (0xFB014304, .mxst ⟨true, true, 0, 20, 12⟩), (0xFB000885, .mxzero ⟨true, true, 0, 0, 34⟩),
  (0xFB30C006, .mxgo ⟨true, true, 12, 12, 0⟩), (0xFB300007, .mxstat ⟨true, true, 12, 0, 0⟩)] : List (Word × Instr)), decodeWord p.1 = .ok p.2 := by decide +kernel

theorem test_decode_tensors : ∀ p ∈ ([
  (0xFC8A2300, .tdef ⟨true, true, 34, 34, 12⟩), (0xFC880501, .trel ⟨true, true, 34, 0, 20⟩),
  (0x7C894002, .tcopy ⟨false, true, 34, 20, 0⟩), (0xFCC14003, .remap ⟨true, true, 48, 20, 0⟩),
  (0xFC89400B, .remapStep ⟨true, true, 34, 20, 0⟩), (0xFC522004, .tmerge ⟨true, true, 20, 34, 0⟩),
  (0xFC330005, .txf ⟨true, true, 12, 48, 0⟩), (0xFCC00C06, .tstat ⟨true, true, 48, 0, 48⟩),
  (0xFC8B0007, .tldtab ⟨true, true, 34, 48, 0⟩)] : List (Word × Instr)), decodeWord p.1 = .ok p.2 := by decide +kernel

theorem test_decode_fabric : ∀ p ∈ ([
  (0xFD894000, .rget ⟨true, true, 34, 20, 0⟩), (0xFDC0C001, .rput ⟨true, true, 48, 12, 0⟩),
  (0xFD88C002, .tsend ⟨true, true, 34, 12, 0⟩), (0xFD500C03, .tcnt ⟨true, true, 20, 0, 48⟩),
  (0xFD000004, .rfence ⟨true, true, 0, 0, 0⟩), (0xFD322885, .carm ⟨true, true, 12, 34, 34⟩),
  (0xFD88C006, .skld ⟨true, true, 34, 12, 0⟩), (0xFD300C07, .skrel ⟨true, true, 12, 0, 48⟩)] : List (Word × Instr)), decodeWord p.1 = .ok p.2 := by decide +kernel

theorem test_decode_remote : ∀ p ∈ ([
  (0xFE302883, .ratomAddB64 ⟨true, true, 12, 2, 34, 3⟩), (0xFEC14507, .ratomMinS64 ⟨true, true, 48, 20, 20, 3⟩),
  (0xFE32288B, .ratomMinN64 ⟨true, true, 12, 34, 34, 3⟩), (0xFE33040F, .ratomMaxS64 ⟨true, true, 12, 48, 16, 3⟩),
  (0xFE88C513, .ratomMaxN64 ⟨true, true, 34, 12, 20, 3⟩), (0xFE314517, .ratomAndB64 ⟨true, true, 12, 20, 20, 3⟩),
  (0xFE32281B, .ratomOrB64 ⟨true, true, 12, 34, 32, 3⟩), (0xFE894C1F, .ratomXorB64 ⟨true, true, 34, 20, 48, 3⟩),
  (0xFEC14523, .ratomExchB64 ⟨true, true, 48, 20, 20, 3⟩), (0xFE304C27, .ratomCasB64 ⟨true, true, 12, 4, 48, 3⟩)] : List (Word × Instr)), decodeWord p.1 = .ok p.2 := by decide +kernel

theorem test_decode_system : ∀ p ∈ ([
  (0x7F0000FF, .trap ⟨false, true, 0, 0, 255⟩), (0x7FC001FF, .srd ⟨false, true, 48, 0, 255⟩),
  (0xFF0302FE, .swr ⟨true, true, 0, 48, 254⟩), (0xFF000300, .rteRestart ⟨true, true, 0, 0, 0⟩),
  (0xFF000301, .rteNext ⟨true, true, 0, 0, 0⟩), (0xFF400403, .fltrd ⟨true, true, 16, 0, 3⟩),
  (0xFFC0C500, .launch ⟨true, true, 48, 12, 0⟩), (0xFF522501, .launchNb ⟨true, true, 20, 34, 0⟩),
  (0xFF514600, .sigw ⟨true, true, 20, 20, 0⟩), (0xFF00077D, .bkpt ⟨true, true, 0, 0, 125⟩)] : List (Word × Instr)), decodeWord p.1 = .ok p.2 := by decide +kernel

theorem test_decode_sepal : ∀ p ∈ ([
  (0x05DD6000, .sepalAdd 7 7 11), (0x07BFFAD6, .sepalAddImm 14 15 129750), (0x0BD5E000, .sepalSub 15 5 15),
  (0x0BD71FBE, .sepalSubImm 15 5 73662), (0x0FF8C000, .sepalAnd 15 14 6), (0x0DF73AFD, .sepalAndImm 7 13 80637),
  (0x11FDC000, .sepalOr 7 15 14), (0x12BBBF7C, .sepalOrImm 10 14 114556), (0x15BDE000, .sepalXor 6 15 15),
  (0x17B2FF7F, .sepalXorImm 14 12 65407), (0x1AFCE000, .sepalShl 11 15 7), (0x1BF37E75, .sepalShlImm 15 12 97909),
  (0x1FFD2000, .sepalShr 15 15 9), (0x1FABEFEE, .sepalShrImm 14 10 126958), (0x21F9A000, .sepalMin 7 14 13),
  (0x226FFFCE, .sepalMinImm 9 11 131022), (0x27CDE000, .sepalMax 15 3 15), (0x27DF29FC, .sepalMaxImm 15 7 76284),
  (0x2A40FEFF, .sepalMovi 9 65279), (0x2F40BFCD, .sepalMovh 13 49101), (0x336AD000, .sepalCmp 3 3 5 13),
  (0x32BBAFD7, .sepalCmpImm 2 5 13 45015), (0x40800FFF, .sepalBr false 2 4095), (0x410003DF, .sepalBrAlways 991),
  (0x457606FE, .sepalLoop 374 1790), (0x48000000, .sepalDone), (0x5381C000, .sepalPhl 14 7), (0x543E4000, .sepalPhs 15 9),
  (0x5AB83ABD, .sepalPkl 10 14 15037), (0x5C3FFC3D, .sepalPks 15 15 15421), (0x63F41773, .sepalFld 15 13 6003),
  (0x643EDD7E, .sepalFst 15 11 7550), (0x6BEF3F9E, .sepalFat 15 11 12 16286), (0x83F4379D, .sepalVld true 7 13 14237),
  (0x87E37A3D, .sepalVst true 7 8 13 14909), (0x89FF0000, .sepalVadd 3 7 7 2), (0x8FB68000, .sepalVmax 7 3 3 1),
  (0x92FD0000, .sepalVmin 5 7 6 2), (0x97D88000, .sepalVred 15 3 1), (0xA37D6000, .sepalHash 13 15 11),
  (0xB03C0000, .sepalFwd 15), (0xB4000000, .sepalDrop), (0xB83C0000, .sepalMirr 15), (0xC3C00000, .sepalClk 15),
  (0xC400007F, .sepalTrp 127), (0x9AB08000, .sepalVcvtUp 5 3 1), (0x9AB18000, .sepalVcvtDn 5 3 1)] : List (Word × Instr)), decodeSepal p.1 = some p.2 := by decide +kernel

/-! ## Ill-formed terms, one for each check -/

/-- Order 2, FUNC: condition 6 of CMP (R262). -/
theorem test_ill_func : (Instr.cmp ⟨true, true, 0, 6, 1, 2, false, false, 0⟩).check = some 2 := by decide +kernel
/-- Order 3, FIELD: a field marked unused is not zero (R235). -/
theorem test_ill_field : (Instr.absS32 ⟨true, true, 1, 2, 3, false, false⟩).check = some 3 := by decide +kernel
/-- Order 4, TYPE: an integer compare of type 5 (R262). -/
theorem test_ill_type : (Instr.cmp ⟨true, true, 0, 0, 2, 4, false, false, 5⟩).check = some 4 := by decide +kernel
/-- Order 5, ORD: an acquire on a store (R283). -/
theorem test_ill_ord : (Instr.st ⟨true, true, 1, 2, false, 4, 1, 0⟩).check = some 5 := by decide +kernel
/-- Order 6, REGALIGN: a pair on an odd register (R236). -/
theorem test_ill_align : (Instr.addB64 ⟨true, true, 1, 2, 4, false, false⟩).check = some 6 := by decide +kernel
/-- Order 7: a 2 by 2 block whose corner stands in the last column (R236, R324). -/
theorem test_ill_block : (Instr.blkAddB32 ⟨true, true, 7, 0, 16, 1, 1⟩).check = some 7 := by decide +kernel
/-- Order 7: a run of channel elements past g63 (R286). -/
theorem test_ill_run : (Instr.ldq ⟨true, true, 60, 0, 0, 7⟩).check = some 7 := by decide +kernel
/-- Order 8: mask register 12 (R236). -/
theorem test_ill_mask : (Instr.mand ⟨true, true, 12, 0, 0, 1⟩).check = some 8 := by decide +kernel
/-- The load check of a sepal kernel refuses field 5 as the target of PHS (R432, R434). -/
theorem test_ill_sepal : (Instr.sepalPhs 1 5).wf = false := by decide +kernel
/-- A word with a reserved major has no meaning of its own (R243). -/
theorem test_ill_word : (match decodeWord 0xC0000001 with | .ok _ => true | .illegal _ => false) = false := by decide +kernel

/-! ## Single steps -/

/-- Is the outcome a next state that passes a test? -/
noncomputable def next? (o : Host.Outcome State Fault Refusal) (p : State → Bool) : Bool :=
  match o with
  | .next t => p t
  | _ => false

/-- A core word placed at reset is the one the next step runs: MOVI.N g48, 5 leaves 5 in g48 (R266). -/
theorem test_step_core : next? (step (State.reset.withFetchWord 32 (((Instr.moviN ⟨true, true, 48, 5⟩).encode.getD 0 0).toNat)))
    (fun t => t.threads.any (fun x => x.2.regs.contains (48, 5))) = true := by decide +kernel
/-- A sepal word placed at reset is the one the next step runs: DROP (R433). -/
theorem test_step_sepal : next? (step (State.reset.withFetchWord 32 ((Instr.sepalDrop.encode.getD 0 0).toNat)))
    (fun t => t.ctxts.any (fun c => c.2.disp == .drop && c.2.pc == 1)) = true := by decide +kernel

/-! ## Witnesses: for each statement, states and operands that meet its hypotheses -/
/-! ## A small state: two threads of one task on core 0 -/

/-- The two lanes. -/
def t0 : ThreadRef := ⟨1, 0⟩
def t1 : ThreadRef := ⟨1, 1⟩
/-- Thread TID of task 1 with registers. -/
def thr (tid : Nat) (regs : List (Nat × Word)) : Thread := { task := 1, tid := tid, pc := 1200, regionPc := 1200, regs := regs }
/-- Task 1 of launch 1. -/
def tsk : Task := { age := 1, lseq := 1, launch := 1, threads := 2, spmSize := 4096, trapLo := 2400 }
/-- A page of 1 GiB: the local addresses below it are device memory, the next GiB is host memory. -/
def pages : List (Nat × Nat × Tlb) :=
  [(0, 0, ⟨30, 0, true, true, true, true, false⟩), (0, 1, ⟨30, 2 ^ 18, true, true, true, true, true⟩)]
/-- The lanes `ls` of the task `k` execute, with threads `a` and `b`. -/
def run (ls : List ThreadRef) (k : Task) (a b : Thread) : State :=
  { boot := .running, memReady := true, actor := .lanes ls, tasks := [(1, k)], threads := [(1024, a), (1025, b)],
    launches := [(1, { lseq := 1 })], tlbs := [(0, pages)], twe := [(0, pages)], atc := [((0, 0, 0x40000), 0x40000)] }
/-- The first thread alone, with these registers. -/
def solo (regs : List (Nat × Word)) : State := run [t0] tsk (thr 0 regs) (thr 1 [])
/-- Both. -/
def pair : State := run [t0, t1] tsk (thr 0 []) (thr 1 [])

/-- Every statement about one lane: its thread exists and is ready. -/
theorem lone (k : Task) (a b : Thread) (h : a.status = .ready) : Lone (run [t0] k a b) t0 a := ⟨rfl, rfl, h⟩
/-- Every statement about the lanes of one issue. -/
theorem gang : Gang pair [t0, t1] := by
  refine ⟨rfl, by decide, ?_⟩
  intro t h
  simp only [List.mem_cons, List.not_mem_nil, or_false] at h
  rcases h with rfl | rfl <;> exact ⟨_, rfl, rfl⟩

/-- An answer of a memory operation, with what holds of it. -/
theorem answers {α : Type} {P : α → State → Prop} [∀ a s, Decidable (P a s)] {r : Res α}
    (h : (match r with | .ok a s => decide (P a s) | .stop _ _ => false) = true) : ∃ a s, r = .ok a s ∧ P a s := by
  cases r with
  | ok a s => exact ⟨a, s, rfl, of_decide_eq_true h⟩
  | stop x s => cases h
/-- A page fault of a read. -/
def readFault : Stop → Bool
  | .page _ _ .read => true
  | _ => false
/-- A memory operation that a page fault of a read stops. -/
theorem faults {α : Type} {r : Res α} (h : (match r with | .ok _ _ => false | .stop x _ => readFault x) = true) :
    ∃ va sub s, r = .stop (.page va sub .read) s := by
  cases r with
  | ok _ _ => cases h
  | stop x s =>
    cases x with
    | page va sub k => cases k <;> first | exact ⟨va, sub, s, rfl⟩ | cases h
    | trap _ => cases h
    | retry _ => cases h
/-! ## Hypotheses that can be met -/

theorem witness_IntegerArithmetic32 : ∃ e ∈ arith32, e.two = true ∧ Gang pair [t0, t1] := ⟨_, .head _, rfl, gang⟩
theorem witness_IntegerArithmetic64 : ∃ e ∈ arith64, e.two = true ∧ Gang pair [t0, t1] := ⟨_, .head _, rfl, gang⟩
theorem witness_LogicShiftsAndBits : logic32 ≠ [] ∧ logic64 ≠ [] ∧ shifts ≠ [] ∧ bits32 ≠ [] ∧ bits64 ≠ [] ∧ counts64 ≠ [] ∧
    Gang pair [t0, t1] := by simp [logic32, logic64, shifts, bits32, bits64, counts64, gang]
theorem witness_MovesAndImmediates : immediates ≠ [] ∧ constants ≠ [] ∧ Gang pair [t0, t1] := by
  simp [immediates, constants, gang]
theorem witness_ComparesAndFlags : ∃ f : FmtF, f.cc.toNat < 6 ∧ f.ty.toNat < 4 ∧ flagWords ≠ [] ∧ Gang pair [t0, t1] :=
  ⟨⟨false, false, 7, 5, 0, 62, false, false, 3⟩, by decide, by decide, by simp [flagWords], gang⟩
theorem witness_FloatWords : floats32 ≠ [] ∧ floats64 ≠ [] ∧ (Fp.f32.val 0x7F800001).isNan = true ∧ Gang pair [t0, t1] := by
  refine ⟨by simp [floats32], by simp [floats64], by decide +kernel, gang⟩
theorem number_f32 : IsNumber Fp.f32 0x7F000000 ∧ IsNumber Fp.f32 0 ∧ IsNumber Fp.f32 0x3F800000 := by
  simp only [IsNumber, Fp.f32, Fp.Fmt.width, expField]; decide
theorem real_f32 : real Fp.f32 0 = 0 ∧ real Fp.f32 0x3F800000 = 1 ∧ real Fp.f32 0x7F000000 = 2 ^ 127 := by
  refine ⟨?_, ?_, ?_⟩ <;> norm_num [real, signBit, expField, fracField, Fp.f32]
theorem witness_FloatRounding :
    |real Fp.f32 0x3F800000 + real Fp.f32 0| ≤ largest Fp.f32 ∧ beyond Fp.f32 ≤ |real Fp.f32 0x7F000000 * real Fp.f32 0x7F000000| ∧
    real Fp.f32 0x3F800000 ≠ 0 ∧ 0 < real Fp.f32 0x3F800000 := by
  rw [real_f32.1, real_f32.2.1, real_f32.2.2]
  refine ⟨?_, ?_, by norm_num, by norm_num⟩
  · norm_num [largest, Fp.f32]
  · norm_num [beyond, Fp.f32]
theorem real_edges :
    real Fp.f32 0x7F7FFFFF = 2 ^ 128 - 2 ^ 104 ∧ real Fp.f32 0x73000000 = 2 ^ 103 ∧ real Fp.f32 0xBF800000 = -1 := by
  refine ⟨?_, ?_, ?_⟩ <;> norm_num [real, signBit, expField, fracField, Fp.f32]
/-- Half a unit past the largest number: nearest rounding overflows there, rounding toward zero does not (R188, R194). -/
theorem witness_FloatEdges :
    let v := real Fp.f32 0x7F7FFFFF + real Fp.f32 0x73000000
    largest Fp.f32 < |v| ∧ Overflows Fp.f32 .rn v ∧ ¬Overflows Fp.f32 .rz v ∧ IsInf Fp.f32 0x7F800000 ∧ IsInf Fp.f32 0xFF800000 ∧
    real Fp.f32 0xBF800000 < 0 ∧ IsNumber Fp.f32 0x7F7FFFFF := by
  simp only [real_edges.1, real_edges.2.1, real_edges.2.2]
  refine ⟨by norm_num [largest, Fp.f32], ?_, ?_, ?_, ?_, by norm_num, ?_⟩
  · norm_num [Overflows, largest, beyond, Fp.f32]
  · norm_num [Overflows, largest, beyond, Fp.f32]
  · simp only [IsInf, Fp.f32, Fp.Fmt.width, expField, fracField]; decide
  · simp only [IsInf, Fp.f32, Fp.Fmt.width, expField, fracField]; decide
  · simp only [IsNumber, Fp.f32, Fp.Fmt.width, expField]; decide
theorem witness_ClassifyCompareConvert : Gang pair [t0, t1] ∧ 0x80000001 < 2 ^ Fp.f32.width ∧ IsNumber Fp.f32 0 ∧ IsInf Fp.f32 0xFF800000 ∧
    ¬IsNumber Fp.f32 0x7FC00000 ∧ ¬IsInf Fp.f32 0x7FC00000 ∧ Fp.f64 ≠ Fp.f32 ∧ 5 < 2 ^ (⟨true, 8⟩ : Fp.IFmt).w := by
  refine ⟨gang, by decide, number_f32.2.1, ?_, ?_, ?_, by decide, by decide⟩
  · simp only [IsInf, Fp.f32, Fp.Fmt.width, expField, fracField]; decide
  · simp only [IsNumber, Fp.f32, Fp.Fmt.width, expField]; decide
  · simp only [IsInf, Fp.f32, Fp.Fmt.width, expField, fracField]; decide
theorem witness_BlockWords : ∃ e ∈ blocks, Gang pair [t0, t1] := ⟨_, .head _, gang⟩
theorem witness_Branches : (∀ t ∈ [t0, t1], (pair.readPair t 0).toNat % 12 = 0) ∧ Gang pair [t0, t1] ∧
    Lone (solo [(0, 13)]) t0 (thr 0 [(0, 13)]) ∧ ((solo [(0, 13)]).readPair t0 0).toNat % 12 ≠ 0 :=
  ⟨by decide +kernel, gang, ⟨rfl, rfl, rfl⟩, by decide +kernel⟩
theorem witness_RegionsAndYield : Gang pair [t0, t1] ∧
    ∃ s : State, ∃ th, s.threads.find? (tkey t1) = some th ∧ th.status = .yielded :=
  ⟨gang, run [] tsk (thr 0 []) { thr 1 [] with status := .yielded }, _, rfl, rfl⟩
theorem witness_SpecialRegisters : (specials.map Prod.fst) = List.range 24 ∧ Gang pair [t0, t1] ∧
    (∀ t ∈ [t0, t1], pair.readG t 0 &&& 0xFFFFE0FC = 0) ∧ Lone (solo [(0, 0x1000000)]) t0 (thr 0 [(0, 0x1000000)]) ∧
    2 ^ 24 ≤ ((solo [(0, 0x1000000)]).readG t0 0).toNat ∧ ((solo [(0, 0xFFFFFF)]).readG t0 0).toNat < 2 ^ 24 ∧
    (solo [(0, 4)]).readG t0 0 &&& 0xFFFFE0FC ≠ 0 ∧ (solo []).collect = none :=
  ⟨rfl, gang, by decide +kernel, ⟨rfl, rfl, rfl⟩, by decide +kernel, by decide +kernel, by decide +kernel, rfl⟩
theorem witness_TrapsEnterHandlers :
    let s := solo []
    Lone s t0 (thr 0 []) ∧ (thr 0 []).handler = false ∧ (s.task 1).trapBase = 2400 ∧ (s.fetchable t0 2400).1 = true ∧
    (thr 0 []).ref = t0 ∧ s.locks = [] ∧ (run [t0] { tsk with trapLo := 0 } (thr 0 []) (thr 1 [])).task 1 ≠ s.task 1 ∧
    ((run [t0] { tsk with trapLo := 0 } (thr 0 []) (thr 1 [])).task 1).trapBase = 0 := by
  refine ⟨⟨rfl, rfl, rfl⟩, ?_⟩; decide +kernel
theorem witness_HandlerReturn :
    let a := { thr 0 [] with handler := true, trapRec := { code := 1, pc := 1204, regionPc := 1200 } }
    let s := run [t0] tsk a (thr 1 [])
    Lone s t0 a ∧ a.handler = true ∧ a.trapRec.code ∉ [9, 10] ∧
    (∃ ws s1, s.fetchPacket t0 (packetOf a.trapRec.pc) = .ok ws s1) ∧ Gang pair [t0, t1] :=
  ⟨⟨rfl, rfl, rfl⟩, rfl, by decide, ⟨_, _, rfl⟩, gang⟩
theorem witness_ReturnOutsideHandler : Lone (solo []) t0 (thr 0 []) ∧ (solo []).collect = none ∧ (thr 0 []).handler = false :=
  ⟨⟨rfl, rfl, rfl⟩, rfl, rfl⟩
/-- A task of two threads whose mask k1 holds both, with a phase. -/
def masked (p : List (Nat × Phase)) : State := run [t0] { tsk with masks := [(1, 3)], phases := p } (thr 0 []) (thr 1 [])
theorem witness_MaskRegisters : Lone (masked []) t0 (thr 0 []) ∧ ((masked []).tasks.find? 1).isSome = true ∧
    ((masked []).phase t0 1).arrived = 0 ∧ Gang pair [t0, t1] ∧
    ((masked [(1, { arrived := 2, kind := 0x643 })]).phase t0 1).arrived ≠ 0 :=
  ⟨⟨rfl, rfl, rfl⟩, rfl, by decide, gang, by decide⟩
theorem witness_Meetings : Lone (masked []) t0 (thr 0 []) ∧ (masked []).member t0 1 = true ∧ (masked []).member t0 2 = false ∧
    ((masked [(1, { arrived := 2, kind := 64 * 0x19 + 3 })]).phase t0 1).kind = 64 * 0x19 + 3 ∧
    (masked []).readK t0 2 = 0 ∧ ∃ s : State, Lone s t0 (thr 0 []) ∧ s.member t0 2 = false ∧ s.readK t0 2 ≠ 0 :=
  ⟨⟨rfl, rfl, rfl⟩, by decide +kernel, by decide +kernel, by decide +kernel, by decide +kernel,
    run [t0] { tsk with masks := [(2, 2)] } (thr 0 []) (thr 1 []), ⟨rfl, rfl, rfl⟩, by decide +kernel, by decide +kernel⟩
theorem witness_PhaseCompletion :
    let s := masked [(1, { arrived := 2, kind := 64 * 0x1C })]
    let v := masked [(1, { arrived := 3, kind := 64 * 0x1C, ops := [(0, { a := 5, dst := 4 }), (1, { a := 6, dst := 4 })] })]
    (s.readK t0 1 &&& ~~~(s.phase t0 1).arrived ≠ 0 ∧ s.readK t0 1 ≠ 0) ∧
    (v.readK t0 1 &&& ~~~(v.phase t0 1).arrived = 0 ∧ (v.phase t0 1).arrived ≠ 0 ∧ (v.phase t0 1).susp = none ∧
      (v.phase t0 1).kind ∉ [64 * 0x2D, 64 * 0x2D + 1] ∧ v.threads.find? (tkey (onLane t0 1)) ≠ none) ∧
    (∃ s1 : State, (solo []).memWriteBy t0 1200 64 (bytesOfWord 7) false = .ok () s1) ∧
    (∃ x, ∃ s1 : State, (solo []).memWriteBy t0 1200 66 (bytesOfWord 7) false = .stop (.trap x) s1) ∧
    (∃ b, ∃ s1 : State, (solo []).memRead t0 64 4 false = .ok b s1) ∧
    (∃ x, ∃ s1 : State, (solo []).memRead t0 66 4 false = .stop (.trap x) s1) ∧
    (∃ sub, ∃ s1 : State, (solo []).memRead t0 0x80000000 4 false = .stop (.page 0x80000000 sub .read) s1 ∧ s1.tokens = []) ∧
    (∃ sub, ∃ s1 : State, (solo []).memWriteBy t0 1200 0x80000000 (bytesOfWord 7) false = .stop (.page 0x80000000 sub .write) s1) := by
  refine ⟨by decide +kernel, by decide +kernel, ⟨_, rfl⟩, ⟨_, _, rfl⟩, ⟨_, _, rfl⟩, ⟨_, _, rfl⟩, ⟨_, _, rfl, rfl⟩, ⟨_, _, rfl⟩⟩
theorem witness_StreamsAndReleases :
    (let s := masked [(1, { arrived := 3, kind := 64 * 0x2D })]
     s.readK t0 1 ≠ 0 ∧ s.readK t0 1 &&& ~~~(s.phase t0 1).arrived = 0 ∧ (s.phase t0 1).arrived ≠ 0 ∧ (s.phase t0 1).susp = none ∧
     (s.phase t0 1).kind ∈ [64 * 0x2D, 64 * 0x2D + 1]) ∧
    (let w := { thr 0 [] with status := .parked (.waitk 2) }
     let c := { thr 1 [] with status := .parked (.phase 1), second := some (.parked (.waitk 2)) }
     let s := run [] tsk w c
     s.readK t0 2 = 0 ∧ (s.phase t0 2).arrived = 0 ∧ s.threads.find? (tkey w.ref) = some w ∧ s.threads.find? (tkey c.ref) = some c ∧
     w.tid / 32 = t0.tid / 32 ∧ c.tid / 32 = t0.tid / 32) ∧
    (let k : Token := ⟨0, 0, 0x80000, .read⟩
     List.find? (fun (x : Nat × Token) => x.2 == k) ({ solo [] with tokens := [(5, k)] } : State).tokens = some (5, k)) := by
  decide +kernel
theorem witness_AccessChecks :
    let x := fun (a : Nat) => ((solo []).translate (.core 0) 0 a .read).1
    x 8 = .ok 8 false ∧ (∃ n, x (2 ^ 31) = .page n) ∧
    (∃ n, (({ solo [] with tlbs := [(0, [(0, 0, ⟨12, 0, false, false, false, false, false⟩)])] } : State).translate
      (.core 0) 0 8 .read).1 = .prot n) := ⟨rfl, ⟨_, rfl⟩, ⟨_, rfl⟩⟩
/-- A word of format M: D g4, A g0, no offset. -/
def fm (sz : BitVec 3) : FmtM := ⟨false, false, 4, 0, false, sz, 0, 0⟩
/-- Word 16 stands in the L1 of core 0. -/
def cached (st : L1St) (regs : List (Nat × Word)) : State := { solo regs with l1 := [(16, ⟨st, 5⟩)] }
theorem hits_cached (s : State) (h : s.l1? 0 16 = some ⟨.own, 5⟩ ∧ s.slices = []) (a : Bool) : Hits s 0 16 (hitStates a) :=
  ⟨⟨_, h.1, by cases a <;> decide⟩, fun e he => by simp [State.slice?, h.2] at he⟩
theorem witness_Loads :
    let s := solo [(0, 64)]
    Lone s t0 (thr 0 [(0, 64)]) ∧
    (∃ l s1, s.locate t0 (ea (fm 4) (s.readPair t0 0)) 4 .read = .ok l s1 ∧ l.host = false ∧ s1.poisoned l.pa = false ∧ Quiet s1) ∧
    (∃ l s1, s.locate t0 0x40000040 4 .read = .ok l s1 ∧ l.host = true ∧ s1.l1 = []) ∧
    (∃ l s1, (cached .own [(0, 64)]).locate t0 64 4 .read = .ok l s1 ∧ l.host = false ∧ s1.poisoned l.pa = false ∧
      l.pa = 64 ∧ Hits s1 0 16 (hitStates false)) ∧ NoHostWrites s 0 ∧
    spmOff (fm 6) 4080 % 16 = 0 ∧ spmOff (fm 6) 4080 + 16 ≤ (s.task 1).spmSize := by
  refine ⟨⟨rfl, rfl, rfl⟩, ⟨_, _, rfl, rfl, rfl, rfl, rfl, rfl, rfl, rfl⟩, answers (by decide +kernel),
    ⟨_, _, rfl, rfl, rfl, rfl, hits_cached _ (by decide +kernel) _⟩, ?_, by decide +kernel, by decide +kernel⟩
  intro w h; cases h
/-- An acquire has no store of a part of a word to wait for, or has one (R58, R122). -/
theorem witness_Acquires : NoNarrow (cached .own []) 0 ∧
    (let r : Reg := { word := 16, mask := 1, accepted := false, puts := [] }
     ¬NoNarrow { solo [] with regq := [(0, [r])] } 0) ∧ pair.actor = .lanes [t0, t1] := by
  refine ⟨?_, ?_, rfl⟩ <;> unfold NoNarrow <;> decide +kernel
theorem witness_Stores :
    let s := solo [(0, 64)]
    Lone s t0 (thr 0 [(0, 64)]) ∧ (fm 4).sz ≠ 7 ∧ (fm 4).ord ≠ 2 ∧
    (∃ l s1, s.locate t0 (ea (fm 4) (s.readPair t0 0)) 4 .write = .ok l s1 ∧ l.host = false ∧ l.pa % 4 = 0 ∧ s.fencedSlices = [] ∧
      (∀ i < 4, (s1.l1? (s.coreOf t0) ((l.pa + i) / 4)).map L1Word.st ≠ some .par) ∧ (s1.l1Lines 0 (l.pa / 256)).length < 8) ∧
    (∃ l s1, s.locate t0 0x40000040 4 .write = .ok l s1 ∧ l.host = true ∧ s1.hostq = [] ∧ s1.regq = []) ∧
    spmOff (fm 6) 4080 % 16 = 0 ∧ spmOff (fm 6) 4080 + 16 ≤ (s.task 1).spmSize :=
  ⟨⟨rfl, rfl, rfl⟩, by decide, by decide, ⟨_, _, rfl, rfl, rfl, rfl, by decide +kernel, by decide +kernel⟩, answers (by decide +kernel),
    by decide +kernel, by decide +kernel⟩
theorem witness_AccessTraps :
    let s := solo [(0, 4082)]
    Lone s t0 (thr 0 [(0, 4082)]) ∧ spmOff (fm 4) (s.readG t0 0) % 4 ≠ 0 ∧
    (spmOff (fm 4) 4096 % 4 = 0 ∧ (s.task 1).spmSize < spmOff (fm 4) 4096 + 4) ∧ (s.task 1).access = false ∧
    (∃ r s1, s.locate t0 (ea (fm 4) (s.readPair t0 0)) 4 .read = .stop r s1) ∧
    (∃ r s1, s.locate t0 (ea (fm 4) (s.readPair t0 0)) 4 .write = .stop r s1) ∧
    (∃ r s1, s.locate t0 0x80000000 4 .atomic = .stop r s1) ∧
    (∃ l s1, s.locate t0 0x40000040 4 .atomic = .ok l s1 ∧ l.host = true) ∧
    (∃ l s1, (s.poison 256).locate t0 256 4 .read = .ok l s1 ∧ l.host = false ∧ s1.poisoned l.pa = true) ∧
    (run [t0] { tsk with access := true } (thr 0 []) (thr 1 [])).task 1 ≠ s.task 1 :=
  ⟨⟨rfl, rfl, rfl⟩, by decide +kernel, by decide +kernel, rfl, ⟨_, _, rfl⟩, ⟨_, _, rfl⟩, ⟨_, _, rfl⟩, answers (by decide +kernel),
    answers (by decide +kernel), by decide +kernel⟩
theorem witness_Atomics :
    let s := solo [(0, 64)]
    Lone s t0 (thr 0 [(0, 64)]) ∧ atomWords ≠ [] ∧ atomsWords ≠ [] ∧ redsWords ≠ [] ∧
    (∃ l s1, s.locate t0 (s.readPair t0 0) 8 .atomic = .ok l s1 ∧ l.host = false ∧ s1.poisoned l.pa = false ∧ Quiet s1) ∧
    (∃ l s1, s.locate t0 0x40000040 8 .atomic = .ok l s1 ∧ l.host = true) ∧
    (∃ l s1, (cached .own [(0, 64)]).locate t0 64 4 .atomic = .ok l s1 ∧ l.host = false ∧ s1.poisoned l.pa = false ∧ s1.fencedSlices = [] ∧
      s1.l1 = [(16, ⟨.own, 5⟩)]) ∧
    (∃ o, newWord 32 .cas o 1 2 = none) ∧ (s.readG t0 0).toNat % 4 = 0 ∧ (s.readG t0 0).toNat + 4 ≤ (s.task 1).spmSize :=
  ⟨⟨rfl, rfl, rfl⟩, by simp [atomWords], by simp [atomsWords], by simp [redsWords],
    ⟨_, _, rfl, rfl, rfl, rfl, rfl, rfl, rfl, rfl⟩, answers (by decide +kernel), answers (by decide +kernel), ⟨0, by decide⟩,
    by decide +kernel, by decide +kernel⟩
/-- Core 0 holds a partial of word 16, under ADD. -/
def partialHeld : State :=
  { cached .par [(0, 64)] with slices := [(sliceKey 0 0, { st := .u, holders := 1 })],
                               metas := [(0, ({ st := .u, sharers := 1 } : Meta).pack)] }
theorem witness_Reductions :
    let s := solo [(0, 64)]
    Lone s t0 (thr 0 [(0, 64)]) ∧ redWords ≠ [] ∧
    (∃ l s1, s.locate t0 (s.readPair t0 0) 8 .atomic = .ok l s1 ∧ l.host = false ∧ s1.poisoned l.pa = false ∧ l.pa % 8 = 0 ∧ Quiet s1) ∧
    (∃ l s1, partialHeld.locate t0 64 4 .atomic = .ok l s1 ∧ l.host = false ∧ s1.poisoned l.pa = false ∧ l.pa = 64 ∧ s1.regq = [] ∧
      s1.hostq = [] ∧ s1.spills = [] ∧ s1.fencedSlices = [] ∧ (s1.lineMeta 0).hint = false ∧ (s1.lineMeta 0).uop.toNat = 0 ∧
      ((s1.slice? 0 0).map SliceLine.st = some .u) ∧ s1.partial? 0 0 0 16 false = some 5) ∧
    (∃ l s1, (s.poison 64).locate t0 64 4 .atomic = .ok l s1 ∧ l.host = false ∧ s1.poisoned l.pa = true) ∧
    (∃ l s1, s.locate t0 0x40000040 4 .atomic = .ok l s1 ∧ l.host = true) ∧ s.collect = none :=
  ⟨⟨rfl, rfl, rfl⟩, by simp [redWords], ⟨_, _, rfl, rfl, rfl, rfl, rfl, rfl, rfl, rfl, rfl⟩, answers (by decide +kernel),
    answers (by decide +kernel), answers (by decide +kernel), rfl⟩
/-- A launch of one channel between its stage and itself, with these entries. -/
def channel (c : Chan) (a b : Thread) : State :=
  { run [t0] tsk a b with
    launches := [(1, { lseq := 1, rcd := { nchan := 1, chmap := [(0, 0)], poruf := true }, chans := [(0, c)] })] }
/-- A full queue. -/
def full : Chan := { entries := List.replicate 32 [1] }
theorem witness_Channels :
    let s := channel { entries := [[5]] } (thr 0 []) (thr 1 [])
    let v := channel { entries := [[5]] } (thr 0 []) { thr 1 [] with status := .parked (.ldq 16 1 4 0) }
    let w := channel {} (thr 0 []) { thr 1 [] with status := .parked (.stq 16 [9] 0) }
    Lone s t0 (thr 0 []) ∧ (∃ L, s.launches.find? 1 = some L ∧ 0 < L.rcd.nchan ∧ (L.chan 0).entries = [[5]] ∧
      (L.rcd.chmap[0]?).map Prod.snd = some (s.task 1).stage ∧ (L.rcd.chmap[0]?).map Prod.fst = some (s.task 1).stage) ∧
    (∀ th' ∈ s.threads.map Prod.snd, th'.status = .ready) ∧
    (((channel {} (thr 0 []) (thr 1 [])).launchOf 1).chan 0).entries = [] ∧ 32 ≤ full.entries.length ∧
    (v.chanWaiter 1 16 false).map Thread.status = some (.parked (.ldq 16 1 4 0)) ∧
    (w.chanWaiter 1 16 true).map Thread.status = some (.parked (.stq 16 [9] 0)) ∧
    (s.launchOf 1).rcd.chmap[1]? = none ∧ ({ full with overflowing := true } : Chan).entries.length < 32 + 1024 ∧
    ∃ L, (channel full (thr 0 []) (thr 1 [])).launches.find? 1 = some L ∧ L.rcd.poruf = true ∧ 32 ≤ (L.chan 0).entries.length ∧
      (L.chan 0).overflowing = false :=
  ⟨⟨rfl, rfl, rfl⟩, ⟨_, rfl, by decide, rfl, rfl, rfl⟩, by decide +kernel, rfl, by decide, rfl, rfl, rfl, by decide, ⟨_, rfl, rfl, by decide, rfl⟩⟩
theorem witness_ChannelService :
    let x := fun (n : Nat) (o : Bool) =>
      channel { entries := List.replicate n [1], overflowing := o } (thr 0 []) { thr 1 [] with status := .parked (.stq 16 [9] 0) }
    let served := fun (n : Nat) (o : Bool) => ((x n o).chanWaiter 1 16 true).map Thread.status = some (.parked (.stq 16 [9] 0)) ∧
      ((x n o).chanWaiter 1 16 false).isNone = true ∧ (((x n o).launchOf 1).chan 0).entries.length = n
    served 31 false ∧ served 32 true ∧ served 32 false ∧ (32 : Nat) < 32 + 1024 := by
  decide +kernel
theorem witness_Monitors :
    let s := { solo [(0, 64)] with mem := [(64, 7)] }
    let p := run [] tsk { thr 0 [] with status := .parked (.mwait 1200 64 true 0 4 false) } { thr 1 [] with status := .parked (.sigw 1200 64 9 4) }
    Lone s t0 (thr 0 [(0, 64)]) ∧ (∃ v s1, s.mwaitRead t0 64 = .ok v s1 ∧ v = 7) ∧ (∃ v s1, s.sigwRead t0 64 = .ok v s1 ∧ v = 7) ∧
    (p.task 1).status = .resident ∧ (∃ v s1, p.mwaitRead t0 64 = .ok v s1 ∧ v = 0) ∧ (∃ v s1, p.sigwRead t1 64 = .ok v s1 ∧ v = 0) ∧
    (∃ l s1, s.locate t0 0x40000040 8 .atomic = .ok l s1 ∧ l.host = true) ∧
    (∃ l s1, (s.poison 64).locate t0 64 8 .atomic = .ok l s1 ∧ l.host = false ∧ s1.poisoned l.pa = true) ∧
    (∃ l s1, (s.poison 64).locate t0 64 8 .read = .ok l s1 ∧ l.host = false ∧ s1.poisoned l.pa = true) ∧
    (∃ l s1, s.locate t0 64 8 .read = .ok l s1 ∧ l.host = false ∧ Quiet s1) ∧
    (∃ l s1, s.locateVia (.core 0) 0 64 8 .atomic = .ok l s1 ∧ l.host = false ∧ Quiet s1) ∧
    (∃ l s1, ({ s with l1 := [(16, ⟨.own, 5⟩), (17, ⟨.own, 6⟩)] } : State).locate t0 64 8 .read = .ok l s1 ∧ l.host = false ∧
      l.pa = 64 ∧ s1.l1 = [(16, ⟨.own, 5⟩), (17, ⟨.own, 6⟩)] ∧ s1.slices = [] ∧ s1.poisoned l.pa = false) ∧
    (∃ l s1, s.locate t0 0x40000040 8 .read = .ok l s1 ∧ l.host = true ∧ s1.l1 = []) :=
  by
    refine ⟨⟨rfl, rfl, rfl⟩, ?_, ?_, rfl, ?_, ?_, ?_, ?_, ?_, ⟨_, _, rfl, rfl, rfl, rfl, rfl, rfl, rfl⟩,
      ⟨_, _, rfl, rfl, rfl, rfl, rfl, rfl, rfl⟩, ?_, ?_⟩ <;>
    exact answers (by decide +kernel)
theorem witness_MonitorStops :
    let p := fun (va : DWord) => run [] tsk { thr 0 [] with status := .parked (.mwait 1200 va true 0 4 false) }
      { thr 1 [] with status := .parked (.sigw 1200 va 9 4) }
    (∃ s1, (p 66).mwaitRead t0 66 = .stop (.trap { code := 2, sub := 0, va := 66 }) s1) ∧
    (∃ sub k s1, (p 0x80000000).mwaitRead t0 0x80000000 = .stop (.page 0x80000000 sub k) s1) ∧
    (∃ sub k s1, (p 0x80000000).sigwRead t1 0x80000000 = .stop (.page 0x80000000 sub k) s1) ∧
    (∃ r s1, ({ p 0x40001000 with atc := [] } : State).sigwRead t1 0x40001000 = .stop (.retry r) s1) :=
  ⟨⟨_, rfl⟩, ⟨_, _, _, rfl⟩, ⟨_, _, _, rfl⟩, ⟨_, _, rfl⟩⟩
/-- A layout state of sixteen elements in memory, by the unit matrix. -/
def lay : Layout := { lseq := 1, va := 0, asid := 0, stage := 0, rcd := { n := 4, ext := [16] }, mat := [1, 2, 4, 8] }
/-- The first thread alone; handles 3 and up of its task name these layout states. -/
def tens (ls : List Layout) (regs : List (Nat × Word)) : State :=
  { run [t0] { tsk with handles := ls.zipIdx.map (fun e => (e.2 + 3, e.2 + 7)) } (thr 0 regs) (thr 1 []) with
    layouts := ls.zipIdx.map (fun e => (e.2 + 7, e.1)) }
theorem witness_TensorRecords :
    let s := tens [lay, { lay with inflight := true }] [(0, 15), (6, 3)]
    Lone s t0 (thr 0 [(0, 15), (6, 3)]) ∧ Names s t0 (s.readG t0 6).toNat 7 lay ∧ lay.rcd.n ≤ 48 ∧
    ((∀ j < 4, (lay.cur.getD j 0).toNat < 2 ^ 4) ∧ (s.readPair t0 0).toNat < 2 ^ 4 ∧
    (s.readPair t0 0).toNat = applied lay.cur 4 15 ∧ (invert lay.cur 4).isSome = true ∧
    63 < ((tens [] [(6, 64)]).readG t0 6).toNat ∧ ((tens [] [(6, 63)]).task 1).handles.find? 63 = none) ∧
    (∃ l, Names s t0 4 8 l ∧ l.inflight = true) ∧ 2 ^ 4 ≤ ((tens [lay] [(0, 16)]).readPair t0 0).toNat ∧
    (let far := { lay with rcd := { lay.rcd with base := 0x80000000, peerb := 1 } }
     let sp := { lay with rcd := { lay.rcd with spm := true } }
     let gone := run [t0] { tsk with status := .saved } (thr 0 []) (thr 1 [])
     ({ lay.rcd with etype := 14 }.etype = 14 ∧ lay.rcd.etype ≠ 14 ∧ lay.rcd.esize = 4 ∧ { lay with broken := true }.broken = true ∧
     lay.broken = false ∧ { lay.rcd with ext := [12], strict := true }.phantom 15 = true ∧ lay.rcd.phantom 15 = false ∧
     s.unitTask { sp with stage := 3 } 0 = none ∧ (gone.unitTask sp 0).map Task.status = some .saved ∧
     (s.unitTask sp 0).map Task.status = some .resident ∧ (2 + applied lay.cur 4 15 % 2 ^ 4 * 4) % 4 ≠ 0 ∧
     (4092 + applied lay.cur 4 15 % 2 ^ 4 * 4) % 4 = 0 ∧ (s.task 1).spmSize < 4092 + applied lay.cur 4 15 % 2 ^ 4 * 4 + 4 ∧
     applied lay.cur 4 15 / 2 ^ (4 - 1) ≠ s.memberOf far ∧ applied lay.cur 4 0 / 2 ^ (4 - 1) = s.memberOf far) ∧
     (∃ r s1, s.locate t0 0x80000000 4 .read = .stop r s1) ∧ ∃ r s1, s.locate t0 0x80000000 4 .write = .stop r s1) :=
  ⟨⟨rfl, rfl, rfl⟩, ⟨by decide +kernel, rfl, rfl⟩, by decide, by decide +kernel, ⟨_, ⟨by decide, rfl, rfl⟩, rfl⟩,
    by decide +kernel, by decide +kernel, ⟨_, _, rfl⟩, ⟨_, _, rfl⟩⟩
/-- A tensor record: sixteen words of 32 bits in memory, by the unit matrix (R148). -/
def recordBytes : Memory := [(0, 4), (1, 1), (2, 4), (8, 16), (128, 1), (136, 2), (144, 4), (152, 8)]
theorem witness_TensorAccess :
    let l := lay
    let ph := { lay with rcd := { lay.rcd with ext := [12], fill := true } }
    let trim := { lay with rcd := { lay.rcd with ext := [12], trim := true } }
    let sp := { lay with rcd := { lay.rcd with spm := true } }
    let s := tens [l, sp] [(0, 15), (6, 3)]
    Lone s t0 (thr 0 [(0, 15), (6, 3)]) ∧ Names s t0 3 7 l ∧ l.inflight = false ∧ l.broken = false ∧ l.rcd.etype ≠ 14 ∧ l.rcd.esize = 4 ∧
    (ph.rcd.phantom 15 = true ∧ ph.rcd.strict = false ∧ ph.rcd.fill = true) ∧
    (trim.rcd.phantom 12 = true ∧ trim.rcd.fill = false ∧ trim.rcd.trim = true) ∧
    (l.rcd.phantom 15 = false ∧ applied l.cur 4 15 / 2 ^ 4 = s.memberOf l) ∧
    (∃ b s1, s.memRead t0 60 4 false = .ok b s1 ∧ b.length = 4) ∧
    (∃ u s1, s.memWrite t0 60 [1, 2, 3, 4] false = .ok u s1 ∧ u = ()) ∧
    (∃ z, s.unitTask sp 0 = some z ∧ z.status ≠ .saved ∧ 60 + 4 ≤ (s.task z.age).spmSize) ∧
    (∃ b s1, ({ tens [] [] with mem := recordBytes } : State).memReadRun t0 0 16 32 = .ok b s1 ∧
      ∃ r m, s1.tdefCheck 1 3 0 b = (0, some (r, m)) ∧ r.coreb = 0) ∧
    (∃ b s1, (tens [] []).memReadRun t0 0 16 32 = .ok b s1 ∧ TRec.parse b = none) ∧
    s.opsOn 7 = 0 ∧ (∀ y ∈ (s.dropHandle 1 3).tasks, ∀ e ∈ y.2.handles, e.2 ≠ 7) := by
  refine ⟨⟨rfl, rfl, rfl⟩, ⟨by decide, rfl, rfl⟩, rfl, rfl, by decide, rfl, by decide +kernel, by decide +kernel, by decide +kernel,
    answers (by decide +kernel), answers (by decide +kernel), ⟨_, rfl, by decide, by decide⟩, ?_, answers (by decide +kernel), rfl,
    by decide +kernel⟩
  obtain ⟨b, s1, h, g⟩ := answers (P := fun b (s1 : State) => ((s1.tdefCheck 1 3 0 b).1 = 0 ∧
    ((s1.tdefCheck 1 3 0 b).2.any (fun e => decide (e.1.coreb = 0))) = true))
    (r := ({ tens [] [] with mem := recordBytes } : State).memReadRun t0 0 16 32) (by decide +kernel)
  obtain ⟨rm, e, p⟩ := (Option.any_eq_true _ _).mp g.2
  exact ⟨b, s1, h, rm.1, rm.2, Prod.ext g.1 e, of_decide_eq_true p⟩
/-- A word of format T: H g8, A g4, B g6. -/
def ft : FmtT := ⟨false, false, 8, 4, 6⟩
/-- A memory that holds these doublewords from an address. -/
def dwords (at_ : Nat) (q : List Nat) : Memory :=
  ((q.flatMap (bytesOfNat 8)).zipIdx.map (fun e => (at_ + e.2, e.1))).filter (fun e => e.2 ≠ 0)
/-- The tensors `ls` on handles 3 and up, and the command record q at offset 0 of scratchpad, which g8 names. -/
def commanded (ls : List Layout) (q : List Nat) (rows : List Nat) : State :=
  { run [t0] { tsk with handles := ls.zipIdx.map (fun e => (e.2 + 3, e.2 + 7)), spm := dwords 0 q ++ dwords 1024 rows } (thr 0 [])
      (thr 1 []) with
    layouts := ls.zipIdx.map (fun e => (e.2 + 7, e.1)) }
theorem commands (ls : List Layout) (q rows : List Nat)
    (h : cmd (commanded ls q rows) t0 ft = q ∧ ((commanded ls q rows).readG t0 8).toNat = 0 ∧ ((commanded ls q rows).task 1).spmSize = 4096) :
    Commanded (commanded ls q rows) t0 (thr 0 []) ft q 64 := by
  obtain ⟨h, r, n⟩ := h
  have r' : ((commanded ls q rows).readG t0 ft.h.toNat).toNat = 0 := r
  have n' : ((commanded ls q rows).task t0.task).spmSize = 4096 := n
  refine ⟨⟨rfl, rfl, rfl⟩, rfl, ?_, h, ?_⟩ <;> simp [InSpm, r', n']
/-- Sixteen elements of a type at an address. -/
def vec (etype base : Nat) : Layout := { lay with rcd := { n := 4, ext := [16], etype := etype, base := base } }
theorem apart_vec : Unshared (vec 17 0) (vec 17 4096) ∧ Unshared (vec 17 8192) (vec 17 4096) := by
  simp only [Unshared, OneLevel, Disjoint_]; decide +kernel
theorem witness_EngineStarts :
    (let s := commanded [] [1] []
     engineWords ≠ [] ∧ InSpm s t0 0 64 ∧ (cmd s t0 ft).getD 0 0 % 256 ≠ 2 ∧ ((tens [] [(8, 32)]).readG t0 8).toNat % 64 ≠ 0 ∧
     ((tens [] [(8, 4096)]).task 1).spmSize < ((tens [] [(8, 4096)]).readG t0 8).toNat + 64) ∧
    (let q := [2 + 2 ^ 8 * b2n false + 2 ^ 9 * b2n false + 2 ^ 10 * b2n false + 2 ^ 11 * b2n true + 2 ^ 32 * 64,
      3 + 2 ^ 8 * 4 + 2 ^ 16 * 15 + 2 ^ 24 * 0, 255, 0, 0, 0, 0, 0]
     let d := { vec 4 4096 with rcd := { (vec 4 4096).rcd with spm := true } }
     let s := commanded [vec 4 0, d] q []
     Commanded s t0 (thr 0 []) ft q 64 ∧ Names s t0 3 7 (vec 4 0) ∧ Names s t0 4 8 d ∧ Whole d ∧ Measured d.rcd ∧
     CopyFits (vec 4 0).rcd d.rcd false false true 0 0 ∧ Apart (vec 4 0) d ∧ s.engines = []) ∧
    (let q := [4 + 2 ^ 8 * b2n true + 2 ^ 32 * 64, 3 + 2 ^ 8 * 5 + 2 ^ 16 * 4, 2 + 2 ^ 32 * 16, 1 + 2 ^ 32 * 0, 0, 0, 0, 0]
     let s := commanded [vec 17 0, vec 17 4096, vec 17 8192] q []
     Commanded s t0 (thr 0 []) ft q 64 ∧ Names s t0 3 7 (vec 17 0) ∧ Names s t0 4 8 (vec 17 4096) ∧ Names s t0 5 9 (vec 17 8192) ∧
     Unshared (vec 17 0) (vec 17 4096) ∧ Unshared (vec 17 8192) (vec 17 4096) ∧ Measured (vec 17 4096).rcd) ∧
    (∀ e ∈ [(1, 4, 4, 4, 16), (2, 4, 4, 0, 16), (3, 4, 4, 0, 16), (4, 11, 4, 4, 16), (5, 0, 3, 4, 16)],
     let q := [5 + 2 ^ 32 * 64, e.1 + 2 ^ 8 * 4 + (if e.1 = 1 then 0 else 2 ^ 16 * 3) + (if e.1 = 2 ∨ e.1 = 3 then 2 ^ 24 * 5 else 0), 9,
       0 + 2 ^ 32 * e.2.2.2.2, 0 + 2 ^ 32 * 511, 0, 0, 0]
     cmd (commanded [vec e.2.1 0, vec e.2.2.1 4096, vec e.2.2.2.1 8192] q []) t0 ft = q) := by
  refine ⟨⟨by simp [engineWords], ⟨by rfl, by decide +kernel⟩, by decide +kernel, by decide +kernel, by decide +kernel⟩,
    ⟨commands _ _ _ (by decide +kernel), ⟨by decide, rfl, rfl⟩, ⟨by decide, rfl, rfl⟩, ⟨rfl, rfl⟩, ?_, ?_, ?_, rfl⟩,
    ⟨commands _ _ _ (by decide +kernel), ⟨by decide, rfl, rfl⟩, ⟨by decide, rfl, rfl⟩, ⟨by decide, rfl, rfl⟩,
      apart_vec.1, apart_vec.2, ?_⟩, by decide +kernel⟩
  · unfold Measured; decide +kernel
  · unfold CopyFits; decide +kernel
  · simp only [Apart, Unshared, OneLevel, Disjoint_]; decide +kernel
  · unfold Measured; decide +kernel
/-- A matrix of a type at an offset of scratchpad. -/
def mat (etype m n bits base : Nat) : Layout := { lay with rcd := { rank := 2, n := bits, ext := [m, n], etype := etype, base := base, spm := true } }
theorem witness_RemapAndMatrixStarts :
    (let l := { vec 4 0 with rcd := { (vec 4 0).rcd with sv := true, stage := 4096 } }
     let q := [3 + 2 ^ 32 * 64, 3, 2 ^ 63 + 1024, 0, 0, 0, 0, 0]
     let s := commanded [l] q [2, 1, 4, 8]
     Commanded s t0 (thr 0 []) ft q 64 ∧ Names s t0 3 7 l ∧ Whole l ∧ s.engines = [] ∧ { l with stepping := true }.stepping = true ∧
     (∃ b, Table_ s t0 (2 ^ 63 + 1024) 64 16 24 b s ∧ (∀ j < 48, dword b j < if j < 4 then 2 ^ 4 else 1) ∧
       let m2 := (List.range 4).map (fun j => BitVec.ofNat 48 (dword b j))
       l.rcd.trimOk m2 = true ∧ (invert m2 4).isSome = true)) ∧
    (let a := mat 6 16 16 8 0
     let b := mat 6 16 16 8 4096
     let c := mat 4 16 16 8 8192
     let q := [6 + 2 ^ 8 * b2n true + 2 ^ 9 * 1 + 2 ^ 32 * 64, 3 + 2 ^ 8 * 4 + 2 ^ 16 * 5, 0, 0, 0, 0, 0, 0]
     let s := commanded [a, b, c] q []
     Commanded s t0 (thr 0 []) ft q 64 ∧ Names s t0 3 7 a ∧ Names s t0 4 8 b ∧ Names s t0 5 9 c ∧ MayLease s 0 1 ∧
     Apart a c ∧ Apart b c) ∧
    (let s := tens [] [(4, 0), (5, 64), (6, 64), (8, 1024)]
     Lone s t0 (thr 0 [(4, 0), (5, 64), (6, 64), (8, 1024)]) ∧ (s.readG t0 5).toNat + (s.readG t0 6).toNat ≤ (s.task 1).spmSize ∧
     InSpm s t0 (s.readG t0 8).toNat 32 ∧ (s.launches.find? 1).isSome = true) ∧
    (let q := [7, 3, 2 ^ 63 + 1024, 1, 0, 0, 0, 0]
     let s := commanded [vec 11 0] q [0]
     cmd s t0 ft = q ∧ InSpm s t0 0 64 ∧ Names s t0 3 7 (vec 11 0) ∧ s.engines = [] ∧
     ∃ b, Table_ s t0 (2 ^ 63 + 1024) 8 8 1 b s ∧ dword b 0 = 0) := by
  refine ⟨⟨commands _ _ _ (by decide +kernel), ⟨by decide, rfl, rfl⟩, ⟨rfl, rfl⟩, rfl, rfl, _,
      Or.inl ⟨1024, by decide, by decide, by decide, by decide, rfl, rfl⟩, by decide +kernel, by decide +kernel⟩,
    ⟨commands _ _ _ (by decide +kernel), ⟨by decide, rfl, rfl⟩, ⟨by decide, rfl, rfl⟩, ⟨by decide, rfl, rfl⟩, Or.inl rfl, ?_, ?_⟩,
    ⟨⟨rfl, rfl, rfl⟩, by decide +kernel, ⟨by decide +kernel, by decide +kernel⟩, rfl⟩,
    ⟨by decide +kernel, ⟨by rfl, by decide +kernel⟩, ⟨by decide, rfl, rfl⟩, rfl, _,
      Or.inl ⟨1024, by decide, by decide, by decide, by decide, rfl, rfl⟩, by decide +kernel⟩⟩ <;>
  · simp only [Apart, Unshared, OneLevel, Disjoint_]; decide +kernel
/-- The operation of a kind that thread 0 has started. -/
def opOf (k : EngKind) (stop : Nat) : EngineOp :=
  { kind := k, task := 1, tid := 0, pc := 1200, lseq := 1, num := 0, asid := 0, func := 0, core := 0, bar := none, remain := 0, prog := 0,
    stop := stop }
/-- It runs, on the tensors `ls`. -/
def engaged (ls : List Layout) (o : EngineOp) : State := { tens ls [] with engines := [(1, o)], nextEngine := 2 }
/-- Sixteen elements of a type at an offset of scratchpad. -/
def vecS (etype base : Nat) : Layout := { vec etype base with rcd := { (vec etype base).rcd with spm := true } }
/-- At its last action an operation has nothing to translate ahead. -/
theorem walkAhead_last (s : State) (o : EngineOp) (l : Layout) (xs : Nat → List Nat) (h : ∀ n, xs (n + 1) = []) :
    s.walkAhead o l xs = s := by
  have e : ∀ q : List Nat, q.foldl (fun (s : State) (_ : Nat) => s) s = s := by
    intro q; induction q with
    | nil => rfl
    | cons _ _ ih => exact ih
  simp only [State.walkAhead, h, List.map_nil, List.eraseDups_nil, List.foldl_nil, e, ite_self]
/-- A decode of scratchpad tensors by a table of one entry. -/
def decoding (e : Nat) (o : EngineOp) : State := engaged [vecS 0 0, { vecS 11 1024 with table := [BitVec.ofNat 64 e] }] o
/-- One element of a copy. -/
def copyOne (o : EngineOp) (a d : Layout) (s : State) (x : Nat) : Res (Option (Place × List Byte)) :=
  (s.copyValue o a d false (o.prog2 == 2) x).andThen (fun v s => match v with
    | none => Res.ok none s
    | some b => (s.copyDest o d false (if o.prog2 = 1 then d.rcd.stage else d.rcd.base) x).andThen (fun q s => .ok (some (q, b)) s))
/-- The copy whose source is not mapped. -/
def unmapped : EngineOp := opOf (.tcopy 7 8 true false false false 0 0 255 0) 1
theorem page_suspends : ∃ va sub s1, eachOf (copyOne unmapped (vec 4 0x80000000) (vec 4 4096)) (chunk (vec 4 4096) false 0)
    ((engaged [vec 4 0x80000000, vec 4 4096] unmapped).engineAhead unmapped) = .stop (.page va sub .read) s1 := by
  simp only [State.engineAhead, unmapped, opOf]
  rw [walkAhead_last, walkAhead_last]
  · exact faults (by decide +kernel)
  · intro n; simp
  · intro n; simp
theorem witness_EngineProgress :
    (tens [] []).engines.find? 1 = none ∧
    (∃ o, (engaged [] { opOf (.fill 7 9) 16 with susp := some (1, { code := 1, sub := 1 }) }).engines.find? 1 = some o ∧ o.susp ≠ none) ∧
    (let o := opOf (.fill 7 9) 16
     let s := engaged [vecS 4 0] o
     s.engines.find? 1 = some o ∧ Runs s o ∧ (vecS 4 0).rcd.trim = false ∧
     (∃ p v, (s.engineAhead o).elementDest o (vecS 4 0) (vecS 4 0).cur 0 = .ok p v ∧ v.engines = s.engines) ∧
     { (vec 4 0).rcd with ext := [0], trim := true }.phantom 0 = false ∧ { (vec 4 0).rcd with ext := [12], trim := true }.phantom 15 = true) ∧
    (let o := opOf (.gather 7 8 9) 16
     let s := engaged [vecS 4 0, vecS 4 1024, vecS 0 2048] o
     Runs s o ∧ (∃ b v, (s.engineAhead o).elementLoad o (vecS 0 2048) (vecS 0 2048).cur 0 = .ok b v ∧ b.length = 4 ∧ v.engines = s.engines ∧
       0 ≤ integer 0 4 (natOfBytes b) ∧ integer 0 4 (natOfBytes b) < 2 ^ 4 ∧
       (match v.elementLoad o (vecS 4 1024) (vecS 4 1024).cur (integer 0 4 (natOfBytes b)).toNat with
        | .ok _ _ => true
        | .stop _ _ => false) = true) ∧ ((-1 : Int) < 0)) ∧
    (let o := opOf (.undelta 7 8 5) 16
     let s := engaged [vecS 0 0, vecS 11 1024] o
     Runs s o ∧ ∃ b v, (s.engineAhead o).elementLoad o (vecS 11 1024) (vecS 11 1024).cur 0 = .ok b v ∧ b.length = 1) ∧
    (let o := opOf (.tmerge 7 8 9 true 2 2) 0
     let s := engaged [vecS 17 0, vecS 17 1024, vecS 17 2048] o
     Runs s o ∧ (∃ x s1, (s.engineAhead o).elementLoad o (vecS 17 0) (vecS 17 0).cur 0 = .ok x s1 ∧ s1 = s) ∧
     (∃ x s1, s.elementLoad o (vecS 17 1024) (vecS 17 1024).cur 0 = .ok x s1 ∧ s1 = s) ∧
     (∃ p s1, s.elementDest o (vecS 17 2048) (vecS 17 2048).cur 0 = .ok p s1 ∧ s1.engines = s.engines)) ∧
    (let o := opOf (.decode 7 8 0) 16
     let x := fun (e : Nat) => { vecS 11 1024 with table := [BitVec.ofNat 64 e] }
     let m := fun (e : Nat) => ((decoding e o).engineAhead o).matchEntry o (x e) 0 (x e).table
     Runs (decoding 0 o) o ∧ (∃ e s1, m 0 = .ok e s1 ∧ e = some 0 ∧ s1.engines = (decoding 0 o).engines) ∧
     (∃ e s1, m (2 ^ 20) = .ok e s1 ∧ e = some (2 ^ 20)) ∧ (∃ e s1, m (2 * 2 ^ 20) = .ok e s1 ∧ e = some (2 * 2 ^ 20)) ∧
     (∃ e s1, m (3 * 2 ^ 20) = .ok e s1 ∧ e = some (3 * 2 ^ 20)) ∧ (∃ e s1, m (1 + 2 ^ 4) = .ok e s1 ∧ e = none) ∧
     (∃ v s1, (decoding 0 o).peekBits o (x 0) 0 1 = .ok v s1 ∧ v < 2 ^ 1) ∧
     (∃ p s1, (decoding 0 o).elementDest o (vecS 0 0) (vecS 0 0).cur 0 = .ok p s1 ∧ s1.engines = (decoding 0 o).engines)) ∧
    (let o := opOf (.tcopy 7 8 true false false false 0 0 255 0) 1
     let one := fun (o : EngineOp) (a d : Layout) (s : State) (x : Nat) => (s.copyValue o a d false (o.prog2 == 2) x).andThen (fun v s => match v with
       | none => Res.ok none s
       | some b => (s.copyDest o d false (if o.prog2 = 1 then d.rcd.stage else d.rcd.base) x).andThen (fun q s => .ok (some (q, b)) s))
     let d := { vecS 4 1024 with rcd := { (vecS 4 1024).rcd with sv := true, stage := 2048 } }
     let s := engaged [vecS 4 0, d] o
     Runs s o ∧ (∃ ws s1, eachOf (one o (vecS 4 0) d) (chunk d false 0) (s.engineAhead o) = .ok ws s1 ∧ s1.engines = s.engines ∧ ws.length = 16) ∧
     (∃ ws s1, eachOf (one { o with prog2 := 1 } (vecS 4 0) d) (List.range (2 ^ 4)) (s.engineAhead { o with prog2 := 1 }) = .ok ws s1 ∧
       s1.engines = s.engines ∧ ws.length = 16) ∧
     (let m := engaged [vec 4 0x80000000, vec 4 4096] o
      ∃ va sub s1, eachOf (one o (vec 4 0x80000000) (vec 4 4096)) (chunk (vec 4 4096) false 0) (m.engineAhead o) = .stop (.page va sub .read) s1)) ∧
    (let o := opOf (.mxgo 7 8 9 false 1) 2
     let s := engaged [mat 6 1 129 8 0, mat 6 129 1 8 1024, mat 4 1 1 0 2048] o
     let at_ := fun (r0 rows c0 cols : Nat) => (List.range (rows * cols)).map (fun k => (r0 + k / cols, c0 + k % cols))
     Runs s o ∧ 0 + 1 < (129 + 127) / 128 ∧ 1 + 1 = (129 + 127) / 128 ∧ s.touched = [] ∧
     (∃ v s1, (s.mxgoAhead o 7 8 9).matrixLoad o (mat 6 1 129 8 0) (at_ 0 1 0 128) = .ok v s1 ∧ s1 = s) ∧
     (∃ v s1, s.matrixLoad o (mat 6 129 1 8 1024) (at_ 0 128 0 1) = .ok v s1 ∧ s1 = s) ∧
     (∃ v s1, (s.mxgoAhead { o with prog := 1 } 7 8 9).matrixLoad o (mat 6 1 129 8 0) (at_ 0 1 128 1) = .ok v s1 ∧ s1 = s) ∧
     (∃ v s1, s.matrixLoad o (mat 6 129 1 8 1024) (at_ 128 1 0 1) = .ok v s1 ∧ s1 = s) ∧
     (∃ ds s1, eachOf (fun (s : State) (p : Nat × Nat) => (s.elementDest o (mat 4 1 1 0 2048) (mat 4 1 1 0 2048).cur ((mat 4 1 1 0 2048).rcd.index2 p.1 p.2)).andThen
        fun q s => Res.ok (some q) s) (at_ 0 1 0 1) s = .ok ds s1 ∧ s1 = s)) := by
  refine ⟨rfl, ⟨_, rfl, by decide⟩, ⟨rfl, ⟨rfl, by decide, by decide⟩, rfl, ?_, by decide, by decide⟩,
    ⟨⟨rfl, by decide, by decide⟩, ?_, by decide⟩, ⟨⟨rfl, by decide, by decide⟩, ?_⟩, ⟨⟨rfl, by decide, by decide⟩, ?_, ?_, ?_⟩,
    ⟨⟨rfl, by decide, by decide⟩, ?_, ?_, ?_, ?_, ?_, ?_, ?_⟩, ⟨⟨rfl, by decide, by decide⟩, ?_, ?_, page_suspends⟩,
    ⟨⟨rfl, by decide, by decide⟩, by decide, by decide, rfl, ?_, ?_, ?_, ?_, ?_⟩⟩ <;>
  exact answers (by decide +kernel)
/-- One run of a merge is used up; a copy whose slots are staged; a multicast to a core without a task, to one too small and to
one that fits. -/
theorem witness_MergesAndMulticasts :
    (let o := { opOf (.tmerge 7 8 9 true 2 2) 0 with prog := 2 }
     let s := engaged [vecS 17 0, vecS 17 1024, vecS 17 2048] o
     Runs s o ∧ (o.prog < 2 ↔ 2 ≤ o.prog2) ∧ (∃ x s1, (s.engineAhead o).elementLoad o (vecS 17 1024) (vecS 17 1024).cur 0 = .ok x s1 ∧ s1 = s) ∧
     (∃ p s1, s.elementDest o (vecS 17 2048) (vecS 17 2048).cur 2 = .ok p s1 ∧ s1.engines = s.engines)) ∧
    (let o := { opOf (.tcopy 7 8 false true false false 0 0 2 0) 1 with bar := some 64 }
     let s := engaged [vecS 4 0, vecS 4 1024] o
     let at_ := fun (m : Nat) (st : TaskStatus) => { s with tasks := s.tasks ++ [(2, { tsk with age := 2, phys := 1, spmSize := m, status := st })] }
     2 ≠ o.core % 8 ∧ s.launchOn o 2 = [] ∧ (at_ 64 .resident).launchOn o 1 = [{ tsk with age := 2, phys := 1, spmSize := 64 }] ∧
     (at_ 4096 .resident).launchOn o 1 = [{ tsk with age := 2, phys := 1 }] ∧ 1024 + (vecS 4 1024).rcd.size ≤ 4096 ∧ 64 % 32 = 0 ∧
     ((at_ 4096 .resident).tasks.find? 2) = some { tsk with age := 2, phys := 1 } ∧
     (∃ b s1, s.slotLoad o (vecS 4 1024) (vecS 4 1024).rcd.stage ((vecS 4 1024).rcd.place (applied (vecS 4 1024).cur 4 3)).1
       ((vecS 4 1024).rcd.place (applied (vecS 4 1024).cur 4 3)).2 = .ok b s1 ∧ s1 = s) ∧
     (∃ b s1, s.elementLoad o (vecS 17 1024) (vecS 17 1024).cur 3 = .ok b s1 ∧ b.length = (vecS 17 1024).rcd.esize ∧
       s1 = s)) := by
  refine ⟨⟨⟨rfl, by decide, by decide⟩, by decide, ?_, ?_⟩, by decide, rfl, rfl, rfl, by decide +kernel, rfl, rfl, ?_, ?_⟩ <;>
  exact answers (by decide +kernel)
/-- A pass from the unit matrix in scratchpad. -/
def passing : Layout :=
  { vec 4 0 with
    lseq := 1, rcd := { (vec 4 0).rcd with spm := true, sv := true, stage := 64 }, m1 := [2, 1, 4, 8], m2 := [2, 1, 8, 4], inflight := true,
    passes := 2 }
/-- The rotations of the eight cores of a bed. -/
def rotation (c : Nat) : Nat × EngineOp := (c, { opOf (.rrot 0 64 64 0 none false) 0 with core := 8 * 0 + c })
theorem witness_TileMoves :
    (let k := 1 * 2 ^ 56 + 0
     let o := opOf (.remap k true) 0
     let s := { tens [] [] with engines := [(1, o)], layouts := [(k, passing)] }
     Runs s o ∧ s.layouts.find? k = some passing ∧ passing.rcd.coreb ≤ passing.rcd.n ∧ (∀ x < 2 ^ 4, passing.rcd.phantom x = false) ∧
     (∀ c < 2 ^ 0, ∃ z, s.unitTask passing c = some z ∧ z.status ≠ .saved ∧ s.tasks.find? z.age = some z ∧
       passing.rcd.base + passing.rcd.size ≤ z.spmSize ∧ passing.rcd.stage + passing.rcd.size ≤ z.spmSize) ∧
     passing.m1 ≠ passing.mat ∧ passing.m1 ≠ passing.m2) ∧
    (let s := { tens [] [] with engines := (List.range 8).map rotation }
     (s.engines.map Prod.fst).Nodup ∧
     (∀ c < 8, rotation c ∈ s.engines ∧ (rotation c).2.kind = .rrot 0 64 64 0 none false ∧ (rotation c).2.core = 8 * 0 + c ∧
       (s.task (rotation c).2.task).launch = 1) ∧
     (∀ e ∈ s.engines, ∃ c < 8, e = rotation c)) ∧
    (tens [] []).engines = [] ∧
    (let o := { opOf (.rrot 0 64 4 0 (some [1, 2, 3, 4]) true) 0 with bar := some 128 }
     (engaged [] o).engines.find? 1 = some o ∧ ((engaged [] o).task o.task).status ≠ .saved ∧ [1, 2, 3, 4].length = 4) := by
  refine ⟨⟨⟨rfl, by decide, by decide⟩, rfl, by decide, by decide, ?_, by decide, by decide⟩, ⟨by decide, ?_, ?_⟩, rfl, rfl, by decide, rfl⟩
  · intro c h
    obtain rfl : c = 0 := by omega
    exact ⟨_, rfl, by decide, rfl, by decide, by decide⟩
  · intro c h
    exact ⟨List.mem_map.mpr ⟨c, List.mem_range.mpr h, rfl⟩, rfl, rfl, rfl⟩
  · intro e h
    obtain ⟨c, hc, rfl⟩ := List.mem_map.mp h
    exact ⟨c, List.mem_range.mp hc, rfl⟩
/-- A pass at memory level that reads and places every element, and one whose slots are not mapped. -/
theorem witness_MemoryPasses :
    let k := 1 * 2 ^ 56 + 0
    let l := { vec 4 0 with lseq := 1, m1 := [2, 1, 4, 8], m2 := [2, 1, 8, 4], inflight := true, passes := 2 }
    let far := { l with rcd := { l.rcd with base := 0x80000000 } }
    let o := opOf (.remap k true) 0
    let at_ := fun (l : Layout) => { tens [] [] with engines := [(1, o)], layouts := [(k, l)] }
    let reads := fun (l : Layout) => eachOf (fun s x => (s.slotLoad o l l.rcd.base (l.rcd.place (applied l.mat 4 x)).1
      (l.rcd.place (applied l.mat 4 x)).2).andThen fun b s => Res.ok (some (x, b)) s) (List.range (2 ^ 4)) (at_ l)
    Runs (at_ l) o ∧ (at_ l).layouts.find? k = some l ∧ (∀ x < 2 ^ 4, l.rcd.phantom x = false) ∧ l.hits = [] ∧
    (∃ vs s1, reads l = .ok vs s1 ∧ (match eachOf (fun s (w : Nat × List Byte) => (s.slotDest o l l.rcd.base
        (l.rcd.place (applied l.m1 4 w.1)).1 (l.rcd.place (applied l.m1 4 w.1)).2).andThen fun q s => Res.ok (some (q, w.2)) s) vs
        (s1.stagingValues o l).2 with
      | .ok ps _ => ps.length == 16
      | .stop _ _ => false) = true) ∧
    ∃ a sub kd s1, reads far = .stop (.page a sub kd) s1 := by
  refine ⟨⟨rfl, by decide, by decide⟩, rfl, by decide, rfl, answers (by decide +kernel), ⟨_, _, _, _, rfl⟩⟩
/-- A core's tile memory, configured for f16, and a scratchpad of 128 KiB. -/
def tiles (lease : Option Nat) (c : Option MxConfig) (regs : List (Nat × Word)) : State :=
  { run [t0] { tsk with spmSize := 2 ^ 17 } (thr 0 regs) (thr 1 []) with tmems := [(0, { lease := lease, config := c })] }
theorem witness_MatrixWords :
    (let s := commanded [] [6 + 2 ^ 4 * 4, 256 + 2 ^ 32 * 256, 512, 0, 0, 0, 0, 0] []
     Lone s t0 (thr 0 []) ∧ MayLease s 0 1 ∧ s.engines = [] ∧
     (List.range 8).map (fun i => natOfBytes (Memory.bytes (s.task 1).spm (0 + 8 * i) 8)) =
       [6 + 2 ^ 4 * 4, 256 + 2 ^ 32 * 256, 512, 0, 0, 0, 0, 0]) ∧
    (let c : MxConfig := ⟨6, 256, 256, 512⟩
     let s := tiles (some 1) (some c) [(6, 255 + 256 + 127 * 65536)]
     Lone s t0 (thr 0 [(6, 255 + 256 + 127 * 65536)]) ∧ MayLease s 0 1 ∧ (leased s 0 1).config = some c ∧
     0 + 127 * c.bpitch + 128 * opSize c.opt ≤ (s.task 1).spmSize ∧ 0 + (256 - 1) * c.apitch + 128 * opSize c.opt ≤ (s.task 1).spmSize ∧
     s.readG t0 6 = BitVec.ofNat 32 (256 - 1 + 2 ^ 8 * 1 + 2 ^ 16 * (128 - 1)) ∧
     (tiles (some 1) (some c) [(6, 511)]).readG t0 6 = BitVec.ofNat 32 (256 - 1 + 2 ^ 8 * 1 + 2 ^ 16 * (1 - 1)) ∧
     0 + (256 - 1) * c.cpitch + 512 ≤ (s.task 1).spmSize ∧ s.tasks.find? 1 ≠ none) ∧
    (((tiles (some 9) none []).tmems.find? 0).getD {}).lease = some 9 ∧ matrixWords ≠ [] ∧
    (let o := opOf (.mxgo 7 8 9 false 1) 2
     List.find? (fun (e : Nat × EngineOp) => EngKind.isMxgo e.2.kind && e.2.core == 0) (engaged [] o).engines = some (1, o)) ∧
    (((tiles (some 1) none []).tmems.find? 0).getD {}).config = none :=
  ⟨⟨⟨rfl, rfl, rfl⟩, Or.inl rfl, rfl, by decide +kernel⟩,
    ⟨⟨rfl, rfl, rfl⟩, Or.inr rfl, rfl, by decide, by decide, by decide +kernel, by decide +kernel, by decide, by decide⟩,
    rfl, by simp [matrixWords], rfl, rfl⟩
/-- A task with a barrier object at 64. -/
def barred (k : Task) (regs : List (Nat × Word)) (st : Status) : State :=
  { run [t0] { k with bars := [64] } { thr 0 regs with status := st } (thr 1 []) with
    threads := [(1024, { thr 0 regs with status := st })], touched := [(1, 64)] }
theorem witness_Barriers :
    (let s := barred tsk [(4, 64)] .ready
     Lone s t0 (thr 0 [(4, 64)]) ∧ InSpm s t0 (s.readG t0 4).toNat 32 ∧ Initialised s 1 64 ∧ (object s 1 64).phase = 0 ∧
     (s.readG t0 6).toNat % 65536 = 0 ∧ ((barred tsk [(6, 65535)] .ready).readG t0 6).toNat % 65536 ≠ 0) ∧
    (let s := barred tsk [] (.parked (.bwait 64 0 4))
     s.touched = [(1, 64)] ∧ Initialised s 1 64 ∧ (object s 1 64).expect ≤ (object s 1 64).arrived ∧ (object s 1 64).pendb = 0 ∧
     s.threads = [(tkey t0, { thr 0 [] with status := .parked (.bwait 64 0 4) })]) ∧
    (let s := barred { tsk with spm := [(64, 1)] } [] .ready
     ¬((object s 1 64).expect ≤ (object s 1 64).arrived) ∧ ∀ e ∈ s.threads, e.2.status = .ready) := by
  refine ⟨⟨⟨rfl, rfl, rfl⟩, ⟨by decide +kernel, by decide +kernel⟩, by unfold Initialised; decide, by decide +kernel, by decide +kernel, by decide +kernel⟩,
    ⟨rfl, by unfold Initialised; decide, by decide +kernel, by decide +kernel, rfl⟩, by decide +kernel, by decide +kernel⟩
theorem witness_LockModesCover : 5 < 6 ∧ 5 ∈ coverTable.getD 5 [] := by decide
/-- LKACQ or LKUPG of a mode at a level. -/
def ftl (mode : BitVec 3) (level : BitVec 2) : FmtTL := ⟨false, false, 8, 4, 6, mode, level⟩
theorem witness_TileLockHome :
    let s := tens [vec 4 0] [(6, 3)]
    (∃ q s1, s.lockReq t0 (ftl 4 1) false = .ok q s1 ∧ q.home < 8) ∧ Names s t0 (s.readG t0 6).toNat 7 (vec 4 0) := by
  refine ⟨answers (by decide +kernel), ⟨by decide +kernel, rfl, rfl⟩⟩
/-- The lock of a tensor. -/
def lockOf : LockName := ⟨0, 0, 0, 0, 0⟩
/-- An entry on it. -/
def entry (task : Nat) (st : LockSt) : Lock :=
  { name := lockOf, task := task, st := st, tid := 0, home := 0, parent := none, line := none, used := 0, overflowed := false,
    cfg := 0x001400008C00458EF }
/-- A request for it. -/
def request (mode : Nat) (up : Bool) : LockReq :=
  { name := lockOf, mode := mode, upgrade := up, home := 0, parent := none, line := none, h := 8, pc := 1200, cfg := 0x001400008C00458EF, at_ := 0 }
/-- The task, wounded or not, with these locks. -/
def locking (w : Bool) (ls : List Lock) : State := { run [t0] { tsk with wounded := w } (thr 0 []) (thr 1 []) with locks := ls }
/-- The table of home agent 0 with `n` locks of another task. -/
def many (n : Nat) : State := { solo [] with locks := List.replicate n (entry 2 (.held 0)) }
theorem many_use (n : Nat) (b : Bool) : (many n).tableUse 0 b = if b then 0 else n := by
  cases b <;> simp [State.tableUse, many, entry]
theorem full_tables : (many 8192).tablesFull 0 = true := by
  have g : (many 8192).overflowRoom 0 = 0 := by rfl
  simp only [State.tablesFull, many_use, g]
  decide
theorem witness_LockTable :
    let st := fun (s : State) => (s.lock? 1 lockOf).map Lock.st
    st (locking false []) = none ∧ ((locking true []).task 1).wounded = true ∧
    ((locking false []).unoverflow lockOf).intention 1 (some lockOf) 0 = false ∧
    ((locking false []).unoverflow lockOf).intention 1 none 0 = true ∧
    ((locking false []).unoverflow lockOf).tablesFull 0 = false ∧
    ((locking false []).unoverflow lockOf).grantFresh ((locking false []).greg (.lkcfg 0)) lockOf 1 4 = true ∧
    ((locking false [entry 2 (.held 4)]).unoverflow lockOf).grantFresh ((locking false []).greg (.lkcfg 0)) lockOf 1 0 = false ∧
    st (locking false [entry 1 (.wait 4)]) = some (.wait 4) ∧ st (locking false [entry 1 (.upg 1 4)]) = some (.upg 1 4) ∧
    st (locking false [entry 1 (.held 1)]) = some (.held 1) ∧ 0 ∈ coverTable.getD 1 [] ∧ 5 ∉ coverTable.getD 1 [] ∧
    (1, 5) ∉ upgrades ∧ (1, 4) ∈ upgrades ∧
    ((locking false [entry 1 (.held 1)]).unoverflow lockOf).blockers ((locking false []).greg (.lkcfg 0)) lockOf 1 4 = [] ∧
    ((locking false [entry 1 (.held 1), entry 2 (.held 1)]).unoverflow lockOf).blockers ((locking false []).greg (.lkcfg 0)) lockOf 1 4 ≠ [] := by
  decide +kernel
theorem witness_LockWords :
    (let s := tens [vec 4 0] [(6, 3)]
     Lone s t0 (thr 0 [(6, 3)]) ∧
     (∃ q s1, s.lockReq t0 (ftl 4 0) false = .ok q s1 ∧ s1.threads = s.threads ∧ s1.collect = none ∧ (s1.lockRow t0 q).1 = .status 0) ∧
     (∃ q s1, s.lockReq t0 (ftl 4 0) true = .ok q s1 ∧ (s1.lockRow t0 q).1 = .trap 3) ∧
     Names s t0 (s.readG t0 6).toNat 7 (vec 4 0) ∧
     (∃ n s1, s.lockName t0 7 0 0 = .ok n s1 ∧ s1.threads = s.threads ∧ s1.tasks = s.tasks ∧ s1.lock? 1 n = none)) ∧
    (let s := fun (l : Lock) => { tens [vec 4 0] [(6, 3)] with locks := [l] }
     (∃ n s1, (s (entry 1 (.held 1))).lockName t0 7 0 0 = .ok n s1 ∧ (s1.lock? 1 n).map Lock.st = some (.held 1)) ∧
     (∃ n s1, (s (entry 1 (.upg 1 4))).lockName t0 7 0 0 = .ok n s1 ∧ (s1.lock? 1 n).map Lock.st = some (.upg 1 4)) ∧
     (∃ n s1, ({ tens [vec 4 0] [(6, 3)] with locks := [entry 1 (.held 1), { entry 1 (.held 0) with name := ⟨0, 0, 1, 0, 0⟩, parent := some lockOf }] } : State).lockName
       t0 7 0 0 = .ok n s1 ∧ (s1.lock? 1 n).map Lock.st = some (.held 1) ∧
         (s1.locks.any fun e => e.task == 1 && e.parent == some n && e.st == .held 0) = true) ∧
     (∃ q s1, (s (entry 2 (.held 4))).lockReq t0 (ftl 4 0) false = .ok q s1 ∧ (s1.lockRow t0 q).1 = .park) ∧
     (∃ q s1, (s (entry 1 (.wait 4))).lockReq t0 (ftl 4 0) false = .ok q s1 ∧ (s1.lockRow t0 q).1 = .held)) ∧
    (let s := run [] { tsk with grace := true } { thr 0 [] with status := .parked .lkrall } (thr 1 [])
     (∃ e ∈ s.threads, e.2.task = 1 ∧ e.2.status = .parked .lkrall) ∧ (s.task 1).grace = true ∧ (s.task 1).status ≠ .ended) ∧
    (∀ e ∈ (solo []).threads, e.2.task = 1 → e.2.status ≠ .parked .lkrall) ∧ ((solo []).task 1).grace = false := by
  refine ⟨⟨⟨rfl, rfl, rfl⟩, ?_, ?_, ⟨by decide +kernel, rfl, rfl⟩, ?_⟩, ⟨?_, ?_, ?_, ?_, ?_⟩,
    ⟨⟨_, .head _, rfl, rfl⟩, rfl, by decide⟩, by decide +kernel, rfl⟩ <;>
  exact answers (by decide +kernel)
theorem names_tens (l : Layout) (regs : List (Nat × Word)) (h : ((tens [l] regs).readG t0 6).toNat = 3) :
    Names (tens [l] regs) t0 ((tens [l] regs).readG t0 6).toNat 7 l := by
  rw [h]; exact ⟨by decide, rfl, rfl⟩
/-- Where a lock request stops: a tile id past the tiles, a line misaligned or outside the storage, an address that traps, and one
in host memory. -/
theorem witness_LockTargets :
    (let s := fun (l : Layout) (a : Word) => tens [l] [(4, a), (6, 3)]
     Lone (s (vec 4 0) 1) t0 (thr 0 [(4, 1), (6, 3)]) ∧ Names (s (vec 4 0) 1) t0 ((s (vec 4 0) 1).readG t0 6).toNat 7 (vec 4 0) ∧
     2 ^ ones (vec 4 0).rcd.tilemask ≤ ((s (vec 4 0) 1).readPair t0 4).toNat ∧ 1 % 256 ≠ 0 ∧ (256 : Nat) % 256 = 0 ∧
     ¬256 < 0 + (vec 4 0).rcd.size ∧ 0 < 0 + (vec 4 0).rcd.size ∧ (vec 4 0).rcd.spm = false ∧ (vec 4 0).rcd.etype ≠ 14 ∧
     (∃ inv, invert (vec 4 0).cur 4 = some inv) ∧
     (∃ i v, ((s (vec 4 0) 0).ctx 0).2.locate t0 0x80000000000000 1 .read = .stop (.trap i) v) ∧
     (∃ x v, ((s (vec 4 0) 0).ctx 0).2.locate t0 0x40000000 1 .read = .ok x v ∧ x.host = true) ∧
     (∃ x v, ((s (vec 4 0) 0).ctx 0).2.locate t0 0 1 .read = .ok x v ∧ x.host = false)) := by
  refine ⟨⟨rfl, rfl, rfl⟩, names_tens _ _ (by decide +kernel), by decide +kernel, by decide, by decide, by decide +kernel,
    by decide +kernel, rfl, by decide, ⟨_, rfl⟩, ⟨_, _, rfl⟩, ?_, ?_⟩ <;>
  exact answers (by decide +kernel)
/-- The turns of the lock managers: a held-back request that is granted, that traps, that waits; a waiting one that passes, one that
wounds, and none. -/
theorem witness_LockTurns :
    (let s := fun (up : Bool) (ls : List Lock) =>
       { run [] tsk { thr 0 [] with status := .parked (.lockHeld (request 4 up)) } (thr 1 []) with locks := ls }
     (∀ up ls, ((s up ls).threads.find? (tkey t0)).map Thread.status = some (.parked (.lockHeld (request 4 up)))) ∧
     ((s false []).lockRow t0 (request 4 false)).1 = .status 0 ∧ ((s true []).lockRow t0 (request 4 true)).1 = .trap 3 ∧
     ((s false [entry 2 (.held 4)]).lockRow t0 (request 4 false)).1 = .park ∧ (s false []).lock? 1 lockOf = none) ∧
    (let e := entry 1 (.wait 4)
     let s := fun (ls : List Lock) => { run [] tsk { thr 0 [] with status := .parked (.lock lockOf 8) } (thr 1 []) with locks := ls }
     (∀ x ∈ (s []).threads, ∀ r, x.2.status ≠ .parked (.lockHeld r)) ∧ Wants e 4 ∧ (s [e]).blockers e.cfg e.name e.task 4 = [] ∧
     (s [e]).grantFresh e.cfg e.name e.task 4 = true ∧
     (let h := entry 2 (.held 4)
      h ∈ (s [e, h]).blockers e.cfg e.name e.task 4 ∧ older e.task h.task = true ∧ ((s [e, h]).task 2).wounded = false) ∧
     (s [entry 1 (.held 4)]).blockers e.cfg e.name 1 4 = [] ∧ (s [e]).lock? e.task e.name = some e ∧
     (s [e]).threads.find? (tkey ⟨e.task, e.tid⟩) = some { thr 0 [] with status := .parked (.lock e.name 8) }) := by
  refine ⟨⟨fun _ _ => rfl, by decide +kernel, by decide +kernel, by decide +kernel, rfl⟩, ?_, Or.inl rfl, by decide +kernel, by decide +kernel,
    by decide +kernel, by decide +kernel, rfl, rfl⟩
  intro x hx r
  rcases List.mem_cons.mp hx with rfl | hx
  · exact fun h => by cases h
  · rw [List.mem_singleton.mp hx]; exact fun h => by cases h
/-- The first peer-window address: peer 0, window 0, offset 0 (R35). -/
def peer0 : Nat := 3 * 2 ^ 54
/-- The tables of address space 0 (R17, R36 to R38): a valid descriptor, a peer entry of one window, its window of 16 bytes and all
permissions, an export entry of key 0 for member 0, and a page table that maps the first GiB. -/
def linked (s : State) : State :=
  { s with
    ctxs := [(0, [1, 0x10000, 1, 0, 0, 0, 0, 0])]
    peerCache := [((0, 0, 1024), [1, 0x3000]), ((0, 0, 0), [0, 15, 15, 0])]
    gregs := [(.expcount, 1), (.cntcfg 0, 1)]
    mem := dwords 0 [1 + 2 + 4 + 8, 0, 0, 4095] ++ dwords 0x10000 [0x20001] ++ dwords 0x20000 [0x1F] }
/-- An armed entry of counter 0. -/
def armed0 : Armed := armedBy (solo []) t0 (thr 0 []) 0 5 .carm (some 64)
theorem witness_RemoteWords :
    (∀ put : Bool, ∃ q, (if put then [9 + 2 ^ 8 * b2n true + 2 ^ 9 * b2n true + 2 ^ 10 * b2n true + 2 ^ 32 * 64, 4032, peer0, 64, 4095, 0, 0, 0]
      else [8 + 2 ^ 10 * b2n true + 2 ^ 32 * 64, 4032, peer0, 64, 0, 0, 0, 0]) = q ∧ Commanded (commanded [] q []) t0 (thr 0 []) ft q 64) ∧
    IsPeer peer0 ∧ 4032 + 64 ≤ ((commanded [] [] []).task 1).spmSize ∧ ((commanded [] [] []).task 1).spmSize < 4033 + 64 ∧
    (let q := [10 + 2 ^ 8 * b2n true + 2 ^ 9 * b2n true + 2 ^ 10 * b2n true + 2 ^ 32 * 64, 0, 5, 256, peer0, 64, 0, 0]
     let s := linked (commanded [] q [])
     cmd s t0 ft = q ∧ InSpm s t0 0 64 ∧ InSpm s t0 64 32 ∧ Allocated s t0 0 ∧ ¬Allocated s t0 4096 ∧ s.armed.length < 16384 ∧ NoneDue s 0 ∧
     ((s.counters.find? 0).getD 0).toNat < 5 ∧ 0 ≤ ((s.counters.find? 0).getD 0).toNat) ∧
    (let s := { linked (solo []) with armed := List.replicate 16384 armed0 }
     Allocated s t0 0 ∧ 16384 ≤ s.armed.length) ∧
    (let s := { linked (solo [(4, 5)]) with counters := [(0, 5)], armed := [] }
     Lone s t0 (thr 0 [(4, 5)]) ∧ (s.readPair t0 4).toNat ≤ ((s.counters.find? 0).getD 0).toNat ∧ armed0 ∉ s.armed ∧
     (∃ z, s.tasks.find? 1 = some z ∧ z.status ≠ .ended)) ∧ (thr 0 []).remote = [] ∧ { thr 0 [] with remote := [1] }.remote ≠ [] := by
  refine ⟨?_, by unfold IsPeer; decide, by decide, by decide, ⟨by decide +kernel, ⟨by decide +kernel, by decide +kernel⟩,
    ⟨by decide +kernel, by decide +kernel⟩, ?_, ?_, by decide, ?_, by decide, by decide⟩, ⟨?_, le_of_eq List.length_replicate.symm⟩,
    ⟨⟨rfl, rfl, rfl⟩, by decide +kernel, by simp, _, rfl, by decide⟩, rfl, by decide⟩
  · intro put
    cases put
    · exact ⟨_, rfl, commands _ _ _ (by decide +kernel)⟩
    · exact ⟨_, rfl, commands _ _ _ (by decide +kernel)⟩
  · unfold Allocated; decide +kernel
  · unfold Allocated; decide
  · intro a h; cases h
  · unfold Allocated; decide +kernel
/-- Page tables as memory holds them: a leaf, an invalid entry, a poisoned line, a page in migration, malformed pointers and
leaves, a run. -/
theorem witness_Walks :
    let s := fun (e : List (Nat × Nat)) => ({ linked (solo []) with tlbs := [], mem := e.flatMap (fun x => dwords x.1 [x.2]) } : State)
    let m := [(0x10000, 0x20001), (0x20000, 0x1F)]
    let run_ := (List.range 16).map (fun i => BitVec.ofNat 64 ((0x100 + i) * 4096 + 0x47))
    (tlbFind ((s m).tlbOf (.core 0)) 0 8 = none ∧ (tlbFind ((solo []).tlbOf (.core 0)) 0 8).isSome = true ∧
    ((s m).walk 0 0 8).1 = .leaf 30 0 0x1F ∧ ((s [(0x10000, 0)]).walk 0 0 8).1 = .bad 1 ∧ (((s m).poison 0x10000).walk 0 0 8).1 = .corrupt ∧
    ((s [(0x10000, 0x20001), (0x20000, 0x21F)]).walk 0 0 8).1 = .leaf 30 0 0x21F ∧ (0x21F).testBit 9 = true ∧ (0x1F).testBit 9 = false ∧
    (0x20001 % 4 = 1 ∧ 0x20001 / 4 % 2 ^ 10 = 0) ∧ 0x20005 / 4 % 2 ^ 10 ≠ 0 ∧ 0x1F % 4 = 3 ∧ (0x1F).testBit 6 = false ∧ (0x100047).testBit 6 = true) ∧
    GoodContext ((s m).ctx 0).1 ∧ ¬GoodContext ((s m).ctx 1).1 ∧ ¬BadLeaf 30 0x1F ∧ BadLeaf 39 0x1F ∧ ¬BadLeaf 12 0x100047 ∧
    GoodRun run_ ∧ ¬GoodRun (List.replicate 16 0x100047) := by
  refine ⟨by decide +kernel, ?_, ?_, ?_, ?_, ?_, ?_, ?_⟩ <;>
  · simp only [GoodContext, BadLeaf, GoodRun, anyBit, tableFrame]
    decide +kernel
/-- A leaf as the caches hold it: allowed or denied, of the device or of the host, its host page known, refused, asked for or
unknown. -/
theorem witness_Leaves :
    let t : Tlb := ⟨12, 5, true, false, false, false, true⟩
    let c := ((linked (solo [])).ctx 0).2
    (permission t .read).1 = true ∧ (permission t .write).1 = false ∧ t.host = true ∧ cachedLeaf 30 0 0x5 = ⟨30, 0, true, false, false, false, false⟩ ∧
    assoc c.atc (0, (0, 5)) = none ∧ assoc c.atc (0, (0, 0x40000)) = some 0x40000 ∧ (0, 5) ∉ c.priDenied ∧ (0, 5) ∉ c.priPending := by
  decide +kernel
/-- Window tables: an entry the peer cache holds or not, valid or not, a window past the peer's, a permission that lacks. -/
theorem witness_Windows :
    let s := linked (solo [])
    let x := { s with peerCache := [((0, 0, 1024), [1, 0x3000]), ((0, 0, 0), [0, 15, 7, 0])] }
    assoc s.peerCache (0, 0, 1024) = some [1, 0x3000] ∧ assoc s.peerCache (0, 0, 1) = none ∧ 0x4000 ≤ 2 ^ 39 ∧ s.poisoned 0x3000 = false ∧
    (s.poison 0x3000).poisoned 0x3000 = true ∧ (peerGood [1, 0x3000] = true ∧ peerGood [0, 0] = false) ∧
    (windowGood [0, 15, 15, 0] = true ∧ windowGood [0, 15, 14, 0] = false) ∧ ((s.ctx 0).1.getD 2 0).toNat % 2 = 1 ∧
    (s.window 0 (BitVec.ofNat 64 (peer0 + 2 ^ 34)) 8 3).1 = .error 2 ∧ (x.window 0 (BitVec.ofNat 64 peer0) 8 3).1 = .error 4 ∧
    ({ s with peerCache := [] } : State).window 0 (BitVec.ofNat 64 peer0) 8 3 ≠ s.window 0 (BitVec.ofNat 64 peer0) 8 3 := by
  decide +kernel
/-- An operation between devices: before its windows are read, with a piece to send, with none, and its local side. -/
theorem witness_RemoteChunks :
    let o := { opOf (.rget 64 true (BitVec.ofNat 64 peer0) 16) 0 with bar := some 128 }
    let q := { o with target := some 0, queue := [0], left := [0] }
    let a := { q with kind := .rget 0x80000000 false (BitVec.ofNat 64 peer0) 16 }
    let s := fun (o : EngineOp) => { linked (solo []) with engines := [(1, o)] }
    RemoteOp (s o) o 64 true (BitVec.ofNat 64 peer0) 16 .get ∧ IsPeer (BitVec.ofNat 64 peer0).toNat ∧ GoodContext ((s o).ctx o.asid).1 ∧
    ((s o).ctx 0).2.reachable (peerAt (BitVec.ofNat 64 peer0)) = true ∧ o.susp = none ∧ o.target = none ∧
    (∃ w, (((s o).ctx 0).2.window 0 (BitVec.ofNat 64 peer0) 16 1).1 = .ok w) ∧
    (((s o).ctx 0).2.window 0 (BitVec.ofNat 64 (peer0 + 8)) 16 1).1 = .error 3 ∧ q.target = some 0 ∧ q.stale = false ∧ { q with queue := [] }.queue = [] ∧
    (∃ ds u, (s q).localDest q true (64 + (piece 0 16 0).1) (piece 0 16 0).2 = .ok ds u ∧ u.engines = (s q).engines) ∧
    (∃ b u, (s q).localLoad q true (64 + (piece 0 16 0).1) (piece 0 16 0).2 = .ok b u ∧ u = s q) ∧
    (match (s a).localDest a false (0x80000000 + (piece 0 16 0).1) (piece 0 16 0).2 with
      | .stop (.page _ _ _) _ => true
      | _ => false) = true ∧
    (∃ l u, (s a).locateVia (.bed (a.core / 8)) a.asid 64 1 .write = .ok l u ∧ l.host = false) ∧ (s q).engines.find? 1 = some q ∧
    0 ∈ q.left ∧ 1 ∉ q.left ∧ (s q).touched = [] ∧ (s q).arrivals = [] ∧ (s q).up = true ∧ (5 : Nat) ≠ (s q).self ∧
    ((solo []).task 1).spmSize < 4090 + 16 := by
  refine ⟨Or.inl ⟨rfl, rfl⟩, by unfold IsPeer; decide +kernel, by simp only [GoodContext]; decide +kernel, by decide +kernel, rfl, rfl,
    ⟨⟨0, 0, 0, 0⟩, by decide +kernel⟩, by decide +kernel, rfl, rfl, rfl, ?_, ?_, by decide +kernel, ?_, rfl, by decide, by decide, rfl, rfl,
    by decide +kernel, by decide +kernel, by decide⟩ <;>
  exact answers (by decide +kernel)
theorem witness_RemoteAtomics :
    let far := peer0 + 2 ^ 44
    let s := linked (solo [(0, 0), (1, 0x00C00000)])
    let x := { s with peerCache := [((0, 1, 1024), [1, 0x3000]), ((0, 1, 0), [0, 15, 15, 0])] }
    Lone s t0 (thr 0 [(0, 0), (1, 0x00C00000)]) ∧ ratomWords ≠ [] ∧ (s.readPair t0 0).toNat = peer0 ∧ IsPeer (s.readPair t0 0).toNat ∧
    (s.readPair t0 0).toNat % 8 = 0 ∧ (∃ w, (s.window 0 (BitVec.ofNat 64 peer0) 8 3).1 = .ok w) ∧
    (s.window 0 (BitVec.ofNat 64 peer0) 8 3).2.reachable 0 = true ∧ (s.window 0 (BitVec.ofNat 64 (peer0 + 16)) 8 3).1 = .error 3 ∧
    (x.window 0 (BitVec.ofNat 64 far) 8 3).1 = .ok ⟨0, 0, 0, 0⟩ ∧
    ({ x with linksDown := [1] } : State).reachable 1 = false ∧ { thr 0 [] with remote := [1] }.remote ≠ [] ∧
    IsPeer (peer0 + 1) ∧ (peer0 + 1) % 8 ≠ 0 := by
  refine ⟨⟨rfl, rfl, rfl⟩, by simp [ratomWords], by decide +kernel, by unfold IsPeer; decide +kernel, by decide +kernel,
    ⟨⟨0, 0, 0, 0⟩, by decide +kernel⟩, by decide +kernel, by decide +kernel, by decide +kernel, by decide +kernel, by decide,
    by unfold IsPeer; decide, by decide⟩
/-- A kernel's slot. -/
def slot0 : Slot :=
  { asid := 0, func := 0, jobkey := 7, fclass := 0, ports := 1, budget := 512, words := [0x48000000], flowBase := 0, flowb := 64, code := 0,
    task := 1, num := 0, tid := 0, lseq := 1 }
/-- A request of member 0 for device 0 under key 0. -/
def request0 (k : PacketKind) (n : Nat) : Packet :=
  { blankPacket with kind := k, len := n, target := 256, payload := List.replicate n 3 }
theorem witness_FabricEvents :
    (let q := [11, 0x4000, 1 + 2 ^ 16 * 0 + 2 ^ 32 * 7, 64 + 2 ^ 32 * 512, 1, 0, 0, 0]
     let s := { linked (commanded [] q []) with grants := [(0, 7, 1)] }
     Lone s t0 (thr 0 []) ∧ InSpm s t0 0 64 ∧ cmd s t0 ft = q ∧
     (∃ g ∈ s.grants, g.1 = (s.task 1).asid ∧ g.2.1 = BitVec.ofNat 32 7 ∧ BitVec.ofNat 32 1 &&& ~~~g.2.2 = 0) ∧ s.slots = [] ∧
     s.freeSlot 64 = some (0, 0) ∧ (∃ b s1, s.memReadRun t0 0x4000 4 1 = .ok b s1 ∧ kernelOk (wordsOfBytes b) 512 = false) ∧
     (∃ w : Word, kernelOk [w] 512 = true) ∧ (linked (solo [])).grants = [] ∧ ∃ e ∈ ([(0, slot0)] : Tbl Slot), e.2.jobkey = 7 ∧ e.2.fclass = 0) ∧
    (let s := { solo [] with slots := [(0, slot0), (1, { slot0 with releasing := true }), (2, { slot0 with asid := 1 })] }
     (∃ x, s.slots.find? 0 = some x ∧ x.asid = (s.task 1).asid ∧ x.releasing = false) ∧ s.slots.find? 64 = none ∧
     (∃ x, s.slots.find? 2 = some x ∧ x.asid ≠ (s.task 1).asid) ∧ (∃ x, s.slots.find? 1 = some x ∧ x.releasing = true) ∧
     s.ctxts = [] ∧ s.sepalQ = [] ∧ ({ s with slots := (List.range 64).map (fun k => (k, slot0)) } : State).freeSlot 64 = none) ∧
    (let s := run [] tsk { thr 0 [] with status := .parked (.ratom 1 4 true 1200 (BitVec.ofNat 64 peer0)) } (thr 1 [])
     (s.threads.find? (tkey t0)).map Thread.status = some (.parked (.ratom 1 4 true 1200 (BitVec.ofNat 64 peer0))) ∧
     s.engines.find? 1 = none ∧ s.touched = []) ∧
    (let s := linked (solo [])
     (s.self = 0 ∧ s.portUp (routePort s.self 5) = true ∧ ({ s with linksDown := [5] } : State).portUp (routePort s.self 5) = false ∧
     (request0 .get 8).mirror = false ∧ (s.exportCheck { request0 .get 8 with key := 1 } 8 1).1 = .error 5 ∧
     (s.exportCheck (request0 .get 8) 8 1).1 = .ok (256, 0) ∧ (s.exportCheck (request0 .get 8) 8 1).2.still = s.still ∧
     (∀ a, 256 ≤ a → a < 256 + 8 + 256 → (s.exportCheck (request0 .get 8) 8 1).2.poisoned a = false) ∧
     (s.exportCheck (request0 (.atom .cas 3) 8) 8 3).1 = .ok (256, 0) ∧ (s.exportCheck (request0 .put 8) 8 2).1 = .ok (256, 0) ∧
     (s.exportCheck (request0 .put 8) 8 2).2.counterOk 0 0 = true ∧
     s.exportFunc (request0 .get 8) = some 0 ∧ s.exportFunc { request0 .get 8 with key := 1 } = none ∧ State.reset.up = false ∧
     s.up = true) ∧ Quiet s ∧ s.arrivals = [] ∧ s.armed = [] ∧ s.slots = [] ∧
     (∀ e ∈ s.threads, e.2.status = .ready)) := by
  refine ⟨⟨⟨rfl, rfl, rfl⟩, ⟨by decide +kernel, by decide +kernel⟩, by decide +kernel, ⟨_, .head _, rfl, rfl, by decide⟩, rfl,
      by decide +kernel, answers (by decide +kernel), ⟨0x48000000, by decide +kernel⟩, rfl, ⟨_, .head _, rfl, rfl⟩⟩,
    ⟨⟨_, rfl, rfl, rfl⟩, rfl, ⟨_, rfl, by decide⟩, ⟨_, rfl, rfl⟩, rfl, rfl, by decide +kernel⟩, ⟨rfl, rfl, rfl⟩,
    ⟨by decide +kernel, by unfold Quiet; decide +kernel, rfl, rfl, rfl, by decide⟩⟩
/-- A context of the kernel in slot 0, in its turn. -/
def ctx0 : Ctx := { slot := 0, pkt := request0 .put 64 }
/-- With scalar registers. -/
def ctxY (y : List (Nat × Word)) : Ctx := { ctx0 with y := y }
def kernel (c : Ctx) : State := { solo [] with actor := .sepal 0, slots := [(0, slot0)], ctxts := [(0, c)] }
theorem witness_SepalWords : Claims.Turn (kernel ctx0) 0 ctx0 ∧ (5 : BitVec 3).toNat < 6 ∧ (4095 : BitVec 12) ≠ 0 ∧
    ctx0.c.getLsbD 3 = false ∧ { ctx0 with c := 8 }.c.getLsbD 3 = true ∧ ctx0.loops = [] ∧
    { ctx0 with loops := [(0, 0, 1023)] }.loops = [(0, ctx0.pc, 1022 + 1)] ∧ { ctx0 with loops := [(0, 5, 1)] }.loops = [(0, 5, 1)] :=
  ⟨⟨rfl, rfl⟩, by decide, by decide, by decide, by decide, rfl, rfl, rfl⟩
theorem witness_SepalHash : Claims.Turn (kernel ctx0) 0 ctx0 := ⟨rfl, rfl⟩
theorem witness_SepalData :
    let at_ := fun (y : Word) => sepalAddr (ctxY [(1, y)]) 1 0
    Claims.Turn (kernel ctx0) 0 ctx0 ∧ (kernel ctx0).slots.find? ctx0.slot = some slot0 ∧
    ((at_ 4092 % 4 = 0 ∧ at_ 4092 < 4096) ∧ at_ 4093 % 4 ≠ 0 ∧ (at_ 4096 % 4 = 0 ∧ 4096 ≤ at_ 4096) ∧
    (at_ 60 % 4 = 0 ∧ at_ 60 + 4 ≤ slot0.flowb) ∧ (at_ 64 % 4 = 0 ∧ slot0.flowb < at_ 64 + 4) ∧
    (at_ 4032 % 64 = 0 ∧ at_ 4032 < 4096) ∧ (at_ 0 % 64 = 0 ∧ at_ 0 + 64 ≤ slot0.flowb) ∧ at_ 32 % 64 ≠ 0 ∧ (12 : BitVec 4).toNat < 13 ∧
    (yOf (ctxY [(1, 64)]) 1).toNat ≤ ctx0.pkt.len ∧ ctx0.pkt.len < (yOf (ctxY [(1, 65)]) 1).toNat ∧
    (yOf (ctxY [(1, 4095)]) 1).toNat < 4096 ∧ 4096 ≤ (yOf (ctxY [(1, 4096)]) 1).toNat ∧ (yOf (ctxY [(1, 1)]) 1).toNat < 2 ∧
    2 ≤ (yOf (ctxY [(1, 2)]) 1).toNat ∧ (2 : BitVec 2) ≠ 3) ∧ ∀ y, vstAddr (ctxY [(1, y)]) 1 0 0 = at_ y :=
  ⟨⟨rfl, rfl⟩, rfl, by decide +kernel, fun y => by
      have h : (yOf (ctxY [(1, y)]) (0 : BitVec 4)).toNat = 0 := rfl
      simp only [vstAddr, sepalAddr, h, ite_self]; rfl⟩
theorem witness_SepalPackets :
    let s := kernel ctx0
    Claims.Turn s 0 ctx0 ∧ s.slots.find? ctx0.slot = some slot0 ∧
    (let t : State := { s with gregs := [(.peerid, 1)] }
     (yOf ctx0 1).toNat < 32 ∧ slot0.ports.getLsbD (yOf ctx0 1).toNat = true ∧ t.portUp (yOf ctx0 1).toNat = true) ∧
    ¬((yOf (ctxY [(1, 32)]) 1).toNat < 32) ∧ ctx0.mirrors.length < 4 ∧ 4 ≤ { ctx0 with mirrors := [0, 0, 0, 0] }.mirrors.length ∧
    ctx0.disp = .deliver ∧ { ctx0 with disp := .fwd 3 }.disp = .fwd 3 ∧ { ctx0 with disp := .drop }.disp = .drop ∧
    (let t := { s with sepalQ := [(1, request0 .put 64)] }
     t.sepalQ = [(1, request0 .put 64)] ∧ 1 / 4 = 0 ∧ t.ctxts.find? 1 = none ∧ t.ctxts.find? 0 ≠ none) ∧
    (∀ e ∈ s.sepalQ, e.1 / 4 ≠ 0) ∧ { s with launches := [] }.launches = [] ∧ s.arrivals = [] :=
  ⟨⟨rfl, rfl⟩, rfl, by decide +kernel, by decide +kernel, by decide, by decide, rfl, rfl, rfl, by decide +kernel, by decide, rfl, rfl⟩
/-- A store on its way. -/
def track : TrackEntry := { seq := 0, task := 1, tid := 0, num := 0, lseq := 1, func := 0, asid := 0, pc := 1200, regionPc := 1200, va := 64 }
/-- Its registration of a word, accepted or not. -/
def reg (word : Nat) (accepted : Bool) : Reg := { word := word, mask := 15, accepted := accepted, puts := [⟨track, 15, 7⟩] }
theorem witness_ThreadsEnd :
    (let s := solo []
     Lone s t0 (thr 0 []) ∧ (s.tasks.find? 1).isSome = true ∧ (s.tracked (s.coreOf t0)).length + (s.storesOf t0).length ≤ 64) ∧
    (let s := { solo [] with tracker := [(0, List.replicate 64 track)], regq := [(0, [reg 16 false])] }
     Lone s t0 (thr 0 []) ∧ 64 < (s.tracked (s.coreOf t0)).length + (s.storesOf t0).length) ∧
    ((run [] tsk { thr 0 [] with status := .exiting } (thr 1 [])).threads.find? (tkey t0)).map Thread.status = some .exiting ∧
    (∃ th, (run [] tsk { thr 0 [] with pend := [[(4, 7)]] } (thr 1 [])).threads.find? (tkey t0) = some th ∧ th.pend = [[(4, 7)]]) ∧
    (let s := run [] tsk { thr 0 [] with status := .parked (.deferred { code := 8, sub := 1 }) } (thr 1 [])
     ((s.threads.find? (tkey t0)).map Thread.status = some (.parked (.deferred { code := 8, sub := 1 }))) ∧ (s.task 1).status = .resident) :=
  ⟨⟨⟨rfl, rfl, rfl⟩, rfl, by decide +kernel⟩, ⟨⟨rfl, rfl, rfl⟩, by decide +kernel⟩, rfl, ⟨_, rfl, rfl⟩, rfl, rfl⟩
/-- A TAIL that finds no room in the tracker, one that finds it, and an XSUCC, each parked. -/
theorem witness_ParkedEnds :
    let s := fun (w : Wait) (n : Nat) => { run [] tsk { thr 0 [] with status := .parked w } (thr 1 []) with tracker := [(0, List.replicate n track)] }
    (∀ w n, ((s w n).threads.find? (tkey t0)).map Thread.status = some (.parked w)) ∧
    64 < ((s .tracker 65).tracked ((s .tracker 65).coreOf t0)).length + ((s .tracker 65).storesOf t0).length ∧
    ((s .tracker 64).tracked ((s .tracker 64).coreOf t0)).length + ((s .tracker 64).storesOf t0).length ≤ 64 ∧
    ((s (.xsucc 64) 0).task 1).status = .resident :=
  ⟨fun _ _ => rfl, by decide +kernel, by decide +kernel, rfl⟩
/-- A launch with an armed collective of a group of one. -/
def armedLaunch (c : Coll) : Launch :=
  { lseq := 1, rcd := { collid := 5 }, group := some { log2n := 0, self := 0, win := 0, jobkey := 7, slot := 0, sepv := false, members := [0] },
    coll := some c }
/-- A successor record of one thread (R212). -/
def successor : Successor := { entry := 12, threads := 1024, regs := 64, arg := 9 }
theorem witness_TasksEnd :
    (let s := { solo [] with mem := dwords 0 [12, 1024 + 2 ^ 16 * 64, 9] }
     Lone s t0 (thr 0 []) ∧ ((solo [(0, 32)]).readPair t0 0).toNat % 64 ≠ 0 ∧ (s.readPair t0 0).toNat % 64 = 0 ∧
     (∃ b s1, s.memReadRun t0 0 16 4 = .ok b s1 ∧ successorOf b = some successor ∧ (s1.task 1).xsucc = none) ∧
     (∃ b s1, (solo []).memReadRun t0 0 16 4 = .ok b s1 ∧ successorOf b = none ∧ s1.collect = none)) ∧
    (let s := run [] tsk { thr 0 [] with status := .parked (.xsucc 0) } { thr 1 [] with status := .ended }
     s.liveOf 1 = [{ thr 0 [] with status := .parked (.xsucc 0) }]) ∧
    (let s := run [] { tsk with status := .succeeding, xsucc := some successor } { thr 0 [] with status := .ended } (thr 1 [])
     (s.tasks.find? 1).map Task.xsucc = some (some successor) ∧ s.threadsFit 0 1024 64 = true ∧
     ({ s with threads := s.threads ++ (List.range 8).map (fun i => (2048 + i, { task := 2, tid := i })),
               tasks := s.tasks ++ [(2, { age := 2, regs := 100000 })] } : State).threadsFit 0 1024 64 = false) ∧
    (let s := run [] { tsk with status := .ended } { thr 0 [] with status := .ended } (thr 1 [])
     (s.tasks.find? 1).map Task.status = some .ended ∧ (s.launchOf 1).group = none ∧ s.locksOf 1 = [] ∧
     ({ s with locks := [entry 1 (.held 1)] } : State).locksOf 1 ≠ []) ∧
    (let s := fun (h : List (Nat × Nat)) => { run [] { tsk with status := .ended, handles := h } (thr 0 []) (thr 1 []) with
       launches := [(1, { armedLaunch {} with rcd := { collid := 5, result := 3 } })], layouts := [(7, lay), (8, { lay with rcd := { lay.rcd with spm := true } })] }
     ((s []).launchOf 1).group.isSome = true ∧ ((s []).launchOf 1).coll = some {} ∧ 1 % 2 ^ 24 ∉ ({} : Coll).tasks ∧
     1 % 2 ^ 24 ∈ ({ tasks := [1] } : Coll).tasks ∧ ((s []).task 1).handles.find? 3 = none ∧
     ((s [(3, 7)]).task 1).handles.find? 3 = some 7 ∧ ResultFits ((s [(3, 7)]).launchOf 1) (2 ^ 0) ((s [(3, 7)]).layout 7) ∧
     ((s [(3, 8)]).task 1).handles.find? 3 = some 8 ∧ ¬ResultFits ((s [(3, 8)]).launchOf 1) (2 ^ 0) ((s [(3, 8)]).layout 8)) := by
  refine ⟨⟨⟨rfl, rfl, rfl⟩, by decide +kernel, by decide +kernel, answers (by decide +kernel), answers (by decide +kernel)⟩,
    by decide +kernel, ⟨rfl, by decide +kernel, by decide +kernel⟩, ⟨rfl, rfl, by decide +kernel, by decide +kernel⟩,
    ⟨rfl, rfl, by decide, by decide, rfl, rfl, ?_, rfl, ?_⟩⟩
  · refine ⟨rfl, rfl, by decide +kernel, by decide +kernel, Or.inr (by decide +kernel), fun j h g => ?_⟩
    have e : lay.rcd.n - ones lay.rcd.tilemask = lay.rcd.n := by decide +kernel
    exact absurd g (Nat.not_lt.mpr (e ▸ h : lay.rcd.n ≤ j))
  · rintro ⟨h, -⟩; exact absurd h (by decide +kernel)
/-- Queue 0, valid, of one slot at 1 MiB. -/
def queued (s : State) : State := { linked s with gregs := [(.qcfg 0, 1), (.qbase 0, 0x100000)] }
/-- A launch in its slot, not checked yet. -/
def pending0 : Pending := { q := 0, count := 0, rcd := {}, group := none, ready := false, met := [], coll := none }
/-- A launch record of one task (R360). -/
def launchBytes : Memory := dwords 0x100000 [12, 1, 1 + 2 ^ 32, 1 + 2 ^ 32 + 2 ^ 48 * 64]
theorem witness_Launching :
    (let s := queued (solo [])
     Lone s t0 (thr 0 []) ∧ ((solo [(0, 32)]).readPair t0 0).toNat % 64 ≠ 0 ∧ (s.readPair t0 0).toNat % 64 = 0 ∧
     (¬(8192 ≤ 0 ∨ s.qValid 0 = false ∨ s.qFunc 0 ≠ (s.task 1).func) ∧ s.qValid 8191 = false ∧
     ¬(2 ^ s.qLog 0 ≤ ((s.greg (.qtail 0)).toNat + 2 ^ 32 - (s.greg (.qhead 0)).toNat % 2 ^ 32) % 2 ^ 32) ∧
     (let f : State := { s with gregs := s.gregs ++ [(.qtail 0, 1)] }
      2 ^ f.qLog 0 ≤ ((f.greg (.qtail 0)).toNat + 2 ^ 32 - (f.greg (.qhead 0)).toNat % 2 ^ 32) % 2 ^ 32)) ∧
     (∃ b s1, s.memReadRun t0 0 16 16 = .ok b s1 ∧ b.length = 256) ∧ s.up = true ∧
     256 * ((s.greg (.qbase 0)).toNat / 2 ^ 8 % 2 ^ 44) + 256 * (0 % 2 ^ s.qLog 0) + 256 ≤ 2 ^ 39) ∧
    (let s : State := { queued (solo []) with pending := [pending0], mem := launchBytes }
     (s.pending? 0 0).map Pending.ready = some false ∧ s.memReady = true ∧ s.bootFail = false ∧ s.qSlot 0 0 + 256 ≤ 2 ^ 39 ∧
     ctxValid (s.ctx (s.qAsid 0)).1 = true ∧
     ((LaunchRec.parse (s.readBytesAt (homeDie (s.qSlot 0 0 / 256)) (s.qSlot 0 0) 256).1).map LaunchRec.group) = some 0) ∧
    LaunchRec.parse (List.replicate 256 0) = none ∧ ({ queued (solo []) with memReady := false } : State).memReady = false ∧
    { pending0 with ready := true, met := [true, false] }.ready = true ∧ (DepRead.bad ∈ [DepRead.bad]) ∧
    (DepRead.bad ∉ [DepRead.met false] ∧ DepRead.met true ∉ [DepRead.met false]) :=
  ⟨⟨⟨rfl, rfl, rfl⟩, by decide +kernel, by decide +kernel, by decide +kernel,
    answers (by decide +kernel), rfl, by decide +kernel⟩, by decide +kernel, by decide +kernel, rfl, rfl, by decide, by decide⟩
/-- A launch of two stages and three cores, whose second stage waits on its channel. -/
def twoStages : Launch :=
  { lseq := 1, rcd := { stages := 2, kind := [false, false], threads := [1, 1], regs := [64, 64], nchan := 1, chmap := [(0, 1)] },
    cores := [0, 1, 2], serves := [0, 1, 1] }
/-- A launch one of whose tasks waits on core 8, and may be donated. -/
def waitingLaunch (scratch : Nat) : Launch :=
  { lseq := 1, rcd := { donate := true, scratch := scratch }, cores := [8], waiting := [⟨0, 0, 0, 8⟩] }
theorem witness_Scheduling :
    (let s : State := { queued (solo []) with pending := [{ pending0 with ready := true, met := [true, true, true, true] }] }
     s.memReady = true ∧ s.arbitrate.isSome = true) ∧ (solo []).arbitrate = none ∧
    (let s := fun (n : Nat) => { solo [] with launches := [(1, waitingLaunch n)] }
     Settled (s 64) ∧ (firstPlaced ((s 64).waitingOn 8)).isSome = true ∧ firstPlaced ((s 64).waitingOn 0) = none ∧
     (s 524288).spmRoom 8 524288 = some 0 ∧
     ({ s 64 with tasks := [(1, { tsk with phys := 8, spmSize := 524288 })] } : State).spmRoom 8 64 = none ∧
     (s 64).launches.find? 1 = some (waitingLaunch 64)) ∧
    (let s := { solo [] with launches := [(1, twoStages)] }
     Settled s ∧ twoStages.moves 0 = some (0, 1) ∧ (waitingLaunch 0).moves 0 = none ∧ s.launches.find? 2 = none ∧ twoStages.window < 1 ∧
     (let l : Launch := { twoStages with waiting := [⟨0, 1, 1, 1⟩, ⟨1, 1, 2, 2⟩], serves := [0, 0, 1] }
      ∃ w ∈ (l.replace 1 1).waiting, w ∉ l.waiting)) ∧
    (let s := { solo [] with launches := [(1, waitingLaunch 0)] }
     s.idleCore 5 = true ∧ s.idleCore 0 = false ∧
     greatest (donated s) ((List.range 16).map (fun b => 16 * Nat.xor (5 / 128) 0 + b)) = some 1 ∧
     ((greatest (fun (e : Nat × Launch) => (e.2.donates 1).length) s.launches).map Prod.fst) = some 1 ∧
     greatest (fun (w : WaitTask) => (waitingLaunch 0).rcd.number w + 1) ((waitingLaunch 0).donates 1) = some ⟨0, 0, 0, 8⟩) ∧
    (∀ i b, i < 4 → b < 16 → donated { solo [] with launches := [] } (16 * Nat.xor (5 / 128) i + b) = 0) ∧
    (let s := fun (c : Coll) => { solo [] with launches := [(1, armedLaunch c)] }
     armedAt (s {}) 2 = none ∧ (∃ c, armedAt (s {}) 1 = some c ∧ awaits c = true ∧ (∀ x ∈ (s {}).armedColls, x.job = c.job → x.id < c.id → awaits x = false) ∧
       ∃ r, (s {}).collFits c = some r) ∧ ∃ c, armedAt (s { reserved := true }) 1 = some c ∧ awaits c = false) := by
  refine ⟨by decide +kernel, by decide, ⟨by unfold Settled; decide, by decide, by decide, by decide, by decide, rfl⟩,
    ⟨by unfold Settled; decide, by decide, by decide, rfl, by decide, by decide +kernel⟩, by decide +kernel, ?_, ⟨rfl, ⟨_, rfl, by decide, by decide, ?_⟩, ⟨_, rfl, by decide⟩⟩⟩
  · intro i b _ _; rfl
  · exact ⟨([], 0), by simp [State.collFits, State.collStaging, State.collPools, State.collCounters, State.armedColls, armedOf, armedLaunch,
      ArmedColl.need, solo, run]; decide⟩
/-- A launch with a collective of two members, this one first. -/
def twoMembers (lseq id : Nat) (c : Coll) : Launch :=
  { lseq := lseq, rcd := { collid := id }, coll := some c,
    group := some { log2n := 1, self := 0, win := 0, jobkey := 7, slot := 0, sepv := false, members := [0, 1] } }
/-- Collectives of one job: failed, reserved, behind an earlier one, ahead of one whose exchange is open, and the message to a
partner. -/
theorem witness_Reserving :
    let s := fun (a b : Coll) => ({ solo [] with launches := [(1, twoMembers 1 5 a), (2, twoMembers 2 6 b)] } : State)
    let c := fun (id : Nat) (x : Coll) => ArmedColl.mk 7 id { log2n := 1, self := 0, win := 0, jobkey := 7, slot := 0, sepv := false, members := [0, 1] } 0 0 x
    let held : Coll := { reserved := true, counters := [9] }
    armedAt (s { failed := true } {}) 1 = some (c 5 { failed := true }) ∧ armedAt (s held {}) 1 = some (c 5 held) ∧
    (armedAt (s {} {}) 2 = some (c 6 {}) ∧ awaits (c 6 {}) = true ∧ c 5 {} ∈ (s {} {}).armedColls ∧ awaits (c 5 {}) = true ∧ 5 < 6) ∧
    (armedAt (s {} held) 1 = some (c 5 {}) ∧ (s {} held).collFits (c 5 {}) = none ∧ (s {} held).armedColls = [c 5 {}, c 6 held] ∧
      (s {} held).allReady (c 6 held) = false ∧ (s {} {}).collFits (c 5 {}) = none) ∧
    (let known : Coll := { result := some {} }
     let pools := fun (b : Coll) => ({ s known b with gregs := [(.collpool, 0x10001), (.collcnt, BitVec.ofNat 64 (9 + 2 ^ 12))] } : State)
     let took := { held with result := some {} }
     (pools took).collFits (c 5 known) = none ∧ ((pools {}).collFits (c 5 known)).isSome = true ∧
     (((pools took).collYield (c 6 took)).collFits (c 5 known)).isSome = true) ∧
    (c 5 held).group.others = [1] ∧ (s held {}).reachable 1 = true ∧ (s held {}).ready? 7 5 1 = none := by
  decide +kernel
/-- The first thread parked, the other gone. -/
def parkedIn (k : Task) (w : Wait) : State :=
  { run [] k (thr 0 []) (thr 1 []) with threads := [(1024, { thr 0 [] with status := .parked w })] }
theorem witness_ServiceAndSaves :
    (∃ th, (solo []).threads.find? (tkey t0) = some th ∧ th.status ≠ .ended) ∧ 2 ≠ 1 ∧
    (let s := { run [] tsk { thr 0 [] with status := .ended } (thr 1 []) with
       regq := [(0, [reg 16 false])], hostq := [⟨3, 64, [1], track⟩] }
     let hit := fun (x : Nat × TrackEntry) => x.2.task == t0.task && x.2.tid == t0.tid && x.2.pc == 1200 && x.2.va == 64
     (∀ th, s.threads.find? (tkey t0) = some th → th.status = .ended) ∧ (s.outstanding 1).find? hit = some (0, track) ∧
     (s.outstanding 2).find? hit = some (3, track) ∧ (s.outstanding 3).find? hit = none ∧ s.up = true ∧ (2 : Nat) ^ 33 ≤ (2 ^ 33 : BitVec 64).toNat) ∧
    (solo []).tokens.find? 5 = none ∧
    (let s := { parkedIn tsk (.page 5 { code := 3, sub := 1 }) with tokens := [(5, { func := 0, asid := 0, page := 0, kind := .read })] }
     (s.tokens.find? 5).map Token.func = some 0 ∧ ∃ th, s.threads = [(tkey t0, th)] ∧ th.ref = t0 ∧ th.status = .parked (.page 5 { code := 3, sub := 1 })) ∧
    (let s := { solo [] with heldPage := [(0, {})] }
     s.heldPage.find? (fun e => e.1 == 0) = some (0, {}) ∧ s.heldPage.find? (fun e => e.1 == 96) = none ∧ ringRoom 0 0 0 64 = false ∧
     ringRoom (0x100000 + 1) 1 0 64 = true ∧ ringRoom (0x100000 + 1) 2 0 64 = false) ∧
    (let s := { parkedIn tsk (.waitk 1) with gates := [(0, .clock)] }
     s.gates.find? (4 * 0 + 0) = some .clock ∧ s.petalWaits 0 0 = true ∧ s.petalWaits 0 3 = false ∧ hangRow (.waitk 1) = some (2, 1) ∧
     s.petalThreads 0 0 = [{ thr 0 [] with status := .parked (.waitk 1) }] ∧ Status.waits (.parked (.waitk 1)) = true) ∧
    (let s := run [] tsk (thr 0 []) { thr 1 [] with status := .ended }
     (∀ e ∈ s.tasks, e.2.phys ∉ [511]) ∧ ∃ k, s.tasks = [(1, k)] ∧ k.phys ∈ [0] ∧ k.status = .resident ∧ s.liveOf 1 = [thr 0 []]) ∧
    savedByRollback .ready = true ∧ savedAsIs (.parked (.waitk 1)) = true ∧
    (let s := { parkedIn { tsk with status := .saving } (.waitk 1) with gregs := [(.savepool, 0xFFFF)] }
     (∃ k, s.tasks.find? 1 = some k ∧ k.status = .saving ∧ s.quiet k = true ∧ s.saveRoom k = true ∧ k.age = 1) ∧
     ∃ k, ({ s with gregs := [] } : State).tasks.find? 1 = some k ∧ ({ s with gregs := [] } : State).saveRoom k = false) ∧
    (let s := { parkedIn { tsk with status := .saved } (.waitk 1) with threads := [] }
     (∃ k, s.tasks.find? 1 = some k ∧ k.age = 1 ∧ k.status = .saved ∧ s.restoreRoom k k.phys = some 0 ∧ k.held = [] ∧ k.heldCounts = []) ∧
     s.touched = [] ∧ s.liveOf 1 = []) ∧
    (let k : Task := { tsk with status := .saved, phys := 9 }
     let s := { solo [] with launches := [(1, { lseq := 1, cores := [9, 8] })], tasks := [(1, k), (2, { age := 2, phys := 9, spmSize := 524288 })] }
     s.restoreRoom k k.phys = none ∧ ∃ p ∈ (s.launchOf 1).cores, s.restoreRoom k p ≠ none) := by
  refine ⟨⟨_, rfl, by decide⟩, by decide, ⟨?_, by decide +kernel, by decide +kernel, by decide +kernel, by decide +kernel, by decide +kernel⟩, rfl, ⟨rfl, _, rfl, rfl, rfl⟩,
    by decide +kernel, by decide +kernel,
    ⟨by decide, _, rfl, by decide, rfl, by decide +kernel⟩, rfl, rfl, ⟨⟨_, rfl, rfl, by decide +kernel, by decide +kernel, rfl⟩, _, rfl, by decide +kernel⟩,
    ⟨⟨_, rfl, rfl, rfl, by decide +kernel, rfl, rfl⟩, rfl, by decide +kernel⟩, by decide +kernel⟩
  intro th h
  cases h
  rfl
/-- A store that is lost: alone in its registration, sharing it, or accepted already; and threads that a save takes out of a wait. -/
theorem witness_LostStores :
    let other : TrackEntry := { track with seq := 1, pc := 1216 }
    let s := fun (r : Reg) => ({ solo [] with
      regq := [(0, [r])], l1 := [(16, ⟨.pnd, 7⟩)], slices := [(0, { st := .m, v := 15, wm := 1 <<< 16 })] } : State)
    let two : Reg := { reg 16 false with puts := [⟨track, 15, 7⟩, ⟨other, 15, 9⟩] }
    let alone := fun (r : Reg) => ((s r).regs 0).filter (fun r => r.srcs.contains track) = [r]
    (alone (reg 16 false) ∧ (reg 16 false).puts.filter (fun p => p.src ≠ track) = []) ∧ (alone two ∧ two.puts.filter (fun p => p.src ≠ track) ≠ []) ∧
    (alone (reg 16 true) ∧ ((s (reg 16 true)).slice? (0 / 128) (16 / 64)).map (fun l => (l.registered 16, l.ownerCore 0 16)) = some (true, 0)) ∧
    (s two).l1? 0 16 = some ⟨.pnd, 7⟩ ∧
    (let p := fun (w : Wait) (ls : List Lock) => { parkedIn tsk w with locks := ls }
     (∀ w ls, ((p w ls).thread t0).status = .parked w) ∧ (p (.lock lockOf 8) [entry 1 (.wait 4)]).lock? 1 lockOf = some (entry 1 (.wait 4)) ∧
     (p (.lock lockOf 8) [entry 1 (.upg 1 4)]).lock? 1 lockOf = some (entry 1 (.upg 1 4)) ∧ (p (.retry .remote) []).streamOf t0 = none ∧
     (p (.waitk 1) []).liveOf 1 = [{ thr 0 [] with status := .parked (.waitk 1) }]) := by
  refine ⟨by decide +kernel, by decide +kernel, by decide +kernel, by decide +kernel, fun _ _ => rfl, rfl, rfl, by decide +kernel, rfl⟩
/-- Sixteen lines of the set of line 0 in the slices of die 0 (R64). -/
def fullSet : State :=
  { solo [] with
    slices := [4259840, 8519680, 12779520, 16777216, 21037056, 25296896, 29556736, 33554432, 37814272, 42074112, 46333952, 50331648, 54591488,
      58851328, 63111168, 67108864].zipIdx.map (fun e => (e.1, ({ st := .e, way := e.2 } : SliceLine))) }
theorem witness_HomeRequests : homeTable 3 5 ≠ [] ∧ metaValid (Tbl.get 0 (solo []).metas 5) = true ∧
    metaValid (Tbl.get 0 ([(5, 7)] : Tbl (BitVec 16)) 5) = false ∧ 2 ^ 31 - 1 < 2 ^ 31 ∧ 2 ^ 31 ≤ 2 ^ 31 ∧ SliceFits (solo []) 3 5 ∧
    fullSet.slice? 0 0 = none ∧ (fullSet.setLines 0 0).length = 16 ∧
    ((fullSet.setLines 0 0).find? (fun e => e.2.way == plruVictim (Tbl.get 0 fullSet.plru (setKey 0 0)))).isSome = true :=
  ⟨by simp [homeTable], by decide, by decide, by decide, by decide, Or.inr (by decide +kernel), by decide +kernel, by decide +kernel,
    by decide +kernel⟩
/-- Line 0 in a slice of die 0, with what core 0 holds of its first word, and a registration on its way. -/
def lined (e : SliceLine) (l : List (Nat × L1Word)) (acc : Bool) : State :=
  { solo [] with slices := [(0, e)], l1 := l, regq := [(0, [reg 0 acc])] }
theorem witness_HierarchyEvents :
    (let e : SliceLine := { st := .e, v := 15 }
     let s := lined e [(0, ⟨.pnd, 7⟩)] false
     s.fencedSlices = [] ∧ s.slice? (0 / 128) (0 / 256) = some e ∧ e.st ≠ .u ∧ e.v.getLsbD (0 / 64 % 4) = true ∧ (solo []).regs 0 = [] ∧
     s.regs 0 = [reg 0 false] ∧ e.wm.getLsbD 0 = false ∧ s.l1? 0 0 = some ⟨.pnd, 7⟩ ∧ (solo []).slice? 0 0 = none ∧ e.wm = 0 ∧ L1Fits s 0 0 ∧
     (∀ i x, i < 64 → s.l1? 0 (0 * 64 + i) ≠ some ⟨.par, x⟩)) ∧
    (let e : SliceLine := { st := .m, v := 15, d := 1, wm := 1 }
     let s := lined e [(0, ⟨.own, 7⟩)] true
     s.regs 0 = [reg 0 true] ∧ e.registered 0 = true ∧ e.ownerCore 0 0 = 0 ∧ s.l1? 0 0 = some ⟨.own, 7⟩ ∧
     (lined e [(0, ⟨.pnd, 7⟩)] true).l1? 0 0 = some ⟨.pnd, 7⟩) ∧
    (let s : State := { solo [] with hostq := [⟨0, 64, [1], track⟩], tracker := [(0, [track])] }
     s.regs 0 = [] ∧ s.hostq.find? (fun w => w.core == 0) = some ⟨0, 64, [1], track⟩ ∧ s.hostq.erase ⟨0, 64, [1], track⟩ = [] ∧
     (solo []).hostq.find? (fun w => w.core == 0) = none) ∧
    (let e : SliceLine := { st := .u, holders := 1#128 }
     let s : State := { solo [] with
       slices := [(0, e)], metas := [(0, Meta.pack { st := .u, sharers := 1 })], l1 := [(0, ⟨.par, 7⟩)], gregs := [(.spill 0, 0x100001)] }
     s.slice? 0 0 = some e ∧ ({ e with holders := 0 } : SliceLine).holders = 0 ∧ e.holders = 1#128 <<< 0 ∧ metaValid (Tbl.get 0 s.metas 0) = true ∧
     (s.lineMeta 0).st = .u ∧ (s.lineMeta 0).sharers.getLsbD 0 = true ∧ s.spillRoom (0 / 2 ^ 28 % 8) = true ∧
     s.l1? (0 * 128 + 0) (0 * 64 + 0) = some ⟨.par, 7⟩) ∧
    Unheld (solo []) (256 / 256) ∧ 2 ^ 39 - 8 + 8 ≤ 2 ^ 39 ∧ 0 % 256 + (List.replicate 256 (0 : Byte)).length ≤ 256 ∧
    2 ^ 39 < 2 ^ 39 - 3 + 4 ∧ (RedOp.mk .add true).wide = true ∧
    (let s : State := { solo [] with metas := [(0, Meta.pack { st := .u, sharers := 1 })], l1 := [(0, ⟨.par, 7⟩)] }
     metaValid (Tbl.get 0 s.metas 0) = true ∧ (s.lineMeta 0).st = .u ∧ (s.lineMeta 0).sharers.getLsbD 0 = true ∧
     s.l1? (0 * 128 + 0) (0 * 64 + 0) = some ⟨.par, 7⟩ ∧ s.spillRoom 0 = false ∧
     ({ s with gregs := [(.spill 0, 0x100001)] } : State).spillRoom 0 = true ∧ ((solo []).lineMeta 0).st ≠ .u) := by
  refine ⟨⟨rfl, by decide, by decide, by decide, rfl, rfl, by decide, rfl, rfl, rfl, Or.inr (by decide +kernel), ?_⟩,
    ⟨rfl, by decide, by decide, rfl, rfl⟩, by decide +kernel, by decide +kernel,
    ⟨by decide, by decide, fun d _ => rfl⟩, by decide, by decide +kernel, by decide, rfl, by decide +kernel⟩
  intro i x h
  have : ((lined { st := .e, v := 15 } [(0, ⟨.pnd, 7⟩)] false).l1? 0 (0 * 64 + i)).map L1Word.st ≠ some .par := by
    revert i; decide
  intro c
  rw [c] at this
  exact this rfl
/-- A fenced slice that a line comes to; two registrations of one store; a narrow one; no REMAP in flight, or one over memory. -/
theorem witness_Registrations :
    let pair_ := [{ reg 16 false with puts := [⟨track, 15, 7⟩] }, { reg 17 false with puts := [⟨track, 15, 8⟩] }]
    Fenced { solo [] with fencedSlices := [(decide (3 ≠ homeDie 5), 3, sliceNo 5)] } 3 5 ∧ ¬Fenced (solo []) 3 5 ∧
    (let s : State := { solo [] with regq := [(0, pair_)] }
     s.regs 0 = pair_ ∧ 17 / 2 = 16 / 2 ∧ (pair_.map (fun r => r.srcs.head?)).eraseDups = [some track]) ∧
    ({ reg 16 false with mask := 1 } : Reg).narrow = true ∧ (reg 16 false).narrow = false ∧
    L1Fits { solo [] with regq := [(0, [{ reg 16 false with mask := 1 }])] } 0 64 ∧ (∀ e ∈ (solo []).layouts, e.2.inflight = false) := by
  refine ⟨by unfold Fenced; decide +kernel, by unfold Fenced; decide +kernel, by decide +kernel, by decide, by decide, Or.inr (by decide +kernel),
    fun e h => by cases h⟩
/-- Sixteen page entries of one 64 KiB frame, read-only or not, with MIG or not. -/
def region (bits : Nat) : List DWord := (List.range 16).map (fun i => BitVec.ofNat 64 ((0x100 + i) * 4096 + bits))
/-- Free frames and room for returned ones in the rings of home agents 0 and 2. -/
def framed : State :=
  { solo [] with
    gregs := [(.frameret 0, 0x200008), (.frameret 2, 0x200008), (.framepool 2, 0x300008), (.frameidx 2, 100),
              (.plcthr, BitVec.ofNat 64 (255 + 2048 * 2 ^ 8 + 1024 * 2 ^ 24 + 64 * 2 ^ 40))] }
theorem quiet_links : ¬(framed.threshold 7 0 < (Config.linkOccupancy (Tbl.get 0 framed.epochs 0)).toNat) := by
  have h : framed.threshold 7 0 = 255 := by decide +kernel
  have := (Config.linkOccupancy (Tbl.get 0 framed.epochs 0)).isLt
  omega
theorem witness_PlacementAndHost :
    framed.decidePlacement { asid := 0, region := 0, rd := [0, 2048, 0, 0], wr := [0, 0, 0, 0] } (region 0x47) 0 = .migrate 1 ∧
    framed.decidePlacement { asid := 0, region := 0, rd := [1024, 1024, 0, 0], wr := [0, 0, 0, 0] } (region 0x47) 0 = .replicate [1] ∧
    ((solo []).powered = true ∧ (solo []).counts = [] ∧ (solo []).replicas = [] ∧ { solo [] with powered := false }.powered = false) ∧
    (let m : Migration := ⟨0, 0, 0, 2, 0x2000000, 0x40000, region 0x247, 0⟩
     let s : State := { framed with
       migrations := [m], ctxs := [(0, [1, 0x10000, 1, 0, 0, 0, 0, 0])]
       mem := dwords 0x10000 [0x20001] ++ dwords 0x20000 [0x30001] ++ dwords 0x30000 [0x40001] ++ dwords 0x40000 ((region 0x247).map BitVec.toNat) }
     s.migrations.find? (fun m => m.asid == 0 && m.region == 0) = some m ∧ s.migrations.find? (fun m => m.asid == 0 && m.region == 1) = none ∧
     s.returnRoom m.from_ = true ∧ s.returnRoom m.to_ = true ∧ (solo []).returnRoom 0 = false ∧ s.storesBefore 0 m.seq = false ∧
     ({ s with regq := [(0, [reg 16 false])] } : State).storesBefore 0 1 = true ∧
     (s.readDwordsAt 0 m.addr 16).1 = m.entries ∧
     (∀ l ∈ regionLines (region 0x247), (((regionLines m.entries).foldl (fun (s : State) l => s.mergeU l)
       { (s.readDwordsAt 0 m.addr 16).2 with migrations := [] }).lineMeta l).hint = false) ∧
     (solo []).regions = []) ∧
    (let s := { linked (run [] tsk { thr 0 [] with status := .parked (.retry (.mig 0 0)) } (thr 1 [])) with tlbs := [] }
     (s.thread t0).status = .parked (.retry (.mig 0 0)) ∧ (s.walk 0 0 0).1 = .leaf 30 0 0x1F ∧ 0x1F / 2 ^ 9 % 2 = 0 ∧
     ({ s with mem := dwords 0x10000 [0x20001] ++ dwords 0x20000 [0x21F] } : State).walk 0 0 0 ≠ s.walk 0 0 0) ∧
    (let s : State := { solo [] with fregs := [((0, .invq), 0x100004), ((0, .invtail), 1)] }
     (solo []).freg 0 .invtail = (solo []).freg 0 .invhead ∧ ringLog (s.freg 0 .invq) ≠ 0 ∧ ringUse (s.freg 0 .invtail) (s.freg 0 .invhead) ≠ 0 ∧
     ringBase (s.freg 0 .invq) + 32 * 2 ^ ringLog (s.freg 0 .invq) ≤ 2 ^ 39 ∧
     (s.bumpF 0 .invhead).poisoned (ringSlot (s.freg 0 .invq) (s.freg 0 .invhead) 32) = false ∧
     ((s.poison 0x100000).bumpF 0 .invhead).poisoned (ringSlot (s.freg 0 .invq) (s.freg 0 .invhead) 32) = true) ∧
    (let s : State := { solo [] with invals := [⟨0, 0, 0, false, 0, false, 0⟩], atsPending := [(0, 0, 5)], priPending := [(0, 6)] }
     s.invals.find? (fun i => i.func == 0) = some ⟨0, 0, 0, false, 0, false, 0⟩ ∧ s.storesBefore 0 0 = false ∧ (s.signalWaits 0 0).1 = false ∧ s.invals.find? (fun i => i.func == 1) = none ∧ s.atsPending.filter (fun e => e.2 == (0, 5)) = [(0, 0, 5)] ∧
     s.atsPending.filter (fun e => e.2 == (0, 6)) = [] ∧ s.atc.length < 4096 ∧ (0, 6) ∈ s.priPending ∧ (0, 5) ∉ s.priPending ∧ (0, 6) ∉ s.priDenied ∧ s.up = true) := by
  refine ⟨?_, ?_, ⟨rfl, rfl, rfl, rfl⟩, by decide +kernel, by decide +kernel, by decide +kernel, by decide +kernel⟩
  · rw [State.decidePlacement, if_neg quiet_links]; decide +kernel
  · rw [State.decidePlacement, if_neg quiet_links]; decide +kernel
/-- What an invalidation still waits for, and a host write that a translation let through. -/
theorem witness_Invalidations :
    let o := { opOf (.rget 64 true (BitVec.ofNat 64 peer0) 16) 0 with target := some 0, left := [0] }
    let s := fun (o : EngineOp) (st : Status) => { run [] tsk { thr 0 [] with status := st } (thr 1 []) with engines := [(1, o)] }
    let w : HostWrite := ⟨3, 0x40000010, [1], track⟩
    (s o .ready).remoteBefore 0 2 = true ∧ (s { o with queue := [0] } .ready).remoteBefore 0 2 = false ∧
    (s { o with left := [] } (.parked (.ratom 1 4 true 1200 0))).remoteBefore 0 2 = true ∧ (s o .ready).remoteBefore 1 2 = false ∧
    w ∈ ({ solo [] with hostq := [w] } : State).hostq ∧ ((0, 0, 0x40000), 0x40000) ∈ (solo []).atc ∧
    w.addr < (0x40000 + 1) * 4096 ∧ 0x40000 * 4096 < w.addr + w.bytes.length ∧
    (o.asid = 0 ∧ o.target ≠ none) := by
  decide +kernel
theorem witness_DeviceRegisters :
    (solo []).up = true ∧ State.reset.up = false ∧ (∃ e ∈ registerWrites (solo []) 64 9 0, e.1 = .c0resWrite 64 ∧ e.2.2.2) ∧
    only 0x0014000000000001 0xFFFF000FFFFFFFFF ∧ ¬ only 0x1000000000 0xFFFF000FFFFFFFFF ∧ only 0x1FFF 0x1FFF ∧
    (0x1FFF : DWord).getLsbD 0 = true ∧ (0x1FFE : DWord).getLsbD 0 = false ∧ ¬ only 0x2000 0x1FFF ∧ (solo []).armed = [] ∧
    pageRings 96 0x100004 ≠ [] ∧ (only 0x100004 0x000FFFFFFFFFF00F ∧ 4 ≤ 4 ∧ 0x100000 % (64 * 2 ^ 4) = 0) ∧ ¬ only 0x10 0x000FFFFFFFFFF00F ∧
    ringLog (({ solo [] with fregs := [((0, .invq), 0x100004)] } : State).freg 0 .invq) ≠ 0 ∧ (solo []).qFunc 0 = 0 ∧ (solo []).touched = [] := by
  refine ⟨rfl, rfl, ?_, ?_, ?_, ?_, by decide, by decide, ?_, rfl, by simp [pageRings], ⟨?_, by decide, by decide⟩, ?_, by decide, by decide +kernel, rfl⟩
  · exact ⟨(.c0resWrite 64, .c0res, 64, (64 : DWord).toNat ≤ 64), by simp [registerWrites], rfl, by decide⟩
  all_goals unfold only; decide
theorem witness_StartUpAndErrors :
    State.reset.powered = true ∧ { solo [] with powered := false }.powered = false ∧
    (let s : State := { solo [] with boot := .clearing }
     s.boot = .clearing ∧ s.powered = true) ∧ (solo []).powered = true ∧
    (only 3 0x000FFFFFFFFFF007 ∧ ((solo []).freg 0 .attest).getLsbD 0 = false ∧ (3 : DWord).getLsbD 0 = true ∧ (3 : DWord).getLsbD 1 = true ∧
      (1 : DWord).getLsbD 1 = false ∧ State.reset.boot = .waitLoad ∧ ¬ only 8 0x000FFFFFFFFFF007) ∧
    (let v : DWord := ({ solo [] with fregs := [((0, .attest), 1)] } : State).freg 0 .attest
     v.getLsbD 0 = true ∧ v.getLsbD 1 = false) ∧
    (let s : State := { solo [] with boot := .verifying, hostMem := dwords 8 [4096] }
     s.boot = .verifying ∧ ((s.loadImage 0).map (fun x => x.1.length) = some 4096) ∧ ({ s with hostMem := [] } : State).loadImage 0 = none) ∧
    2 ^ 39 - 1 < 2 ^ 39 ∧
    (let s : State := { solo [] with tasks := [] }
     31 ∉ s.fencedPorts ∧ 511 ∉ s.fencedCores ∧ s.fencedCores.length < 8 ∧ s.wornOut = false ∧ s.slices = [] ∧
     (∀ e ∈ s.launches, 511 ∉ e.2.cores ∧ ∀ w ∈ e.2.waiting, w.phys ≠ 511) ∧
     (s.fencedSlices.filter (fun x => x.1 == true && x.2.1 == 3)).length < 63 ∧ 0 ∈ ({ s with fencedPorts := [0] } : State).fencedPorts) ∧
    (let l : Launch := { waitingLaunch 0 with cores := [8, 9] }
     let s : State := { solo [] with tasks := [], fencedCores := [8], launches := [(1, l)] }
     s.tasks = [] ∧ s.fencedCores = [8] ∧ s.launches = [(1, l)] ∧ (∃ q ∈ l.cores, q ≠ 8) ∧ ∀ w ∈ l.waiting, w.core < l.cores.length) := by
  refine ⟨rfl, rfl, ⟨rfl, rfl⟩, rfl, ⟨?_, rfl, by decide, by decide, by decide, rfl, ?_⟩, by decide, ⟨rfl, by decide +kernel, by decide +kernel⟩,
    by decide, by decide +kernel, by decide +kernel⟩ <;>
  · unfold only; decide
theorem witness_StepRunsDecoded :
    (let s : State := { (solo []) with agenda := [.issue [t0]], actor := .none, mem := [(1203, 0x00)] }
     s.mayIssue [t0] = true ∧ (∀ t ∈ [t0], s.asyncDue t = false) ∧ (s.thread t0).second = none ∧
     (∃ ws s1, s.fetchPacket t0 (packetOf 1200) = .ok ws s1 ∧ groupAt 1200 ws = [⟨1200, 0⟩] ∧ (s1.thread t0).pc = 1200) ∧
     decodeWord 0 = .ok (.nop ⟨false, false⟩) ∧ (∀ t ∈ [t0], s.groupCheck t [⟨1200, 0⟩] = none)) ∧
    (let s := kernel ctx0
     s.ctxts.find? 0 = some ctx0 ∧ s.slots.find? ctx0.slot = some slot0 ∧ slot0.words[ctx0.pc]? = some 0x48000000 ∧
     decodeSepal 0x48000000 = some .sepalDone) := by
  refine ⟨⟨by decide +kernel, by decide +kernel, rfl, answers (by decide +kernel), by decide +kernel, by decide +kernel⟩, rfl, rfl, rfl,
    by decide +kernel⟩
/-- A chained group of two words that passes its checks, one with a word that is no encoding, one whose words share a pipe, a pending
and a dead register under STRICT, a fetch that faults, and a thread whose asynchronous traps are due. -/
theorem witness_Groups :
    let s := fun (m : Memory) (th : Thread) (k : Task) => ({ run [] k th (thr 1 []) with agenda := [.issue [t0]], mem := m } : State)
    let due := { thr 0 [] with boundary := true, stores := [{ code := 10 }] }
    let wounded := { thr 0 [] with boundary := true, wound := some 1200 }
    let nops : List GroupWord := [⟨1200, 0x80000000⟩, ⟨1204, 0⟩]
    -- ADD.b32 g4 = g4 + g8
    let adds : List GroupWord := [⟨1200, 0x81104230⟩, ⟨1204, 0x01104230⟩]
    let strict := { tsk with strict := true }
    (∃ ws s1, (s [(1203, 0x80)] (thr 0 []) tsk).fetchPacket t0 (packetOf 1200) = .ok ws s1 ∧ groupAt 1200 ws = nops ∧
      (s1.thread t0).pc = 1200 ∧ (s1.groupCheck t0 nops).isNone = true ∧ s1.mayIssue [t0] = true) ∧
    ((solo []).groupCheck t0 [⟨1200, 0x80000000⟩, ⟨1204, 0x09000000⟩]).map Prod.fst = some 1204 ∧
    (chainBad adds = true ∧ (∀ w ∈ adds, wordCheck tsk w.raw = none) ∧ chainBad nops = false) ∧
    (strictCheck { thr 0 [] with pend := [[(4, 7)]] } (GroupWord.form ⟨1200, 0x01104230⟩) = some 16 ∧
      strictCheck { thr 0 [] with dead := 0x100 } (GroupWord.form ⟨1200, 0x01104230⟩) = some 8) ∧
    ((run [] strict { thr 0 [] with pend := [[(4, 7)]] } (thr 1 [])).illegalAhead t0 [⟨1200, 0x01104230⟩]).isNone = true ∧
    (match (s [] { thr 0 [] with pc := 0x80000004 } tsk).fetchPacket t0 (packetOf 0x80000004) with
      | .stop (.page _ _ _) _ => true
      | _ => false) = true ∧
    ((s [] due tsk).asyncDue t0 = true ∧ (s [] wounded tsk).asyncDue t0 = true ∧ (s [] wounded tsk).mayIssue [t0] = true ∧
      (s [] (thr 0 []) tsk).asyncDue t0 = false) ∧
    firstStop [(t0, 1204, .trap { code := 16, sub := 0 }), (t0, 1200, .trap { code := 1, sub := 9 })] t0 =
      some (1200, .trap { code := 1, sub := 9 }) := by
  refine ⟨answers (by decide +kernel), ?_⟩
  decide +kernel
theorem witness_WaitingPetalsStayGated : State.reset.Gated ∧
    ({ parkedIn tsk (.waitk 1) with gates := [(0, .clock)] } : State).petalWaits 0 0 = true ∧
    ({ parkedIn tsk (.waitk 1) with gates := [(0, .clock)] } : State).Gated := by
  refine ⟨(by intro e he; cases he), by decide +kernel, ?_⟩
  unfold State.Gated
  decide +kernel
theorem witness_DecodeIsExact : ∃ w i, decodeWord w = .ok i ∧ ∃ v j, decodeSepal v = some j :=
  ⟨0, _, (by decide +kernel : decodeWord 0 = .ok (.nop ⟨false, false⟩)), 0x48000000, _,
    (by decide +kernel : decodeSepal 0x48000000 = some .sepalDone)⟩

end
end Sys2Proof.Tests
end

