-- ==== Sys2Proof/Proofs/LockManager.lean ====
section
/-! SUPPORT. The lock manager (03_lock_manager): which modes a mode covers (R96), and the home agent of a tile lock (R93). -/
open Sys2Proof Sys2Proof.Machine Sys2Proof.Machine.Claims
namespace Sys2Proof.Proofs.LockManager

/-! ## Modes (R96) -/

/-- One case per held mode: IS, IX, S, SIX, X, INC. -/
theorem covers_iff_mem_coverTable {a b : Nat} (ha : a < 6) (hb : b < 6) :
    covers a b = true ↔ b ∈ coverTable.getD a [] := by
  match a, ha with
  | 0, _ => simp [covers, coverTable]
  | 1, _ => simp [covers, coverTable]; omega
  | 2, _ => simp [covers, coverTable]
  | 3, _ => simp [covers, coverTable]; omega
  | 4, _ => simp [covers, coverTable]; omega
  | 5, _ => simp [covers, coverTable]

/-- Settles O34: row by row of R96's list. -/
theorem lockModesCover : Obligations.LockModesCover := by
  unfold Obligations.LockModesCover
  exact fun _ ha _ hb => covers_iff_mem_coverTable ha hb

/-! ## The hash of a tile lock (R93) -/

/-- The model folds the groups into `h` as it cuts them; the claim cuts them all first. -/
theorem tileHome_eq_groupXor (va tile : Nat) :
    tileHome va tile = groupXor (Nat.xor (va / 2 ^ 6 % 2 ^ 42) tile) :=
  (List.foldl_map ..).symm

/-! ## What a translation leaves of the layout states -/

theorem find?_map_snd {β γ : Type} (g : β → γ) (m : Tbl β) (k : Nat) :
    Tbl.find? (m.map fun e => (e.1, g e.2)) k = (Tbl.find? m k).map g := by
  induction m with
  | nil => rfl
  | cons e r ih => by_cases h : e.1 = k <;> simp [Tbl.find?, h, ih]

/-- A layout state without its list of competing stores, the one part of it that the memory hierarchy holds (R135). -/
def withoutHits (l : Layout) : Layout := { l with hits := [] }

theorem find?_layouts_still (s : State) (k : Nat) :
    s.still.layouts.find? k = (s.layouts.find? k).map withoutHits :=
  find?_map_snd withoutHits s.layouts k

theorem layout_still (s : State) (k : Nat) : s.still.layout k = withoutHits (s.layout k) := by
  rw [State.layout, State.layout, find?_layouts_still]
  cases s.layouts.find? k <;> rfl

/-- The record VA of a layout state is none of what the memory hierarchy holds. -/
theorem layout_va_of_still {s u : State} (h : u.still = s.still) (k : Nat) : (u.layout k).va = (s.layout k).va := by
  have va_still : ∀ x : State, (x.still.layout k).va = (x.layout k).va := fun x => by rw [layout_still]; rfl
  rw [← va_still u, h, va_still s]

/-! ## A lock request at tile level (R91, R92) -/

theorem andThen_eq_ok {α β : Type} {r : Res α} {f : α → State → Res β} {v : β} {u : State} :
    r.andThen f = .ok v u ↔ ∃ a w, r = .ok a w ∧ f a w = .ok v u := by
  cases r <;> simp [Res.andThen]

theorem handleOf_of_names {s : State} {t : ThreadRef} {h k : Nat} {l : Layout} (hn : Names s t h k l) :
    s.handleOf t h = .ok k s := by
  obtain ⟨hle, hfind, -⟩ := hn
  simp [State.handleOf, State.handle?, hfind, Nat.not_lt.mpr hle]

theorem layout_of_names {s : State} {t : ThreadRef} {h k : Nat} {l : Layout} (hn : Names s t h k l) : s.layout k = l := by
  obtain ⟨-, -, hfind⟩ := hn
  simp [State.layout, hfind]

/-- Naming a lock reads the context, which may go through the memory hierarchy; nothing else changes. -/
theorem lockName_still {s u : State} {t : ThreadRef} {k level a : Nat} {n : LockName}
    (h : s.lockName t k level a = .ok n u) : u.still = s.still := by
  have hu : u = (s.ctx (s.asidOf t)).2 := by
    simp only [State.lockName, Res.trap] at h
    split at h
    · cases h; rfl
    · split at h
      · split at h
        · cases h
        · cases h; rfl
      · cases h; rfl
  rw [hu, State.ctx_still]

/-- A request at tile level that is made goes to the hash of its record's VA and its tile id. -/
theorem lockReq_tile_home {s u : State} {t : ThreadRef} {f : FmtTL} {up : Bool} {q : LockReq} {k : Nat}
    (hlevel : f.level = 1) (hk : s.handleOf t (s.readG t f.bo.toNat).toNat = .ok k s) (h : s.lockReq t f up = .ok q u) :
    q.home = tileHome (s.layout k).va (s.readPair t f.a.toNat).toNat := by
  have hlev : f.level.toNat = 1 := by rw [hlevel]; rfl
  simp only [State.lockReq, hlev, Nat.one_ne_zero, if_true, if_false, andThen_eq_ok, hk] at h
  obtain ⟨_, _, hhandle, _, _, hname, _, _, -, hreq⟩ := h
  cases hhandle; cases hreq
  rw [layout_va_of_still (lockName_still hname)]

/-- Settles O35: the hash is the claim's fold, and the record VA it reads is the one the handle named when the request was made. -/
theorem tileLockHome : Obligations.TileLockHome := by
  unfold Obligations.TileLockHome
  refine ⟨tileHome_eq_groupXor, fun f s t up q s1 k l hlevel hreq hn => ?_⟩
  rw [lockReq_tile_home hlevel (handleOf_of_names hn) hreq, layout_of_names hn, tileHome_eq_groupXor]

end Sys2Proof.Proofs.LockManager
end

/-! SUPPORT. Traps (17_traps_preemption): RTE by a thread that is in no handler (R383). -/
namespace Sys2Proof.Proofs.Traps
open Sys2Proof Sys2Proof.Machine

/-! ## The two words are one return (R382); only the address they go to differs -/

theorem exec_rteRestart (f : FmtSA) (s : State) :
    exec (.rteRestart f) s = .next (rte (fun s t => (s.thread t).trapRec.regionPc) s) := rfl

theorem exec_rteNext (f : FmtSA) (s : State) :
    exec (.rteNext f) s = .next (rte (fun s t =>
      if (s.thread t).trapRec.code = trapStore ∨ (s.thread t).trapRec.code = trapWound then (s.thread t).trapRec.pc
      else s.afterGroup t (s.thread t).trapRec.pc) s) := rfl

/-! ## Outside a handler (R383) -/

section
variable {s : State} {t : ThreadRef} {th : Thread}

/-- ILLEGAL of a lone lane names the word at the thread's pc (R244). -/
theorem illegal_of_lone {α : Type} (h : Lone s t th) (n : Nat) :
    (illegal n t s : Res α) = .stop (.trap { code := 1, sub := n, va := th.pc }) s := by
  rw [illegal, h.thread]; rfl

/-- The handler check comes before the target is read: whatever the target, the lane takes NOHANDLER. -/
theorem rte_outside_handler (h : Lone s t th) (hcollect : s.collect = none) (hhandler : th.handler = false)
    (target : State → ThreadRef → DWord) :
    rte target s = s.takeTrap t { code := 1, sub := 15, va := th.pc } := by
  refine runTo_stop h (r := .trap { code := 1, sub := 15, va := th.pc }) ?_ hcollect
  rw [h.thread, hhandler]
  exact illegal_of_lone h 15
end

/-- Settles O14: each of the two words is `rte` to some address, and `rte` traps before it goes anywhere. -/
theorem returnOutsideHandler : Obligations.ReturnOutsideHandler := by
  unfold Obligations.ReturnOutsideHandler
  intro f s t th h hcollect hhandler i hi
  have hrte := rte_outside_handler h hcollect hhandler
  obtain rfl | rfl : i = .rteRestart f ∨ i = .rteNext f := by simpa using hi
  · rw [exec_rteRestart, hrte]
  · rw [exec_rteNext, hrte]

end Sys2Proof.Proofs.Traps

/-! SUPPORT. Sepals (21_sepal): the turn of a context that goes on (R431, R435), and the CRC of HASH (R438). -/
namespace Sys2Proof.Proofs.Sepals
open Sys2Proof Sys2Proof.Machine Sys2Proof.Machine.Claims

/-! ## A word that goes on (R435, R440) -/

/-- The word sees the context with its cycles already charged; what it answers is put back at its next word. -/
theorem onSepal_go {s u : State} {k n : Nat} {c c' : Ctx} {f : State → Ctx → KRes} (h : Turn s k c)
    (hf : f s (charged c n) = .go c' u) : Host.Outcome.next (onSepal n f s) = goesOn u k c' := by
  obtain ⟨hactor, hfind⟩ := h
  simp only [onSepal, hactor, hfind]
  rw [charged] at hf
  rw [hf, goesOn]

/-- No other part of the context or of the package changes. -/
theorem exec_sepalHash {s : State} {k : Nat} {c : Ctx} (h : Turn s k c) (d a b : BitVec 4) :
    exec (.sepalHash d a b) s = goesOn s k (withY (charged c 2) d (crcWord (yOf c a) (yOf c b))) :=
  onSepal_go h rfl

/-! ## The CRC-32C update as numbers (R438) -/

/-- One of the eight rounds of a byte. -/
theorem toNat_crcRound (x : Word) :
    (if x.getLsbD 0 then (x >>> 1) ^^^ 0x82F63B78 else x >>> 1).toNat =
      if x.toNat % 2 = 1 then Nat.xor (x.toNat / 2) 0x82F63B78 else x.toNat / 2 := by
  have hlow : x.getLsbD 0 = decide (x.toNat % 2 = 1) := by simp [BitVec.getLsbD, Nat.testBit_zero]
  have hshift : (x >>> 1).toNat = x.toNat / 2 := by simp [Nat.shiftRight_eq_div_pow]
  by_cases hodd : x.toNat % 2 = 1
  · simp only [hlow, hodd, decide_true, if_true, BitVec.toNat_xor, hshift]
    rfl
  · simp only [hlow, hodd, decide_false, Bool.false_eq_true, if_false, hshift]

/-- The rounds on words and those on numbers run in step. -/
theorem toNat_crcByte (crc b : Word) : (crcByte crc b).toNat = crcStep crc.toNat b.toNat := by
  have hstart : Nat.xor crc.toNat b.toNat = (crc ^^^ b).toNat := rfl
  rw [crcByte, crcStep, hstart]
  exact (List.foldl_hom BitVec.toNat fun x _ => (toNat_crcRound x).symm).symm

theorem toNat_zeroExtend_byte (w : Word) (start : Nat) :
    ((w.extractLsb' start 8).zeroExtend 32).toNat = w.toNat / 2 ^ start % 2 ^ 8 := by
  rw [BitVec.zeroExtend, BitVec.toNat_setWidth_of_le (by decide), BitVec.extractLsb'_toNat, Nat.shiftRight_eq_div_pow]

/-- One `crcStep` per byte of `b`, the lowest innermost. -/
theorem toNat_crcWord (a b : Word) :
    let byte := fun (i : Nat) => b.toNat / 2 ^ (8 * i) % 2 ^ 8
    (crcWord a b).toNat = crcStep (crcStep (crcStep (crcStep a.toNat (byte 0)) (byte 1)) (byte 2)) (byte 3) := by
  simp only [crcWord, bytesOfWord, List.foldl_cons, List.foldl_nil, toNat_crcByte, toNat_zeroExtend_byte]

/-- Settles O42: the word computes `crcWord` of its registers, which is the rule's CRC once read as a number. -/
theorem sepalHash : Obligations.SepalHash := by
  unfold Obligations.SepalHash
  intro s k c d a b h byte
  rw [exec_sepalHash h, ← toNat_crcWord (yOf c a) (yOf c b), BitVec.ofNat_toNat, BitVec.setWidth_eq]

end Sys2Proof.Proofs.Sepals
